-- ==== Sys2Proof/Word.lean ====
section
/-!
DEFINITION. The word types of the device (R6) and their plainest arithmetic.
-/

namespace Sys2Proof

/-- A byte, the smallest addressable unit (R6). -/
abbrev Byte := BitVec 8

/-- An instruction word (R34). -/
abbrev Word := BitVec 32

/-- A doubleword: a scalar register, a control register, an address while it is computed (R6, R60). -/
abbrev Dword := BitVec 64

/-- A vector register (R60). -/
abbrev Vec := BitVec 256

/-- A tile command word (R55). -/
abbrev Tile := BitVec 256

/-- A register field of an instruction word (R36). -/
abbrev Reg := BitVec 5

/-- A predicate register field (R36). -/
abbrev PReg := BitVec 3

/-- Bits `[hi:lo]` of a value, read as a number (R8). -/
def bits (x : Nat) (hi lo : Nat) : Nat := x / 2 ^ lo % 2 ^ (hi + 1 - lo)

/-- `x` with bits `[hi:lo]` replaced by the low bits of `v`. -/
def setBits (x : Nat) (hi lo v : Nat) : Nat :=
  x - bits x hi lo * 2 ^ lo + v % 2 ^ (hi + 1 - lo) * 2 ^ lo

/-- Bit `i` of a number. -/
def bit (x i : Nat) : Bool := x / 2 ^ i % 2 == 1

/-- SInt(x, n) of R8: the low `n` bits of `x` as a signed integer. -/
def sint (x n : Nat) : Int :=
  if x % 2 ^ n < 2 ^ (n - 1) then (x % 2 ^ n : Nat) else (x % 2 ^ n : Nat) - 2 ^ n

/-- UInt(x, n) of R8 for an integer of unbounded width. -/
def uint (x : Int) (n : Nat) : Nat := (x % 2 ^ n).toNat

/-- A number as a doubleword. -/
def dw (x : Nat) : Dword := BitVec.ofNat 64 x

/-- A number as one bit of a larger field. -/
def b2n (b : Bool) : Nat := if b then 1 else 0

/-- The `n` little-endian bytes of a number (R6). -/
def toBytes : Nat → Nat → List Byte
  | _, 0 => []
  | x, n + 1 => BitVec.ofNat 8 x :: toBytes (x / 256) n

/-- The number whose little-endian bytes are given (R6). -/
def ofBytes : List Byte → Nat
  | [] => 0
  | b :: t => b.toNat + 256 * ofBytes t

end Sys2Proof
end

