-- ==== Sys2Proof/Machine/Aes.lean ====
section
/-!
DEFINITION. AES-256-XTS over 64-byte granules, as the HBM controllers encrypt (R82). The spec names the algorithm; its
tables are those of the public standards (PRESUMED, log 8). A block is 16 bytes, given as a list.
-/

namespace Sys2Proof.Machine

/-- Multiplication by x in the field of AES. -/
def xtime (b : Byte) : Byte := if b.getLsbD 7 then (b <<< 1) ^^^ 0x1B else b <<< 1

/-- Multiplication in the field of AES, over the low `n` bits of the first factor. -/
def gmulN : Nat → Byte → Byte → Byte
  | 0, _, _ => 0
  | n + 1, a, b => (if a.getLsbD 0 then b else 0) ^^^ gmulN n (a >>> 1) (xtime b)

/-- Multiplication in the field of AES. -/
def gmul (a b : Byte) : Byte := gmulN 8 a b

/-- The inverse in the field of AES, the 254th power, and 0 of 0. -/
def ginv (a : Byte) : Byte :=
  let a2 := gmul a a
  let a4 := gmul a2 a2
  let a8 := gmul a4 a4
  let a16 := gmul a8 a8
  let a32 := gmul a16 a16
  let a64 := gmul a32 a32
  let a128 := gmul a64 a64
  gmul a2 (gmul a4 (gmul a8 (gmul a16 (gmul a32 (gmul a64 a128)))))

/-- The byte substitution of AES. -/
def sbox (a : Byte) : Byte :=
  let b := ginv a
  b ^^^ b.rotateLeft 1 ^^^ b.rotateLeft 2 ^^^ b.rotateLeft 3 ^^^ b.rotateLeft 4 ^^^ 0x63

/-- The inverse byte substitution of AES. -/
def sboxInv (a : Byte) : Byte :=
  ginv (a.rotateLeft 1 ^^^ a.rotateLeft 3 ^^^ a.rotateLeft 6 ^^^ 0x05)

/-- Exclusive OR of two lists of bytes. -/
def xorBytes (a b : List Byte) : List Byte := List.zipWith (· ^^^ ·) a b

/-- Byte `i` of a list, 0 beyond its end. -/
def byteAt (l : List Byte) (i : Nat) : Byte := l.getD i 0

/-- The rows of the state are shifted: byte r of column c comes from column c + r. -/
def shiftRows (b : List Byte) : List Byte :=
  [0, 5, 10, 15, 4, 9, 14, 3, 8, 13, 2, 7, 12, 1, 6, 11].map (byteAt b)

/-- The inverse of `shiftRows`. -/
def shiftRowsInv (b : List Byte) : List Byte :=
  [0, 13, 10, 7, 4, 1, 14, 11, 8, 5, 2, 15, 12, 9, 6, 3].map (byteAt b)

/-- Each column times the circulant matrix of four coefficients. -/
def mixWith (k0 k1 k2 k3 : Byte) (b : List Byte) : List Byte :=
  let col (c : Nat) : List Byte :=
    let x i := byteAt b (4 * c + i)
    [gmul k0 (x 0) ^^^ gmul k1 (x 1) ^^^ gmul k2 (x 2) ^^^ gmul k3 (x 3),
     gmul k3 (x 0) ^^^ gmul k0 (x 1) ^^^ gmul k1 (x 2) ^^^ gmul k2 (x 3),
     gmul k2 (x 0) ^^^ gmul k3 (x 1) ^^^ gmul k0 (x 2) ^^^ gmul k1 (x 3),
     gmul k1 (x 0) ^^^ gmul k2 (x 1) ^^^ gmul k3 (x 2) ^^^ gmul k0 (x 3)]
  col 0 ++ col 1 ++ col 2 ++ col 3

/-- The column mixing of AES. -/
def mixColumns : List Byte → List Byte := mixWith 2 3 1 1

/-- The inverse column mixing of AES. -/
def mixColumnsInv : List Byte → List Byte := mixWith 14 11 13 9

/-- The key schedule of AES-256 from word `i` on: `prev` holds the words so far, the newest first. -/
def expandFrom : Nat → Nat → Byte → List (List Byte) → List (List Byte)
  | 0, _, _, prev => prev
  | n + 1, i, rcon, prev =>
    let last := prev.headD []
    let back := prev.getD 7 []
    let t :=
      if i % 8 = 0 then
        xorBytes ([byteAt last 1, byteAt last 2, byteAt last 3, byteAt last 0].map sbox) [rcon, 0, 0, 0]
      else if i % 8 = 4 then last.map sbox
      else last
    expandFrom n (i + 1) (if i % 8 = 0 then xtime rcon else rcon) (xorBytes back t :: prev)

/-- The words of a key, the first the lowest four bytes. -/
def keyWords (k : BitVec 256) : List (List Byte) :=
  let b := toBytes k.toNat 32
  (List.range 8).map fun i => (b.drop (4 * i)).take 4

/-- The 15 round keys of AES-256. -/
def roundKeys (k : BitVec 256) : List (List Byte) :=
  let w := (expandFrom 52 8 1 (keyWords k).reverse).reverse
  (List.range 15).map fun r => ((w.drop (4 * r)).take 4).flatten

/-- Encryption of one block with AES-256. -/
def aesEnc (k : BitVec 256) (b : List Byte) : List Byte :=
  let ks := roundKeys k
  let s0 := xorBytes b (ks.getD 0 [])
  let mid := (List.range 13).foldl
    (fun s r => xorBytes (mixColumns (shiftRows (s.map sbox))) (ks.getD (r + 1) [])) s0
  xorBytes (shiftRows (mid.map sbox)) (ks.getD 14 [])

/-- Decryption of one block with AES-256. -/
def aesDec (k : BitVec 256) (b : List Byte) : List Byte :=
  let ks := roundKeys k
  let s0 := (shiftRowsInv (xorBytes b (ks.getD 14 []))).map sboxInv
  let mid := (List.range 13).foldl
    (fun s r => (shiftRowsInv (mixColumnsInv (xorBytes s (ks.getD (13 - r) [])))).map sboxInv) s0
  xorBytes mid (ks.getD 0 [])

/-- Multiplication of an XTS tweak by the primitive element, little-endian. -/
def tweakNext (t : List Byte) : List Byte :=
  let x := ofBytes t
  toBytes (if x / 2 ^ 127 % 2 = 1 then (x * 2 % 2 ^ 128) ^^^ 0x87 else x * 2 % 2 ^ 128) 16

/-- XTS over a whole number of blocks: `f` is the block cipher, `t` the tweak of the first block. -/
def xtsBlocks (f : List Byte → List Byte) : Nat → List Byte → List Byte → List Byte
  | 0, _, _ => []
  | n + 1, t, d => xorBytes (f (xorBytes (d.take 16) t)) t ++ xtsBlocks f n (tweakNext t) (d.drop 16)

/-- Encryption of a 64-byte granule; `n` is its data unit number, HBM offset bits [38:6] (R82). -/
def xtsEnc (k1 k2 : BitVec 256) (n : Nat) (d : List Byte) : List Byte :=
  xtsBlocks (aesEnc k1) 4 (aesEnc k2 (toBytes n 16)) d

/-- Decryption of a 64-byte granule. -/
def xtsDec (k1 k2 : BitVec 256) (n : Nat) (d : List Byte) : List Byte :=
  xtsBlocks (aesDec k1) 4 (aesEnc k2 (toBytes n 16)) d

end Sys2Proof.Machine
end

