-- ==== Sys2Proof/Syntax.lean ====
section
/-!
DEFINITION. The syntax of the device's steps: one constructor of `Instr` per row of spec/opcode_table.json.
The first 142 rows are instruction words (R34 to R54). The other 80 rows are steps of the device that have no
encoding of their own: tile commands as their engine performs them, and the events of the units, the scheduler,
the apex cores and the outside. A step of the second kind names the agent it belongs to by its operands.
-/

namespace Sys2Proof

/-- Element format of a vector instruction (R46), in the order of its code. -/
inductive Fmt where
  | i8 | i32 | f16 | f32
deriving DecidableEq, Repr

/-- Number format of a conversion (R49), in the order of its code. -/
inductive NFmt where
  | int8 | int32 | f16 | f32 | cone8 | cone6
deriving DecidableEq, Repr

/-- Condition of VCMP (R48), in the order of its code. -/
inductive Cond where
  | eq | ne | lt | le | gt | ge | ltz | lez | gtz | gez | un
deriving DecidableEq, Repr

/-- Scope (R19, R223), in the order of its code. -/
inductive Scope where
  | core | facet | prism | dev | sys
deriving DecidableEq, Repr

/-- Order of an atomic (R45), in the order of its code. -/
inductive Order where
  | rlx | acq | rel | ar
deriving DecidableEq, Repr

/-- Size of an atomic of R45 that has the sizes w and d. -/
inductive ASize where
  | w | d
deriving DecidableEq, Repr

/-- The parts of a firmware image (R322) and what the firmware sets while it boots (R321 steps 2 and 3). -/
structure Boot where
  len : Nat
  svn : Nat
  load : Nat
  key : List Byte
  body : List Byte
  sig : List Byte
  identity : Nat
  peers : List Nat
  admission : List (Nat × List Nat)
  routes : List (Nat × List Nat)
  operators : List (List Byte)
deriving DecidableEq, Repr

/-- A runtime image (R14, R16, R321 step 5): sections by virtual address, handler table entries, launches. -/
structure Image where
  sections : List (Nat × List Byte)
  handlers : List (Nat × Nat)
  launches : List (Nat × List Dword)
deriving DecidableEq, Repr

/-- One constructor per row of spec/opcode_table.json, in the table's order. -/
inductive Instr where
  -- register operations, major 0x01 (R41)
  | add (d a b : Reg)
  | sub (d a b : Reg)
  | and (d a b : Reg)
  | or (d a b : Reg)
  | xor (d a b : Reg)
  | andn (d a b : Reg)
  | sll (d a b : Reg)
  | srl (d a b : Reg)
  | sra (d a b : Reg)
  | slt (d a b : Reg)
  | sltZ (d a b : Reg)
  | seq (d a b : Reg)
  | min (d a b : Reg)
  | max (d a b : Reg)
  | minZ (d a b : Reg)
  | maxZ (d a b : Reg)
  | mul (d a b : Reg)
  | mulh (d a b : Reg)
  | mulhZ (d a b : Reg)
  | div (d a b : Reg)
  | divZ (d a b : Reg)
  | rem (d a b : Reg)
  | remZ (d a b : Reg)
  | clz (d a : Reg)
  | popc (d a : Reg)
  -- immediate forms (R40, R123 to R125)
  | addImm (d a : Reg) (i : BitVec 16)
  | andImm (d a : Reg) (i : BitVec 16)
  | orImm (d a : Reg) (i : BitVec 16)
  | xorImm (d a : Reg) (i : BitVec 16)
  | sltImm (d a : Reg) (i : BitVec 16)
  | sltZImm (d a : Reg) (i : BitVec 16)
  | li (d : Reg) (i : BitVec 16)
  | lsi (d a : Reg) (i : BitVec 16)
  | sllImm (d a : Reg) (n : BitVec 6)
  | srlImm (d a : Reg) (n : BitVec 6)
  | sraImm (d a : Reg) (n : BitVec 6)
  -- jumps and branches (R126 to R128)
  | jal (d : Reg) (o : BitVec 21)
  | jalr (d a : Reg) (i : BitVec 16)
  | beq (a b : Reg) (o : BitVec 16)
  | bne (a b : Reg) (o : BitVec 16)
  | blt (a b : Reg) (o : BitVec 16)
  | bge (a b : Reg) (o : BitVec 16)
  | bltZ (a b : Reg) (o : BitVec 16)
  | bgeZ (a b : Reg) (o : BitVec 16)
  -- control, major 0x13 (R42)
  | nop
  | endTask
  | eret
  | ifence
  | waiti
  | codepub (d a b : Reg)
  | trap (n : BitVec 8)
  -- loads and stores (R106, R108)
  | ldB (d a : Reg) (o : BitVec 16)
  | ldH (d a : Reg) (o : BitVec 16)
  | ldW (d a : Reg) (o : BitVec 16)
  | ldD (d a : Reg) (o : BitVec 16)
  | ldBz (d a : Reg) (o : BitVec 16)
  | ldHz (d a : Reg) (o : BitVec 16)
  | ldWz (d a : Reg) (o : BitVec 16)
  | stB (d a : Reg) (o : BitVec 16)
  | stH (d a : Reg) (o : BitVec 16)
  | stW (d a : Reg) (o : BitVec 16)
  | stD (d a : Reg) (o : BitVec 16)
  | vld (d a : Reg) (o : BitVec 16)
  | vst (d a : Reg) (o : BitVec 16)
  -- memory extras, major 0x26 (R43)
  | ldaW (d a : Reg)
  | ldaD (d a : Reg)
  | stlW (d a : Reg)
  | stlD (d a : Reg)
  | vldsH (d a b : Reg)
  | vldsW (d a b : Reg)
  | tagl (d a : Reg)
  | tags (a b : Reg)
  | tagi (a : Reg)
  | retx (a : Reg)
  -- atomics, major 0x27 (R45)
  | amoAdd (d a b : Reg) (c : Scope) (o : Order) (z : ASize)
  | amoAnd (d a b : Reg) (c : Scope) (o : Order) (z : ASize)
  | amoOr (d a b : Reg) (c : Scope) (o : Order) (z : ASize)
  | amoXor (d a b : Reg) (c : Scope) (o : Order) (z : ASize)
  | amoMin (d a b : Reg) (c : Scope) (o : Order) (z : ASize)
  | amoMax (d a b : Reg) (c : Scope) (o : Order) (z : ASize)
  | amoMinZ (d a b : Reg) (c : Scope) (o : Order) (z : ASize)
  | amoMaxZ (d a b : Reg) (c : Scope) (o : Order) (z : ASize)
  | amoXchg (d a b : Reg) (c : Scope) (o : Order) (z : ASize)
  | amoCas (d a b : Reg) (c : Scope) (o : Order) (z : ASize)
  | amoFaddF32 (d a b : Reg) (c : Scope) (o : Order)
  | amoXadd (d a b : Reg) (c : Scope) (o : Order)
  -- fences, major 0x28 (R44)
  | fence (k : BitVec 4) (s : Scope)
  | fenceX
  -- vector arithmetic, major 0x30 (R47)
  | vadd (d a b : Reg) (p : PReg) (f : Fmt)
  | vsub (d a b : Reg) (p : PReg) (f : Fmt)
  | vmul (d a b : Reg) (p : PReg) (f : Fmt)
  | vfma (d a b : Reg) (p : PReg) (f : Fmt)
  | vmin (d a b : Reg) (p : PReg) (f : Fmt)
  | vmax (d a b : Reg) (p : PReg) (f : Fmt)
  | vabs (d a : Reg) (p : PReg) (f : Fmt)
  | vneg (d a : Reg) (p : PReg) (f : Fmt)
  | vand (d a b : Reg) (p : PReg) (f : Fmt)
  | vor (d a b : Reg) (p : PReg) (f : Fmt)
  | vxor (d a b : Reg) (p : PReg) (f : Fmt)
  | vsll (d a b : Reg) (p : PReg) (f : Fmt)
  | vsrl (d a b : Reg) (p : PReg) (f : Fmt)
  | vsra (d a b : Reg) (p : PReg) (f : Fmt)
  | vsel (d a b : Reg) (p : PReg) (f : Fmt)
  | vexp2 (d a : Reg) (p : PReg) (f : Fmt)
  | vlog2 (d a : Reg) (p : PReg) (f : Fmt)
  | vrcp (d a : Reg) (p : PReg) (f : Fmt)
  | vrsq (d a : Reg) (p : PReg) (f : Fmt)
  | vbc (d a : Reg) (p : PReg) (f : Fmt)
  | vredAdd (d a : Reg) (p : PReg) (f : Fmt)
  | vredMin (d a : Reg) (p : PReg) (f : Fmt)
  | vredMax (d a : Reg) (p : PReg) (f : Fmt)
  | vdot (d a b : Reg) (p : PReg) (f : Fmt)
  | vsqd (d a b : Reg) (p : PReg)
  | vcmp (d a b : Reg) (p : PReg) (f : Fmt) (c : Cond)
  | vcvt (d a : Reg) (p : PReg) (s t : NFmt)
  | vxl (d a b : Reg) (p : PReg) (f : Fmt)
  | vperm (d a n : Reg) (p : PReg) (f : Fmt)
  | vnzs (d a b : Reg) (p : PReg) (f : Fmt)
  | vgth (d a b : Reg) (p : PReg) (f : Fmt)
  | vsct (d a b : Reg) (p : PReg) (f : Fmt)
  -- engine queues, major 0x38 (R51)
  | enq (a q : Reg)
  | deq (d q : Reg)
  | wtok (a : Reg)
  | tokq (d a : Reg)
  -- messages and tasks, majors 0x39 to 0x3B (R52)
  | mvm (d a : Reg)
  | send (d a : Reg)
  | sendh (d a : Reg)
  | spawn (d : Reg)
  | jinit (a b : Reg)
  | arrive (a : Reg)
  | arriveRlx (a : Reg)
  | susp (o : BitVec 21)
  | migr (a : Reg) (o : BitVec 16)
  -- proximity index, major 0x3C (R53)
  | ixnew (d a : Reg)
  | ixdel (d a : Reg)
  | stv (d a b : Reg)
  | ldn (d a b : Reg)
  | ixstat (d a : Reg)
  -- control registers and control space (R54)
  | ctlr (d : Reg) (n : BitVec 16)
  | ctlrSpace (d a : Reg) (o : BitVec 16)
  | ctlw (d : Reg) (n : BitVec 16)
  | ctlwSpace (d a : Reg) (o : BitVec 16)
  -- tile commands as their engine performs them: `u` is the slot whose queue's head it is (R58)
  | cpy (u : Nat)
  | cpyg (u : Nat)
  | cpys (u : Nat)
  | cpyf (u : Nat)
  | stga (u : Nat)
  /-- Delivery `k` of entry `e` of slot `u`'s CPQ, or of its MXQ when `mx`. -/
  | delivery (u e k : Nat) (mx : Bool)
  | tlw (u : Nat)
  | trel (u : Nat)
  | tmm (u : Nat)
  | tmmb (u : Nat)
  | tacz (u : Nat)
  | tacs (u : Nat)
  | tdot (u : Nat)
  | sseed (u : Nat)
  | sgen (u : Nat)
  | sand (u : Nat)
  | sor (u : Nat)
  | smux (u : Nat)
  | snot (u : Nat)
  | sreg (u : Nat)
  | scnt (u : Nat)
  -- index table and home units: request `k` of slot `u`'s IXQ (R207 to R215)
  | indexCreate (u k : Nat)
  | indexDelete (u k : Nat)
  | indexStatus (u k : Nat)
  | insert (u k : Nat)
  | acceptance (u k : Nat)
  | ixoPush (u k : Nat)
  -- memory and translation
  /-- Store `k` among the stores of slot `u` that have left it and have not performed (R222). -/
  | perform (u k : Nat)
  /-- The walker of prism `w` starts its oldest queued walk (R73). -/
  | walk (w : Nat)
  /-- Running walk `k` of prism `w` ends (R73). -/
  | walkResult (w k : Nat)
  | xinv (v : Dword)
  | invalidationDone
  /-- A write of doubleword 1 of region descriptor `n` by context `c`, or by the apex (R80). -/
  | regionLen (c : Option Nat) (n : Nat) (v : Dword)
  /-- A write of doubleword 2 of region descriptor `n` by context `c`, or by the apex (R80). -/
  | claimed (c : Option Nat) (n : Nat) (v : Dword)
  | cancel (f b : Nat) (v : Dword)
  | retcfg (f : Nat) (v : Dword)
  | idleCountExpiry (f m : Nat)
  | enteringEnd (f m : Nat)
  | exitingEnd (f m : Nat)
  /-- The scrubber reads the granule at HBM offset `64·k` (R84). -/
  | patrolScrub (k : Nat)
  | rel (f : Nat) (v : Dword)
  -- launches, messages, dispatch, steals, keys, joins
  | lqctl (q : Nat) (v : Dword)
  /-- Packet `k` in flight, whose destination is a launch queue, arrives there (R273). -/
  | launch (k : Nat)
  | launchForward (q : Nat)
  /-- Packet `k` in flight arrives (R246 to R248). -/
  | messageArrival (k : Nat)
  | dispatch (g : Nat)
  | stealRequest (g : Nat)
  /-- Core `g`, a victim, serves its oldest steal request (R279). -/
  | steal (g : Nat)
  /-- The steal reply of thief `g` reaches it (R279). -/
  | stealReply (g : Nat)
  | stealWaitExpiry (g : Nat)
  /-- Record `k` in acquisition reaches the home of its next key (R261). -/
  | keyRequest (k : Nat)
  | keyRelease (k : Nat)
  | joinArrival (k : Nat)
  | increment (k : Nat)
  -- traps and contexts
  | trapEntry (u : Nat)
  | preempt (c : Nat)
  | kill (c : Nat)
  | free (c : Nat)
  | sliceExpiry (c : Nat)
  | switchOut (c : Nat)
  | placement (c : Nat)
  -- fabric, apex, power and management
  | unreachable (d : Nat)
  /-- Adapter `d` reads `n` bytes, or writes `data` when `wr`, at offset `o` of region handle `h` (R320). -/
  | adapterBulk (d : Nat) (wr : Bool) (h : Dword) (o n : Nat) (data : List Byte)
  | reset (b : Boot)
  | railFault
  | throttle
  | trip
  /-- A host answers `nonce` with `sig` by operator key `key` (R329). -/
  | session (nonce key sig : List Byte)
  | mgmtControlAccess (wr : Bool) (a v : Dword)
  | mgmtHbmAccess (wr : Bool) (a : Dword) (n : Nat) (data : List Byte)
  | attestation (nonce : List Byte)
  | imageLoad (c : Nat) (img : Image)
  | svnRaise (v : Nat)
  | keySlotLoad (c : Nat)
  | keySlotReplace (c : Nat)
  /-- A write by an apex core of a control register that has no row of its own (R7). -/
  | registerWrite (a v : Dword)
  | illegalWord (w : Word)
  /-- CODEPUB request `k` among those sent is performed (R291). -/
  | codepubRequest (k : Nat)
  | routeWrite (d : Nat) (ports : List Nat)
  | throttleEnd
deriving DecidableEq, Repr

end Sys2Proof
end

