-- ==== Sys2Proof/Config.lean ====
section
/-!
DEFINITION. What an implementation fixes, and the values that the spec leaves open: each is a constant without a body,
so a statement that holds, holds for every value of it.
-/

namespace Sys2Proof

/-- Who moves when the schedule is empty: a step of the device, or when there is none the slot with this number
(log 3). -/
opaque Config.freeTurn : Nat → Option Instr × Nat

/-- A load that performs ahead of its instruction when the schedule is empty: slot, virtual address, size (log 5). -/
opaque Config.freeEarly : Nat → Option (Nat × Nat × Nat)

/-- A bulk request and its delivery that performs when the schedule is empty (R87, R320, log 3). -/
opaque Config.freeBulk : Nat → Option (Nat × Nat)

/-- A committed write of a peer's scatter that performs when the schedule is empty (R170, log 3). -/
opaque Config.freeHeld : Nat → Option Nat

/-- A choice that the spec leaves to the hardware, by the number of the turn and what is chosen (logs 13 and 14). -/
opaque Config.freePick : Nat → Nat → Nat

/-- The two keys that a hardware generator of entropy delivers (R325, log 10). -/
opaque Config.freshKeys : Nat → BitVec 256 × BitVec 256

/-- The ML-DSA-65 signature of the device's own key over a message (log 9). -/
opaque Config.sign : List Byte → List Byte

/-- The bytes of a firmware image's header: length, SVN, load address (R322, log 9). -/
opaque Config.bootHeader : Nat → Nat → Nat → List Byte

/-- The digest of the routes and the admission sets (R323, log 9). -/
opaque Config.routesDigest : List (Nat × List Nat) → List (Nat × List Nat) → List Byte

/-- The digest of a runtime image: sections, handlers, launches (R323, log 9). -/
opaque Config.imageDigest : Image → List Byte

/-- The Molkor signature that certifies the device identity key (R324, log 9). -/
opaque Config.certificate : List Byte

/-- The fused digest of the firmware key (R322, log 9). -/
opaque Config.fusedDigest : List Byte

end Sys2Proof
end

