-- ==== Sys2Proof/Machine/State.lean ====
section
/-!
DEFINITION. The state of the device: plain data, sparse where the device has many like things, with every piece of
state that the spec names, and the state right after reset.
-/

namespace Sys2Proof.Machine

open Sys2Proof

/-! ## Sparse tables -/

/-- A table from numbers to entries; a number that is not listed has the default entry. -/
abbrev Tbl (α : Type) := List (Nat × α)

/-- The entry at `k`, `d` when none is listed. -/
def Tbl.get {α : Type} (d : α) : Tbl α → Nat → α
  | [], _ => d
  | (j, x) :: t, k => if j = k then x else Tbl.get d t k

/-- The table with entry `x` at `k`, kept in rising order of the numbers. -/
def Tbl.set {α : Type} : Tbl α → Nat → α → Tbl α
  | [], k, x => [(k, x)]
  | (j, y) :: t, k, x =>
    if k = j then (k, x) :: t
    else if k < j then (k, x) :: (j, y) :: t
    else (j, y) :: Tbl.set t k x

/-! ## Messages and packets -/

/-- A message: a header and seven arguments (R242). -/
structure Msg where
  hdr : Dword
  args : Vector Dword 7
deriving DecidableEq, Repr

/-- A message with zero in every doubleword. -/
def Msg.zero : Msg := { hdr := 0, args := Vector.replicate 7 0 }

/-- A message in a mailbox, ring or deque, with the marks that are not part of its 64 bytes (R261): whether its keys are
granted. -/
structure Held where
  msg : Msg
  grant : Bool
deriving DecidableEq, Repr

/-- Where a packet goes: a core, a vertex unit, a launch queue, or another device with the word of the named form or the
address there (R245, R246, R316). -/
inductive Dest where
  | core (g : Nat)
  | unit (v : Nat)
  | queue (q : Nat)
  | far (d : Nat) (word : Dword)
deriving DecidableEq, Repr

/-- A message in flight: its sending slot, if a slot of this device sent it and awaits its unit of allowance (R250), the
device and the slot that sent it here over the fabric, and its context, if it has one (R273). -/
structure Packet where
  src : Option Nat
  away : Option (Nat × Nat)
  ctx : Option Nat
  pri : Bool
  held : Held
  dest : Dest
  /-- The vertex unit that it was sent to and that has forwarded it (R246, R249). -/
  via : Option Nat
  /-- A launch that was sent while its queue stood frozen (R331, log 53). -/
  frozen : Bool
deriving DecidableEq, Repr

/-- A packet on its way in from outside: a message of a slot of another device, or of an adapter, as the fabric presents
it (R316, R319, R320). -/
structure Inbound where
  from_ : Nat
  slot : Nat
  ctx : Nat
  pri : Bool
  msg : Msg
  dest : Dest
deriving DecidableEq, Repr

/-- What a peer's traffic does to a place of this device (R316): a lane of VGTH; a lane of VSCT as a held write, with its
number, and the commit or the cancel of the slot's held writes (R170); an AMO with its function and size code of R45, its
operand and its comparand; a source read of a copy; a delivery with the offsets of its poisoned bytes; an arrival at a
join record. -/
inductive PeerOp where
  | read (n : Nat)
  | hold (lane : Nat) (d : List Byte)
  | commit
  | cancel
  | amo (op size : Nat) (v c : Dword)
  | copyRead (n : Nat)
  | deliver (d : List Byte) (bad : List Nat)
  | arrive
deriving DecidableEq, Repr

/-- An access of a peer as the fabric presents it: the device and the slot it comes from, the context it carries, the
address, and whether the sender's leaf has E = 1 (R82, R316, R319). -/
structure Peer where
  from_ : Nat
  slot : Nat
  ctx : Nat
  pa : Nat
  enc : Bool
  op : PeerOp
deriving DecidableEq, Repr

/-- A bulk copy of a peer that names a region handle of this device (R90, R316): where it comes from, the context it
carries, whether it writes, the handle, the offset and the length that the checks see, the bytes that it brings with the
offsets of the poisoned ones. -/
structure BulkAsk where
  from_ : Nat
  slot : Nat
  ctx : Nat
  wr : Bool
  handle : Dword
  off : Nat
  n : Nat
  data : List Byte
  bad : List Nat
deriving DecidableEq, Repr

/-- A reply on its way to another device or an adapter: the device and its slot, a code or status word, bytes, the offsets
of the poisoned ones (R85, R170, R235, R316, R320, log 57). -/
structure Reply where
  to_ : Nat
  slot : Nat
  code : Dword
  data : List Byte
  bad : List Nat
deriving DecidableEq, Repr

/-- A task record in key acquisition (R261): the core that sent it, the keys it holds and those it still needs, and
whether it stands among the waiters of the next one. -/
structure KeyReq where
  core : Nat
  ctx : Nat
  held : Held
  got : List Nat
  todo : List Nat
deriving DecidableEq, Repr

/-- A key release on its way to the key's home (R263). -/
structure KeyRel where
  ctx : Nat
  key : Nat
deriving DecidableEq, Repr

/-- A key in use at its home: its holder, named by the core that sent the holder to acquisition, and its waiters
(R260). -/
structure KeyEntry where
  ctx : Nat
  key : Nat
  holder : Option Nat
  waiters : List KeyReq
deriving DecidableEq, Repr

/-- An arrival on its way to a join record (R266): the context, the record's translated address, the sending slot. -/
structure Arrival where
  ctx : Nat
  pa : Nat
  src : Nat
deriving DecidableEq, Repr

/-- An increment on its way to a join record, with the thief and the half that waits for it (R255). -/
structure Incr where
  ctx : Nat
  pa : Nat
  thief : Nat
  half : Held
deriving DecidableEq, Repr

/-- A CODEPUB request that was sent (R291): its turn, its slot, its token register and its range; whether it is parked on
a PAGE fault. -/
structure CodeReq where
  seq : Nat
  slot : Nat
  tok : Nat
  ctx : Nat
  va : Nat
  n : Nat
  parked : Bool
deriving DecidableEq, Repr

/-! ## Turns -/

/-- Who moves next: a slot that issues, a step of the device, a load of a slot that performs before its instruction
issues (R225), delivery `j` of bulk request `k` (R87, R320), a committed write of a peer's scatter (R170). The rest are
inputs from outside: another device accepts a message (R250), a packet, a peer's access, a peer's bulk copy or an adapter's
nonce reaches the device (R316, R324), a peer's slot lets its parked bulk copy walk again or gives it up (R75, R286), an error
strikes the memory unit at an address (1: correctable, else uncorrectable; R84, R115, R116). -/
inductive Turn where
  | issue (u : Nat)
  | event (i : Instr)
  | early (u va n : Nat)
  | bulk (k j : Nat)
  | held (k : Nat)
  | accepted (k : Nat)
  | inbound (p : Inbound)
  | peer (p : Peer)
  | ask (b : BulkAsk)
  | again (d u : Nat) (go : Bool)
  | attest (d : Nat) (nonce : List Byte)
  | upset (a : Nat) (kind : Nat)
deriving DecidableEq, Repr

/-! ## Thread slots -/

/-- A translated address: the place and the context whose key slot encrypts it, if the leaf says so (R28, R82). -/
structure Place where
  pa : Nat
  enc : Option Nat
deriving DecidableEq, Repr

/-- A held write of a peer's scatter (R170): the device and the slot, the context it carries, the lane, its place and bytes,
and whether the commit has come. -/
structure PeerHeld where
  from_ : Nat
  slot : Nat
  ctx : Nat
  lane : Nat
  place : Place
  data : List Byte
  committed : Bool
deriving DecidableEq, Repr

/-- A delivery of a bulk request that has not performed: the bytes before it, its length, its place (R87). -/
structure Piece where
  pos : Nat
  n : Nat
  place : Place
deriving DecidableEq, Repr

/-- A bulk request of an adapter or a peer that is being performed (R316, R320): who sent it, whether it writes, its region
handle with the base and the owner that the check found, the offset and the length, the bytes it writes with the offsets
of the poisoned ones, those it has read by their positions with the offsets of the poisoned ones, the bytes up to the end
of the granule in progress, the deliveries of that granule that are outstanding, the code that ends it after them, and for a
peer's copy the address of the PAGE fault on which it is parked (R75, R81). -/
structure BulkReq where
  from_ : Nat
  slot : Nat
  wr : Bool
  handle : Dword
  base : Nat
  owner : Nat
  off : Nat
  len : Nat
  data : List Byte
  bad : List Nat
  got : List (Nat × List Byte)
  lost : List Nat
  pos : Nat
  out : List Piece
  ending : Nat
  fault : Option Nat
deriving DecidableEq, Repr

/-- What a store is: a plain one, a release (R107), a committed lane of VSCT, which its owner has accepted (R170). -/
inductive StoreKind where
  | plain
  | release
  | lane
deriving DecidableEq, Repr

/-- A store that has left its slot, or a fence that stands among such stores (R222, R232, R233). An untranslated store
has no place yet (R75). `seq` is the turn of its instruction, which gives the program order; `sup` marks the stores of the
supervisor level. -/
inductive SEntry where
  | store (seq va : Nat) (place : Option Place) (data : List Byte) (kind : StoreKind) (sup : Bool)
  | fence (seq : Nat) (kinds : BitVec 4) (scope : Scope)
  | fenceX (seq : Nat)
deriving DecidableEq, Repr

/-- A parked store (R237), what it is, and the cause of its fault. -/
structure Parked where
  seq : Nat
  va : Nat
  data : List Byte
  kind : StoreKind
  cause : Nat
deriving DecidableEq, Repr

/-- A load that has performed before its instruction issued (R224, R225): its virtual address, its place, the bytes it
read, the places of the slot's stores that have performed since, whether a load has, the turn in which it performed, and the
token registers, by their numbers, that a delivery since of one of its bytes stands for (R87, R94). -/
structure Early where
  va : Nat
  place : Place
  data : List Byte
  past : List Nat
  passed : Bool
  born : Nat
  behind : List Nat
deriving DecidableEq, Repr

/-- The state of an engine command or index request (R297). -/
inductive Phase where
  | queued
  | started
  | parked
  | finished
deriving DecidableEq, Repr

/-- A delivery that was sent and has not performed (R87): the virtual address and context it was translated from, its
place, its bytes, the offsets of its poisoned ones (R85), and the bytes of its command that come before it. -/
structure Deliv where
  va : Nat
  ctx : Nat
  place : Place
  data : List Byte
  bad : List Nat
  pos : Nat
deriving DecidableEq, Repr

/-- A tile command in a queue: its word, the capture of ENQ (R62, R97) and of a vector operand (R181), its token (the
number of the register in the file of both banks), and its progress. -/
structure Cmd where
  word : Tile
  mxcfg : Dword
  sca : Dword
  scb : Dword
  fpctl : Dword
  swin : Dword
  vcap : Vector Vec 8
  tok : Nat
  phase : Phase
  /-- Bytes sent in the order of the pseudocode (R88, R297). -/
  pos : Nat
  /-- Deliveries sent and not performed. -/
  out : List Deliv
  /-- Deliveries that the command has read for and still has to send: address, bytes, offsets of poisoned ones. -/
  todo : List (Nat × List Byte × List Nat)
  /-- Bytes read, for the commands that work in chunks (R93). -/
  rpos : Nat
  /-- The code of the error that ends the command once `todo` is sent; 0 for none. -/
  ending : Nat
  /-- Base and owner of the region that the command names, as its checks found them (R81). -/
  hbase : Nat
  howner : Nat
  /-- Whether a read met poison. -/
  poisoned : Bool
  /-- The status word once it is decided. -/
  status : Dword
  /-- The virtual address and context whose translation the command waits for (R74). -/
  wait : Option (Nat × Nat)
  /-- The virtual address of the PAGE fault it is parked on (R75). -/
  fault : Option Nat
  /-- The turn in which the matrix unit started the command, where it then had to wait for macros (R173). -/
  start : Option Nat
deriving DecidableEq, Repr

/-- A search record or none record of R215, and the turn of the release that a DEQ of it acquires: that of the STV which
inserted its identity, 0 for none (R217). -/
structure IxRec where
  lo : Dword
  hi : Dword
  rel : Nat
deriving DecidableEq, Repr

/-- A member of the window C (R213). -/
structure Cand where
  dist : Int
  id : Nat
  exp : Bool
deriving DecidableEq, Repr

/-- What an index request is doing at its place of execution (R214, R220). -/
inductive IxPhase where
  | queued
  | withdrawn
  | walking
  | pushing
  | tokenSaved
  | inserting
deriving DecidableEq, Repr

/-- An entry of IXQ: the request (R207), and the walk of an LDN (R213, R215). -/
structure IxReq where
  word : Word
  a : Dword
  pv : Option Place
  y : Dword
  z : Dword
  blk : Vector Dword 4
  tok : Nat
  /-- The turn of the instruction's release; of an LDN that has answered, that of the latest release which its token acquires
  (R207, R217). -/
  rel : Nat
  phase : IxPhase
  saved : Dword
  query : List Byte
  walkSlot : Nat
  snap : Nat
  nr : Nat
  vis : Nat
  cands : List Cand
  push : Nat
  /-- The records of an LDN whose walk has answered. -/
  recs : List IxRec
  /-- The writes of an insert that has begun and has not committed: byte of the storage area, bytes (R214). -/
  writes : List (Nat × List Byte)
  fault : Option Nat
deriving DecidableEq, Repr

/-- A fault delivered to a slot whose instruction waited on a walk (R73, R75): the page and the cause. -/
structure XFault where
  page : Nat
  cause : Nat
deriving DecidableEq, Repr

/-- A thread slot (R60, R297). -/
structure Slot where
  regs : Vector Dword 32
  bank : Vector Dword 7
  /-- The registers that are pending: n for sn, 32 + n for the bank's sn. -/
  pend : List Nat
  v : Vector Vec 32
  p : Vector (BitVec 32) 7
  m : Vector Dword 8
  pc : Dword
  sup : Bool
  busy : Bool
  start : Bool
  /-- A SUSP of the handler has returned to task level and has not completed (R286). -/
  conv : Bool
  /-- An ERET of the handler has released the SSQ hold and waits (R286). -/
  leaving : Bool
  fpctl : Dword
  mxcfg : Dword
  sca : Dword
  scb : Dword
  swin : Dword
  tcause : Dword
  tval : Dword
  epc : Dword
  hdr : Dword
  joinRef : Dword
  keys : List Nat
  pendJoin : Option Dword
  allow : Nat
  cpq : List Cmd
  mxq : List Cmd
  ssq : List Cmd
  ixq : List IxReq
  ixo : List IxRec
  sso : List Dword
  hold : Bool
  bypass : List Cmd
  faultWord : Tile
  faultWin : Nat
  replay : List Parked
  sbuf : List SEntry
  /-- Loads performed ahead of their instructions, oldest first (R225). -/
  early : List Early
  /-- The placement notice of R301 is due. -/
  duePreempt : Bool
  /-- STREAM_CORR is due, with its TVAL (R198). -/
  dueCorr : Option Dword
  /-- The trap of the oldest parked store is due. -/
  dueStore : Bool
  /-- The addresses of parked engine commands whose PAGE is due. -/
  duePage : List Nat
  /-- The 32-byte fetch block the slot holds: context, physical address and bytes (R34, R290). -/
  block : Option (Nat × Nat × List Byte)
  waddr0 : Dword
  wctl0 : Dword
  waddr1 : Dword
  wctl1 : Dword
  /-- The slot stands in a WAITI, and whether a message has entered the high mailbox since (R293). -/
  bell : Option Bool
  /-- The page the slot's instruction waits for. -/
  wait : Option Nat
  xf : Option XFault
  /-- The slot's ENQ of an STGA has examined its barrier and waits at its Release (R96, R97). -/
  examined : Bool
  /-- Changes with every instruction that the slot completes: a branch to itself leaves nothing else behind; the model's own
  (R280; log 3). -/
  beat : Bool
deriving DecidableEq, Repr

/-- A slot after reset. -/
def Slot.reset : Slot where
  regs := Vector.replicate 32 0
  bank := Vector.replicate 7 0
  pend := []
  v := Vector.replicate 32 0
  p := Vector.replicate 7 0
  m := Vector.replicate 8 0
  pc := 0
  sup := false
  busy := false
  start := false
  conv := false
  leaving := false
  fpctl := 0
  mxcfg := 0
  sca := 0
  scb := 0
  swin := 0
  tcause := 0
  tval := 0
  epc := 0
  hdr := 0
  joinRef := 0
  keys := []
  pendJoin := none
  allow := 32
  cpq := []
  mxq := []
  ssq := []
  ixq := []
  ixo := []
  sso := []
  hold := false
  bypass := []
  faultWord := 0
  faultWin := 0
  replay := []
  sbuf := []
  early := []
  duePreempt := false
  dueCorr := none
  dueStore := false
  duePage := []
  block := none
  waddr0 := 0
  wctl0 := 0
  waddr1 := 0
  wctl1 := 0
  bell := none
  wait := none
  xf := none
  examined := false
  beat := false

/-! ## Cores -/

/-- A line of an instruction cache: the context it was fetched for, its physical address and its 64 bytes. -/
structure ICLine where
  ctx : Nat
  pa : Nat
  bytes : List Byte
deriving DecidableEq, Repr

/-- A core: its copies of context values, its mailboxes and rings, its deque, its part in stealing, its instruction
cache. Rings list their messages oldest first; the head of a ring is the entry number of its oldest. -/
structure Core where
  tvec : Dword
  htab : Dword
  spillb : Dword
  low : List Held
  high : List Held
  lowRing : List Held
  lowHead : Nat
  highRing : List Held
  highHead : Nat
  /-- The in-core records of the deque, oldest first. -/
  deque : List Held
  /-- The older records, in the ring at DQSB, oldest first. -/
  dqRing : List Held
  dqHead : Nat
  gen : BitVec 32
  /-- The victim of the outstanding steal request. -/
  stealing : Option Nat
  /-- The reply that is on its way to this thief. -/
  reply : Option (Option Held)
  /-- Steal requests received, oldest first. -/
  thieves : List Nat
  /-- The back-off in progress, in cycles, and the wait after the next empty reply (R279). -/
  backoff : Nat
  nextWait : Nat
  icache : List ICLine
deriving DecidableEq, Repr

/-- A core after reset. -/
def Core.reset : Core where
  tvec := 0
  htab := 0
  spillb := 0
  low := []
  high := []
  lowRing := []
  lowHead := 0
  highRing := []
  highHead := 0
  deque := []
  dqRing := []
  dqHead := 0
  gen := 0
  stealing := none
  reply := none
  thieves := []
  backoff := 0
  nextWait := 64
  icache := []

/-! ## Facets -/

/-- An entry of the translation cache (R72): context, page size, page number (virtual address divided by the page size)
and leaf. -/
structure TlbEntry where
  ctx : Nat
  big : Bool
  page : Nat
  leaf : Dword
deriving DecidableEq, Repr

/-- An entry of the miss table (R73): a context and a 64 KiB page. -/
structure Miss where
  ctx : Nat
  page : Nat
deriving DecidableEq, Repr

/-- The retention states of R116. -/
inductive Retention where
  | awake
  | entering
  | retained
  | exiting
deriving DecidableEq, Repr

/-- The states of a macro (R171, R296). -/
inductive MacState where
  | data
  | loading
  | stationary
deriving DecidableEq, Repr

/-- An accumulator element: A as a 48-bit signed number, and VOID (R148). -/
structure Acc where
  a : Int
  void : Bool
deriving DecidableEq, Repr

/-- A scratchpad macro: its stationary map entry, its scale store (keyed 64·column + block), its accumulators (keyed
256·row + column) and anchors (keyed by row), and its retention (R116, R148, R171, R172). -/
structure Mac where
  st : MacState
  owner : Nat
  bfmt : Nat
  lb : Nat
  kst : Nat
  resm : Bool
  scale : Tbl Byte
  acc : Tbl Acc
  anchor : Tbl Int
  ret : Retention
  /-- EXITING follows ENTERING at once, because an access or RETX arrived. -/
  wake : Bool
  /-- The context whose access or RETX started the exit. -/
  waker : Option Nat
deriving DecidableEq, Repr

/-- A macro after reset. -/
def Mac.reset : Mac where
  st := .data
  owner := 0
  bfmt := 0
  lb := 0
  kst := 0
  resm := false
  scale := []
  acc := []
  anchor := []
  ret := .awake
  wake := false
  waker := none

/-- A stage barrier (R94): whether it is armed, COUNT, OVERRUN, the owner, and of the arming STGA the slot, the token
and the count. -/
structure Barrier where
  armed : Bool
  count : Nat
  overrun : Bool
  owner : Option Nat
  slot : Nat
  tok : Nat
  total : Nat
deriving DecidableEq, Repr

/-- A stage barrier after reset. -/
def Barrier.reset : Barrier :=
  { armed := false, count := 0, overrun := false, owner := none, slot := 0, tok := 0, total := 0 }

/-- A stream register (R189). -/
structure SReg where
  bits : BitVec 4096
  valid : Bool
  len : Nat
  mask : BitVec 16
deriving DecidableEq, Repr

/-- A stream register after reset. -/
def SReg.reset : SReg := { bits := 0, valid := false, len := 0, mask := 0 }

/-- An error log (R303): next entry index, events lost, and 32 entries of two doublewords, keyed by their number. -/
structure ErrLog where
  next : Nat
  lost : Nat
  entries : Tbl (Dword × Dword)
deriving DecidableEq, Repr

/-- An empty error log. -/
def ErrLog.empty : ErrLog := { next := 0, lost := 0, entries := [] }

/-- A facet (R27). -/
structure Facet where
  /-- The context that holds the facet (R274). -/
  ctx : Option Nat
  tlb : List TlbEntry
  miss : List Miss
  tags : Tbl Dword
  macs : Tbl Mac
  idle : BitVec 32
  bars : Tbl Barrier
  sOwner : Option Nat
  sregs : Tbl SReg
  gens : Tbl (BitVec 32)
  keys : List KeyEntry
  log : ErrLog
deriving DecidableEq, Repr

/-- A facet after reset. -/
def Facet.reset : Facet where
  ctx := none
  tlb := []
  miss := []
  tags := []
  macs := []
  idle := 0x00100000
  bars := []
  sOwner := none
  sregs := []
  gens := []
  keys := []
  log := ErrLog.empty

/-! ## Translation walkers -/

/-- The outcome of a walk: a leaf and its page size, or a PAGE fault (R70). -/
inductive Walked where
  | leaf (big : Bool) (leaf : Dword)
  | fault
deriving DecidableEq, Repr

/-- A walk, queued or running (R73): what it is for, the facets that asked, its outcome once it has read the table, and
whether its result is to be discarded (R74, R77). -/
structure Walk where
  ctx : Nat
  page : Nat
  facets : List Nat
  result : Walked
  drop : Bool
deriving DecidableEq, Repr

/-- The walker of a prism. -/
structure Walker where
  running : List Walk
  queued : List Walk
deriving DecidableEq, Repr

/-! ## Contexts and launch queues -/

/-- The states of a context record (R296). -/
inductive CtxState where
  | free
  | running
  | switchedOut
  | killed
deriving DecidableEq, Repr

/-- A context record (R296), its facet set, and what the scheduler knows of it. -/
structure Ctx where
  st : CtxState
  kcode : Nat
  ptbase : Dword
  tvec : Dword
  htab : Dword
  dqsb : Dword
  saveb : Dword
  errh : Dword
  pcount : Nat
  pnote : Bool
  memsave : Bool
  slice : Nat
  /-- The facet set taken at the placement (R274), rising. -/
  set : List Nat
  /-- Facets whose saved records are not empty (R299). -/
  kept : List Nat
  /-- Whether the saved state was never written: a context that became SWITCHED-OUT under R332. -/
  fresh : Bool
  /-- The addresses of join records in which continuations have parked (R275). -/
  parkedJoins : List Nat
  /-- The halt of R281 is done and the switch-out has not happened. -/
  halt : Bool
  /-- Whether the scheduler chose this context to be placed when room is made (R275). -/
  chosen : Bool
  /-- What the device keeps of a saved context beyond the bytes that R297 and R298 list (log 17). -/
  keptSlots : Tbl Slot
  keptCores : Tbl Core
  keptFacets : Tbl Facet
  /-- The poisoned doublewords of saved memories (R300). -/
  keptPoison : List Nat
deriving DecidableEq, Repr

/-- A context record after reset. -/
def Ctx.reset : Ctx where
  st := .free
  kcode := 0
  ptbase := 0
  tvec := 0
  htab := 0
  dqsb := 0
  saveb := 0
  errh := 0
  pcount := 0
  pnote := false
  memsave := false
  slice := 0
  set := []
  kept := []
  fresh := false
  parkedJoins := []
  halt := false
  chosen := false
  keptSlots := []
  keptCores := []
  keptFacets := []
  keptPoison := []

/-- A launch held by a queue, with the context that sent it, none for the apex or an adapter (R273). -/
structure LaunchMsg where
  msg : Msg
  src : Option Nat
deriving DecidableEq, Repr

/-- A launch queue (R272): LQCTL's fields, the mask as the list of its 40 doublewords, the launches held. -/
structure LaunchQ where
  valid : Bool
  drain : Bool
  cursor : Nat
  pri : Bool
  ctx : Nat
  mask : Tbl Dword
  held : List LaunchMsg
deriving DecidableEq, Repr

/-- A launch queue after reset. -/
def LaunchQ.reset : LaunchQ :=
  { valid := false, drain := false, cursor := 0, pri := false, ctx := 0, mask := [], held := [] }

/-! ## Regions and indexes -/

/-- A region descriptor (R79). -/
structure Region where
  base : Nat
  len : Nat
  perm : Nat
  claimed : Bool
  owner : Nat
  gen : Nat
deriving DecidableEq, Repr

/-- A region descriptor after reset. -/
def Region.reset : Region := { base := 0, len := 0, perm := 0, claimed := false, owner := 0, gen := 0 }

/-- A slot of the index table (R78, R204, R209): generation, whether in use, owner, parameters, the recorded pages of
the storage and work areas, COUNT, the walk slots in use, those whose walks hold the inserts (R215), whether an insert is
in progress (R211, R214), and by identity the turns of the releases of the inserts that have committed (R217). -/
structure IndexSlot where
  gen : Nat
  used : Bool
  owner : Nat
  nw : Nat
  home : Nat
  wb : Nat
  metric : Nat
  m : Nat
  d : Nat
  cap : Nat
  storage : List Place
  work : List Place
  count : Nat
  walks : List Nat
  holds : List Nat
  ins : Bool
  rels : Tbl Nat
deriving DecidableEq, Repr

/-- An index table slot after reset. -/
def IndexSlot.reset : IndexSlot :=
  { gen := 0, used := false, owner := 0, nw := 0, home := 0, wb := 0, metric := 0, m := 0, d := 0, cap := 0,
    storage := [], work := [], count := 0, walks := [], holds := [], ins := false, rels := [] }

/-! ## The state -/

/-- A key slot: the two keys of AES-256-XTS (R82). -/
structure KeySlot where
  k1 : BitVec 256
  k2 : BitVec 256
deriving DecidableEq, Repr

/-- Where the device stands in its start-up (R321): in reset before its boot ROM has run, booted, or stopped by firmware
that was refused (R322). -/
inductive Power where
  | reset
  | up
  | refused
deriving DecidableEq, Repr

/-- The state of the device. -/
structure State where
  /-- Who moves next; the model's own (log 3). -/
  schedule : List Turn
  /-- The number of turns taken; the free values are applied to it (log 3). -/
  tick : Nat
  /-- The slot whose instruction runs (log 3). -/
  cur : Nat
  /-- The low slot of each core that issued last, 0 to 2 (R280). -/
  issued : Tbl Nat
  slots : Tbl Slot
  cores : Tbl Core
  facets : Tbl Facet
  walkers : Tbl Walker
  ctxs : Tbl Ctx
  queues : Tbl LaunchQ
  regions : Tbl Region
  indexes : Tbl IndexSlot
  /-- Memory of the whole system by global physical address, the own device under DEVICE 0 (R28, R334). -/
  mem : List Host.Cell
  /-- Poisoned units: the address of an HBM granule or of an SRAM doubleword (R84, R115). -/
  poison : List Nat
  /-- Errors that have struck and have not been found: 1 correctable, else uncorrectable (R84, R115). -/
  latent : Tbl Nat
  /-- The key slots (R82), the same in every controller. -/
  keySlots : Tbl (Option KeySlot)
  /-- Messages in flight, in the order sent. -/
  msgs : List Packet
  keyReqs : List KeyReq
  keyRels : List KeyRel
  arrivals : List Arrival
  incrs : List Incr
  codeReqs : List CodeReq
  /-- Invalidations written to XINV and not complete, oldest first (R77). -/
  xinv : List Dword
  /-- Rotations of the vertex units: (512·unit + context) to the core the rotation points at (R335). -/
  rotation : Tbl Nat
  stackLogs : Tbl ErrLog
  devLog : ErrLog
  /-- The own identity and those of the system's other devices (R315, R334). -/
  devId : Nat
  peers : List Nat
  /-- Contexts that each device or adapter may address here, and the routes to each destination (R314, R319). -/
  admission : Tbl (List Nat)
  routes : Tbl (List Nat)
  unreachable : List Nat
  /-- Packets handed to the fabric, oldest first (R316). -/
  fabricOut : List Packet
  /-- Messages to other devices that the fabric carries and that have not been accepted there, oldest first (R250, R318). -/
  owed : List Packet
  /-- Launches of runtime images that their queues are not yet bound to take, with the queue (R16, R321 step 6). -/
  unsent : List (Nat × Msg)
  /-- Bulk requests of adapters and peers in progress, and the answers to them with the status word of R88 (R316, R320). -/
  bulks : List BulkReq
  bulkOut : List Reply
  /-- Held writes of peers' scatters, the committed ones of a scatter by their lanes (R170). -/
  peerHeld : List PeerHeld
  /-- Replies to peers' element accesses and to nonces of adapters (R316, R324, log 57). -/
  peerOut : List Reply
  /-- Reports sent to the apex firmware: kind and value (R84, R302, R328). -/
  apexReports : List (Nat × Nat)
  svn : Nat
  /-- The measurement registers M0 to M15, 64 bytes each (R323). -/
  meas : Tbl (List Byte)
  operators : List (List Byte)
  session : Bool
  /-- Answers sent over the management port (R324, R329). -/
  mgmtOut : List (Nat × List Byte)
  throttled : Bool
  /-- Where the device stands in its start-up (R321). -/
  power : Power
deriving DecidableEq, Repr

/-- The device right after reset: every register at its reset value, nothing placed, nothing in flight. -/
def State.reset : State where
  schedule := []
  tick := 0
  cur := 0
  issued := []
  slots := []
  cores := []
  facets := []
  walkers := []
  ctxs := []
  queues := []
  regions := []
  indexes := []
  mem := []
  poison := []
  latent := []
  keySlots := []
  msgs := []
  keyReqs := []
  keyRels := []
  arrivals := []
  incrs := []
  codeReqs := []
  xinv := []
  rotation := []
  stackLogs := []
  devLog := ErrLog.empty
  devId := 0
  peers := []
  admission := []
  routes := []
  unreachable := []
  fabricOut := []
  owed := []
  unsent := []
  bulks := []
  bulkOut := []
  peerHeld := []
  peerOut := []
  apexReports := []
  svn := 0
  meas := []
  operators := []
  session := false
  mgmtOut := []
  throttled := false
  power := .reset

/-- Why the machine stops. -/
inductive Fault where
  /-- A turn or a step names a slot, core, facet, context, queue, descriptor or prism that the device does not have
  (R26, R272, R79, R294). Raised by `step` and `exec` of a step that is not well-formed. Safe: no such agent exists. -/
  | noSuchAgent
deriving DecidableEq, Repr

/-- Why an instruction has no meaning. -/
inductive Refusal where
  /-- The instruction with this mnemonic is not modelled; raised by its arm of `exec`. Safe. -/
  | notModelled (mnemonic : String)
deriving DecidableEq, Repr

/-- The outcome of a step of this machine. -/
abbrev Out := Host.Outcome State Fault Refusal

end Sys2Proof.Machine
end

