-- ==== Sys2Proof/Machine/Mem.lean ====
section
/-!
DEFINITION. Memory as a list of cells in one canonical form, poison and latent errors, encryption of granules, and the
places that addresses name (R28 to R31, R82 to R85, R115).
-/

namespace Sys2Proof.Machine

/-! ## Cells -/

/-- What memory reads as at an address that is not listed (log 1). -/
def unlisted : Byte := 0

/-- The byte at an address. -/
def memGet : List Host.Cell → Nat → Byte
  | [], _ => unlisted
  | (j, x) :: t, a => if j = a then x else memGet t a

/-- Memory with byte `b` at address `a`: the cell is listed unless `b` is what an unlisted address reads as. -/
def memSet (m : List Host.Cell) (a : Nat) (b : Byte) : List Host.Cell :=
  if b = unlisted then m.filter (fun c => c.1 ≠ a) else Tbl.set m a b

/-- The addresses of a list of cells rise strictly above `lo`. -/
def risingFrom : Option Nat → List Host.Cell → Bool
  | _, [] => true
  | none, (a, _) :: t => risingFrom (some a) t
  | some l, (a, _) :: t => decide (l < a) && risingFrom (some a) t

/-- The canonical form: addresses strictly rising, and no cell equal to what an unlisted address reads as. -/
def Memory.wf (m : List Host.Cell) : Bool := risingFrom none m && m.all (fun c => c.2 ≠ unlisted)

/-- The `n` bytes from address `a`. -/
def rdBytes (m : List Host.Cell) : Nat → Nat → List Byte
  | _, 0 => []
  | a, n + 1 => memGet m a :: rdBytes m (a + 1) n

/-- Memory with the given bytes from address `a`. -/
def wrBytes : List Host.Cell → Nat → List Byte → List Host.Cell
  | m, _, [] => m
  | m, a, b :: t => wrBytes (memSet m a b) (a + 1) t

/-! ## Places -/

/-- DEVICE of a global physical address (R28). -/
def devOf (pa : Nat) : Nat := bits pa 63 52

/-- SPACE of a global physical address: 0 HBM, 1 local memory, 2 scratchpad, 3 control (R28). -/
def spaceOf (pa : Nat) : Nat := bits pa 51 48

/-- OFFSET of a global physical address (R28). -/
def offOf (pa : Nat) : Nat := bits pa 47 0

/-- The prism's facet field of a local memory or scratchpad offset (R28). -/
def facetField (off : Nat) : Nat := bits off 28 20

/-- The global facet number of a local memory or scratchpad offset (R26, R28). -/
def facetOfOff (off : Nat) : Nat := 320 * bits off 31 29 + facetField off

/-- The global core number that holds a local memory address (R26, R28). -/
def localCore (pa : Nat) : Nat := 64 * facetOfOff (offOf pa) + bits (offOf pa) 19 14

/-- The global facet that holds a scratchpad address. -/
def spadFacet (pa : Nat) : Nat := facetOfOff (offOf pa)

/-- The macro that holds a scratchpad address (R110). -/
def macroOf (pa : Nat) : Nat := bits (offOf pa) 19 16

/-- The vertex unit that owns an HBM address (R30). -/
def unitOf (pa : Nat) : Nat := 32 * bits (offOf pa) 10 8 + bits (offOf pa) 15 11

/-- The global physical address of byte `b` of the local memory of core `g` on the own device. -/
def localAddr (g b : Nat) : Nat :=
  2 ^ 48 + (g / 64 / 320) * 2 ^ 29 + (g / 64 % 320) * 2 ^ 20 + (g % 64) * 2 ^ 14 + b

/-- The global physical address of byte `b` of the scratchpad of facet `f` on the own device. -/
def spadAddr (f b : Nat) : Nat := 2 * 2 ^ 48 + (f / 320) * 2 ^ 29 + (f % 320) * 2 ^ 20 + b

/-- A global physical address with the own identity written as DEVICE 0 (R334). -/
def normDev (own pa : Nat) : Nat := if devOf pa = own then pa % 2 ^ 52 else pa

/-- Whether an address, its own device written as 0, is ill-formed (R29): `peers` are the system's other devices. A fabric
adapter has an identity but no memory that an element access or copy could reach; R29 does not say whether its identity
counts as that of a device of the system: DESIGN CHOICE, log 63: it does not, so an address there is ill-formed. -/
def illFormed (peers : List Nat) (pa : Nat) : Bool :=
  let off := offOf pa
  4 ≤ spaceOf pa || (spaceOf pa = 0 && bits off 47 39 ≠ 0)
    || ((spaceOf pa = 1 || spaceOf pa = 2) && (bits off 47 32 ≠ 0 || 320 ≤ facetField off))
    || (devOf pa ≠ 0 && !peers.contains (devOf pa))

/-- Whether a location lies within a scope measured from core `g` (R223). -/
def inScope (x : Scope) (g pa : Nat) : Bool :=
  match x with
  | .core => devOf pa = 0 && spaceOf pa = 1 && localCore pa = g
  | .facet => devOf pa = 0 && ((spaceOf pa = 1 && localCore pa / 64 = g / 64) || (spaceOf pa = 2 && spadFacet pa = g / 64))
  | .prism =>
    devOf pa = 0 && ((spaceOf pa = 1 && localCore pa / 64 / 320 = g / 64 / 320)
      || (spaceOf pa = 2 && spadFacet pa / 320 = g / 64 / 320))
  | .dev => devOf pa = 0
  | .sys => true

/-! ## Poison -/

/-- The unit that a poison bit or an error code covers: a 64-byte granule of HBM, a doubleword of SRAM (R84, R115). -/
def unitSize (pa : Nat) : Nat := if spaceOf pa = 0 then 64 else 8

/-- The units that the `n` bytes from an address touch, `n` at most 64, by their addresses. -/
def unitsOf (pa n : Nat) : List Nat :=
  let w := unitSize pa
  let first := pa / w * w
  (List.range 9).filterMap fun i => if first + i * w < pa + n then some (first + i * w) else none

/-- Whether a byte of the range is poisoned. -/
def State.poisoned (s : State) (pa n : Nat) : Bool := (unitsOf pa n).any s.poison.contains

/-- A rising list of numbers with one more. -/
def insertNat (x : Nat) : List Nat → List Nat
  | [] => [x]
  | y :: t => if x < y then x :: y :: t else if x = y then y :: t else y :: insertNat x t

/-- Poison after a write of `n` bytes: a unit written whole is clear, another keeps what it had (R85, R115). Each store or
delivery is judged by itself: that a copy which covers a granule by several smaller deliveries leaves its poison is a DESIGN
CHOICE, log 71, since R85 speaks of the copy and R115 of the delivery. -/
def clearPoison (l : List Nat) (pa n : Nat) : List Nat :=
  l.filter fun u => !(pa ≤ u && u + unitSize u ≤ pa + n && unitSize u == unitSize pa)

/-- Poison marked on every unit that the range touches. -/
def markPoison (l : List Nat) (pa n : Nat) : List Nat := (unitsOf pa n).foldl (fun l u => insertNat u l) l

/-- Latent errors after a write of `n` bytes: the code of a unit written whole is written anew (R84). -/
def clearLatent (l : Tbl Nat) (pa n : Nat) : Tbl Nat :=
  l.filter fun u => !(pa ≤ u.1 && u.1 + unitSize u.1 ≤ pa + n && unitSize u.1 == unitSize pa)

/-! ## Accesses at the owner -/

/-- The key slot of a context, none while it is empty (R82). -/
def State.keySlot (s : State) (c : Nat) : Option KeySlot := Tbl.get none s.keySlots c

/-- Whether a place lies behind a key slot of this device that has been erased since it was translated (R325). -/
def State.keyLost (s : State) (p : Place) : Bool :=
  devOf p.pa = 0 && (match p.enc with | some c => (s.keySlot c).isNone | none => false)

/-- A granule of encrypted HBM as its context sees it: decrypted with the context's keys and tweaked by HBM offset bits
[38:6] (R82). -/
def State.rdGranule (s : State) (c pa : Nat) : List Byte :=
  match s.keySlot c with
  | none => rdBytes s.mem pa 64
  | some k => xtsDec k.k1 k.k2 (bits (offOf pa) 38 6) (rdBytes s.mem pa 64)

/-- Memory with a granule written through a context's encryption. -/
def State.wrGranule (s : State) (c pa : Nat) (d : List Byte) : List Host.Cell :=
  match s.keySlot c with
  | none => wrBytes s.mem pa d
  | some k => wrBytes s.mem pa (xtsEnc k.k1 k.k2 (bits (offOf pa) 38 6) d)

/-- The `n` bytes at a place, within one granule. -/
def State.rd (s : State) (p : Place) (n : Nat) : List Byte :=
  match p.enc with
  | none => rdBytes s.mem p.pa n
  | some c => ((s.rdGranule c (p.pa / 64 * 64)).drop (p.pa % 64)).take n

/-- The cells of memory after the bytes are written at a place, within one granule: an encrypted granule is read, merged
and rewritten as one access (R82). -/
def State.wrCells (s : State) (p : Place) (d : List Byte) : List Host.Cell :=
  match p.enc with
  | none => wrBytes s.mem p.pa d
  | some c =>
    let g := s.rdGranule c (p.pa / 64 * 64)
    s.wrGranule c (p.pa / 64 * 64) (g.take (p.pa % 64) ++ d ++ g.drop (p.pa % 64 + d.length))

/-- A write at the owner: the bytes, and the poison of the units it covers (R33, R85, R115). -/
def State.wr (s : State) (p : Place) (d : List Byte) : State :=
  { s with
    mem := s.wrCells p d
    poison := clearPoison s.poison p.pa d.length
    latent := clearLatent s.latent p.pa d.length }

/-- The number read at a place, little-endian (R6). -/
def State.rdNat (s : State) (p : Place) (n : Nat) : Nat := ofBytes (s.rd p n)

/-- The `n` bytes from a place that may span granules: each granule's part in turn, with fuel for the granules. -/
def State.rdLong (s : State) : Nat → Place → Nat → List Byte
  | 0, _, _ => []
  | fuel + 1, p, n =>
    let k := min n (64 - p.pa % 64)
    if n = 0 then [] else s.rd p k ++ s.rdLong fuel { p with pa := p.pa + k } (n - k)

/-- A write of bytes from a place that may span granules. -/
def State.wrLong (s : State) : Nat → Place → List Byte → State
  | 0, _, _ => s
  | fuel + 1, p, d =>
    let k := min d.length (64 - p.pa % 64)
    if d = [] then s else (s.wr p (d.take k)).wrLong fuel { p with pa := p.pa + k } (d.drop k)

end Sys2Proof.Machine
end

