-- ==== Sys2Proof/Machine/Access.lean ====
section
/-!
DEFINITION. Reading and writing the state's tables and a slot's registers, by the numbers of R26 and R294.
-/

namespace Sys2Proof.Machine

/-! ## Tables of agents -/

/-- Slot `u`: slot `u % 4` of core `u / 4` (R297). -/
def State.slot (s : State) (u : Nat) : Slot := Tbl.get Slot.reset s.slots u
def State.setSlot (s : State) (u : Nat) (t : Slot) : State := { s with slots := Tbl.set s.slots u t }
def State.core (s : State) (g : Nat) : Core := Tbl.get Core.reset s.cores g
def State.setCore (s : State) (g : Nat) (c : Core) : State := { s with cores := Tbl.set s.cores g c }
def State.facet (s : State) (f : Nat) : Facet := Tbl.get Facet.reset s.facets f
def State.setFacet (s : State) (f : Nat) (x : Facet) : State := { s with facets := Tbl.set s.facets f x }
def State.walker (s : State) (w : Nat) : Walker := Tbl.get { running := [], queued := [] } s.walkers w
def State.setWalker (s : State) (w : Nat) (x : Walker) : State := { s with walkers := Tbl.set s.walkers w x }
def State.ctx (s : State) (c : Nat) : Ctx := Tbl.get Ctx.reset s.ctxs c
def State.setCtx (s : State) (c : Nat) (x : Ctx) : State := { s with ctxs := Tbl.set s.ctxs c x }
def State.queue (s : State) (q : Nat) : LaunchQ := Tbl.get LaunchQ.reset s.queues q
def State.setQueue (s : State) (q : Nat) (x : LaunchQ) : State := { s with queues := Tbl.set s.queues q x }
def State.region (s : State) (n : Nat) : Region := Tbl.get Region.reset s.regions n
def State.setRegion (s : State) (n : Nat) (x : Region) : State := { s with regions := Tbl.set s.regions n x }
def State.index (s : State) (n : Nat) : IndexSlot := Tbl.get IndexSlot.reset s.indexes n
def State.setIndex (s : State) (n : Nat) (x : IndexSlot) : State := { s with indexes := Tbl.set s.indexes n x }
def Facet.mac (x : Facet) (m : Nat) : Mac := Tbl.get Mac.reset x.macs m
def Facet.setMac (x : Facet) (m : Nat) (y : Mac) : Facet := { x with macs := Tbl.set x.macs m y }
def Facet.bar (x : Facet) (b : Nat) : Barrier := Tbl.get Barrier.reset x.bars b
def Facet.setBar (x : Facet) (b : Nat) (y : Barrier) : Facet := { x with bars := Tbl.set x.bars b y }
def State.mac (s : State) (f m : Nat) : Mac := (s.facet f).mac m
def State.setMac (s : State) (f m : Nat) (y : Mac) : State := s.setFacet f ((s.facet f).setMac m y)

/-! ## The slot whose instruction runs -/

/-- The slot whose instruction runs. -/
def State.here (s : State) : Slot := s.slot s.cur
def State.setHere (s : State) (t : Slot) : State := s.setSlot s.cur t
/-- Its core (R26). -/
def State.myCore (s : State) : Nat := s.cur / 4
/-- Its facet (R26). -/
def State.myFacet (s : State) : Nat := s.cur / 256

/-- The context that runs on the facet of slot `u`; 0 where none holds it. -/
def State.ctxOf (s : State) (u : Nat) : Nat := (s.facet (u / 256)).ctx.getD 0
/-- The context of the slot whose instruction runs. -/
def State.myCtx (s : State) : Nat := s.ctxOf s.cur

/-! ## Registers of a slot -/

/-- The number of the register that a field names: at supervisor level s1 to s7 are those of the bank (R284). -/
def Slot.regNo (t : Slot) (a : Nat) : Nat := if t.sup && 1 ≤ a && a ≤ 7 then 32 + a else a

/-- The register with a number: n for sn, 32 + n for the bank's sn; s0 reads zero (R60). -/
def Slot.phys (t : Slot) (n : Nat) : Dword :=
  if n = 0 then 0 else if n < 33 then t.regs.getD n 0 else t.bank.getD (n - 33) 0

/-- The slot with a register written by its number; a write to s0 is discarded (R60, R120). -/
def Slot.setPhys (t : Slot) (n : Nat) (x : Dword) : Slot :=
  if n = 0 then t
  else if n < 33 then { t with regs := t.regs.setIfInBounds n x }
  else { t with bank := t.bank.setIfInBounds (n - 33) x }

/-- S[a] (R36, R60, R284). -/
def Slot.s (t : Slot) (a : Nat) : Dword := t.phys (t.regNo a)

/-- The slot in which reading the register with a number acquires nothing any more: another value replaces the status word
that stood for deliveries, or a new command names the register (R87). -/
def Slot.unmark (t : Slot) (n : Nat) : Slot :=
  { t with early := t.early.map fun e => { e with behind := e.behind.filter (· ≠ n) } }

/-- The slot with S[d] written. -/
def Slot.setS (t : Slot) (d : Nat) (x : Dword) : Slot := (t.setPhys (t.regNo d) x).unmark (t.regNo d)

/-- Pending(a): s0 never is (R120). -/
def Slot.isPend (t : Slot) (a : Nat) : Bool := a ≠ 0 && t.pend.contains (t.regNo a)

/-- The slot with a register, by its number, turned pending. -/
def Slot.addPend (t : Slot) (n : Nat) : Slot := { t.unmark n with pend := insertNat n t.pend }

/-- The slot with a register, by its number, no longer pending. -/
def Slot.dropPend (t : Slot) (n : Nat) : Slot := { t with pend := t.pend.filter (· ≠ n) }

/-- Token.Write: the register with this number receives the status word and stops being pending (R87, R100). -/
def Slot.writeTok (t : Slot) (n : Nat) (w : Dword) : Slot := (t.setPhys n w).dropPend n

/-- V[a]. -/
def Slot.vreg (t : Slot) (a : Nat) : Vec := t.v.getD a 0
def Slot.setV (t : Slot) (d : Nat) (x : Vec) : Slot := { t with v := t.v.setIfInBounds d x }
/-- p0 reads all-true (R60). -/
def Slot.preg (t : Slot) (p : Nat) : BitVec 32 := if p = 0 then BitVec.allOnes 32 else t.p.getD (p - 1) 0
def Slot.setP (t : Slot) (d : Nat) (x : BitVec 32) : Slot :=
  if d = 0 then t else { t with p := t.p.setIfInBounds (d - 1) x }
def Slot.setM (t : Slot) (d : Nat) (x : Dword) : Slot := { t with m := t.m.setIfInBounds d x }

/-- The slot at another instruction: what was delivered to the finished one is spent, and the first instruction of a
task clears the START mark (R253). -/
def Slot.goto (t : Slot) (pc : Dword) : Slot :=
  { t with pc := pc, start := t.start && t.sup, wait := none, xf := none, examined := false, beat := !t.beat }

/-- The slot at its next instruction in sequence (R119). -/
def Slot.advance (t : Slot) : Slot := t.goto (t.pc + 4)

/-- A list with an entry replaced by its position. -/
def setAt {α : Type} (l : List α) (k : Nat) (x : α) : List α := l.set k x

/-- A list without the entry at a position. -/
def dropAt {α : Type} (l : List α) (k : Nat) : List α := l.eraseIdx k

/-! ## Facet sets -/

/-- The doubleword `j` of a launch queue's mask (R272). -/
def LaunchQ.maskDw (q : LaunchQ) (j : Nat) : Dword := Tbl.get 0 q.mask j

/-- Whether a queue's mask selects facet `f` (R272). -/
def LaunchQ.selects (q : LaunchQ) (f : Nat) : Bool := (q.maskDw (f / 64)).getLsbD (f % 64)

/-- The facets that a mask selects, rising; empty doublewords are passed over. -/
def LaunchQ.facets (q : LaunchQ) : List Nat :=
  (List.range 40).flatMap fun j =>
    if q.maskDw j = 0 then [] else (List.range 64).filterMap fun i =>
      if (q.maskDw j).getLsbD i then some (64 * j + i) else none

/-- The union of two rising lists. -/
def unionNat (a b : List Nat) : List Nat := a.foldl (fun l x => insertNat x l) b

/-- The union of the masks of the valid queues that name context `c` (R274). -/
def State.boundSet (s : State) (c : Nat) : List Nat :=
  s.queues.foldl (fun l q => if q.2.valid && q.2.ctx == c then unionNat q.2.facets l else l) []

/-- Whether two facet sets meet. -/
def overlaps (a b : List Nat) : Bool := a.any b.contains

/-- The number of cores in a facet set. -/
def coresIn (set : List Nat) : Nat := 64 * set.length

/-- The core at position `i` of a facet set, in ascending global core order. -/
def coreAt (set : List Nat) (i : Nat) : Nat := 64 * set.getD (i / 64) 0 + i % 64

/-- Whether a core lies in a facet set. -/
def coreIn (set : List Nat) (g : Nat) : Bool := set.contains (g / 64)

/-- The position of a core in a facet set. -/
def posOf (set : List Nat) (g : Nat) : Nat := 64 * set.idxOf (g / 64) + g % 64

/-- The facet set of a context now: taken at its placement while it runs, else the union of the masks (R247, R274). -/
def State.facetSet (s : State) (c : Nat) : List Nat :=
  if (s.ctx c).st = .running then (s.ctx c).set else unionNat (s.ctx c).kept (s.boundSet c)

end Sys2Proof.Machine
end

