-- ==== Sys2Proof/Machine/Num.lean ====
section
/-!
DEFINITION. The number formats: exact values, rounding, conversion (R133 to R144), and the special functions of R158.
An exact value is a sign, a magnitude and a power of two.
-/

namespace Sys2Proof.Machine

/-! ## Flags -/

/-- The exceptions of R63, as one operation raises them. -/
structure Fl where
  nv : Bool
  dz : Bool
  of_ : Bool
  uf : Bool
  nx : Bool
deriving DecidableEq, Repr

def Fl.none : Fl := { nv := false, dz := false, of_ := false, uf := false, nx := false }
def Fl.invalid : Fl := { Fl.none with nv := true }
def Fl.divZero : Fl := { Fl.none with dz := true }
def Fl.inexact : Fl := { Fl.none with nx := true }
def Fl.overflow : Fl := { Fl.none with of_ := true, nx := true }
def Fl.underflow : Fl := { Fl.none with uf := true, nx := true }

/-- The flags of two operations together. -/
def Fl.or (a b : Fl) : Fl :=
  { nv := a.nv || b.nv, dz := a.dz || b.dz, of_ := a.of_ || b.of_, uf := a.uf || b.uf, nx := a.nx || b.nx }

/-- Rounding modes, in the order of FPCTL.RM (R63, R136). -/
inductive Rm where
  | rne | rtz | rdn | rup
deriving DecidableEq, Repr

/-! ## Values -/

/-- What a number stands for: a finite value (−1)^neg · mag · 2^e, an infinity, or a non-number, signalling or not
(a VOID is a quiet one; R143). -/
inductive Val where
  | fin (neg : Bool) (mag : Nat) (e : Int)
  | inf (neg : Bool)
  | nan (sig : Bool)
deriving DecidableEq, Repr

/-- A binary interchange format by its exponent and fraction widths (R135). -/
structure BinFmt where
  eb : Nat
  fb : Nat
deriving DecidableEq, Repr

def b16 : BinFmt := { eb := 5, fb := 10 }
def b32 : BinFmt := { eb := 8, fb := 23 }

/-- The bias of the exponent. -/
def BinFmt.bias (f : BinFmt) : Nat := 2 ^ (f.eb - 1) - 1
/-- The exponent of the smallest normal value. -/
def BinFmt.emin (f : BinFmt) : Int := 1 - (f.bias : Int)
/-- The sign bit as a number. -/
def BinFmt.signBit (f : BinFmt) : Nat := 2 ^ (f.eb + f.fb)
/-- The bits of infinity of a sign. -/
def BinFmt.infBits (f : BinFmt) (neg : Bool) : Nat := (2 ^ f.eb - 1) * 2 ^ f.fb + (if neg then f.signBit else 0)
/-- The canonical NaN (R138). -/
def BinFmt.nanBits (f : BinFmt) : Nat := (2 ^ f.eb - 1) * 2 ^ f.fb + 2 ^ (f.fb - 1)
/-- The largest finite value of a sign. -/
def BinFmt.maxBits (f : BinFmt) (neg : Bool) : Nat :=
  (2 ^ f.eb - 1) * 2 ^ f.fb - 1 + (if neg then f.signBit else 0)
/-- Zero of a sign. -/
def BinFmt.zeroBits (f : BinFmt) (neg : Bool) : Nat := if neg then f.signBit else 0

/-- The value of a pattern (R135), a subnormal read as a zero of its sign under FTZ (R137). -/
def BinFmt.decode (f : BinFmt) (ftz : Bool) (x : Nat) : Val :=
  let neg := bit x (f.eb + f.fb)
  let ex := bits x (f.eb + f.fb - 1) f.fb
  let fr := bits x (f.fb - 1) 0
  if ex = 2 ^ f.eb - 1 then
    if fr = 0 then .inf neg else .nan (!bit x (f.fb - 1))
  else if ex = 0 then .fin neg (if ftz then 0 else fr) (f.emin - f.fb)
  else .fin neg (2 ^ f.fb + fr) ((ex : Int) - f.bias - f.fb)

/-- A magnitude brought to the quantum 2^q by a mode: the multiple, and whether it differs. `sticky` says that the true
magnitude lies strictly between `mag` and `mag + 1` units. -/
def roundAt (rm : Rm) (neg : Bool) (mag : Nat) (e : Int) (sticky : Bool) (q : Int) : Nat × Bool :=
  if q ≤ e then (mag * 2 ^ (e - q).toNat, sticky)
  else
    let d := (q - e).toNat
    let m0 := mag / 2 ^ d
    let r := mag % 2 ^ d
    let half := 2 ^ (d - 1)
    let inexact := r ≠ 0 || sticky
    let up :=
      match rm with
      | .rne => half < r || (r = half && (sticky || m0 % 2 = 1))
      | .rtz => false
      | .rdn => neg && inexact
      | .rup => !neg && inexact
    (if up then m0 + 1 else m0, inexact)

/-- The bits of a value m · 2^q that the format holds: m below 2^(fb+1), or equal to it. -/
def BinFmt.encode (f : BinFmt) (neg : Bool) (m : Nat) (q : Int) : Nat :=
  let sign := if neg then f.signBit else 0
  let r := if m = 2 ^ (f.fb + 1) then (2 ^ f.fb, q + 1) else (m, q)
  if r.1 < 2 ^ f.fb then sign + r.1
  else sign + ((r.2 + f.fb + f.bias).toNat) * 2 ^ f.fb + (r.1 - 2 ^ f.fb)

/-- Round(x, mode) onto a binary format, with overflow, tininess after rounding and FTZ (R136, R137). A zero keeps its
sign. -/
def BinFmt.round (f : BinFmt) (rm : Rm) (ftz : Bool) (neg : Bool) (mag : Nat) (e : Int) (sticky : Bool) : Nat × Fl :=
  if mag = 0 && !sticky then (f.zeroBits neg, Fl.none)
  else
    let qu := e + (Nat.log2 mag : Int) - f.fb
    let qmin := f.emin - f.fb
    let q := if qu < qmin then qmin else qu
    let r := roundAt rm neg mag e sticky q
    let tiny := qu < qmin && decide (¬ ((roundAt rm neg mag e sticky qu).1 = 2 ^ (f.fb + 1) ∧ qu + f.fb + 1 = f.emin))
    let top : Int := if r.1 = 2 ^ (f.fb + 1) then q + f.fb + 1 else q + f.fb
    if (f.bias : Int) < top then
      (match rm with
        | .rne => f.infBits neg
        | .rtz => f.maxBits neg
        | .rdn => if neg then f.infBits neg else f.maxBits neg
        | .rup => if neg then f.maxBits neg else f.infBits neg, Fl.overflow)
    else if tiny && ftz then (f.zeroBits neg, Fl.underflow)
    else (f.encode neg r.1 q, { Fl.none with uf := tiny && r.2, nx := r.2 })

/-! ## Arithmetic on values -/

/-- The signed integer of a finite value in units of 2^q, for q not above its exponent. -/
def scaled (neg : Bool) (mag : Nat) (e q : Int) : Int :=
  let m : Int := (mag * 2 ^ (e - q).toNat : Nat)
  if neg then -m else m

/-- The lesser of two exponents. -/
def minInt (a b : Int) : Int := if a ≤ b then a else b

/-- A value computed exactly, or a result that is settled: an infinity or the canonical NaN with its flags. -/
inductive Exact where
  | fin (neg : Bool) (mag : Nat) (e : Int)
  | inf (neg : Bool)
  | nan (fl : Fl)
deriving DecidableEq, Repr

/-- NV for a signalling NaN among the inputs (R138). -/
def sigFl (b : Bool) : Fl := if b then Fl.invalid else Fl.none

def Val.isSig : Val → Bool
  | .nan s => s
  | _ => false

/-- The exact sum of two finite values; the sign of a zero sum as IEEE 754 gives it under the mode. -/
def addFin (rm : Rm) (n1 : Bool) (m1 : Nat) (e1 : Int) (n2 : Bool) (m2 : Nat) (e2 : Int) : Exact :=
  let q := minInt e1 e2
  let s := scaled n1 m1 e1 q + scaled n2 m2 e2 q
  if s = 0 then .fin (if n1 = n2 then n1 else rm = .rdn) 0 q else .fin (s < 0) s.natAbs q

/-- X + Y (R135, R138, R157). -/
def Val.add (rm : Rm) (x y : Val) : Exact :=
  match x, y with
  | .nan a, y => .nan (sigFl (a || y.isSig))
  | x, .nan b => .nan (sigFl (b || x.isSig))
  | .inf a, .inf b => if a = b then .inf a else .nan Fl.invalid
  | .inf a, .fin _ _ _ => .inf a
  | .fin _ _ _, .inf b => .inf b
  | .fin n1 m1 e1, .fin n2 m2 e2 => addFin rm n1 m1 e1 n2 m2 e2

/-- The value with its sign inverted; a NaN stays. -/
def Val.neg : Val → Val
  | .fin n m e => .fin (!n) m e
  | .inf n => .inf (!n)
  | .nan s => .nan s

/-- X · Y (R135, R138, R157). -/
def Val.mul (x y : Val) : Exact :=
  match x, y with
  | .nan a, y => .nan (sigFl (a || y.isSig))
  | x, .nan b => .nan (sigFl (b || x.isSig))
  | .inf a, .inf b => .inf (a != b)
  | .inf a, .fin n m _ => if m = 0 then .nan Fl.invalid else .inf (a != n)
  | .fin n m _, .inf b => if m = 0 then .nan Fl.invalid else .inf (n != b)
  | .fin n1 m1 e1, .fin n2 m2 e2 => .fin (n1 != n2) (m1 * m2) (e1 + e2)

/-- X · Y + Z, exact; a product of zero and infinity is invalid even when Z is a quiet NaN (R157). -/
def Val.fma (rm : Rm) (x y z : Val) : Exact :=
  match x.mul y with
  | .nan f => .nan (f.or (sigFl z.isSig))
  | .inf a =>
    match z with
    | .nan s => .nan (sigFl s)
    | .inf b => if a = b then .inf a else .nan Fl.invalid
    | .fin _ _ _ => .inf a
  | .fin n m e =>
    match z with
    | .nan s => .nan (sigFl s)
    | .inf b => .inf b
    | .fin n2 m2 e2 => addFin rm n m e n2 m2 e2

/-- An exact result rounded into a binary format. -/
def BinFmt.finish (f : BinFmt) (rm : Rm) (ftz : Bool) : Exact → Nat × Fl
  | .fin n m e => f.round rm ftz n m e false
  | .inf n => (f.infBits n, Fl.none)
  | .nan fl => (f.nanBits, fl)

/-- The order of two values that are no NaNs: their difference's sign; zeros of either sign are equal. -/
def cmpVal (x y : Val) : Ordering :=
  match x, y with
  | .fin n1 m1 e1, .fin n2 m2 e2 => compare (scaled n1 m1 e1 (minInt e1 e2)) (scaled n2 m2 e2 (minInt e1 e2))
  | .inf a, .inf b => if a = b then .eq else if a then .lt else .gt
  | .inf a, _ => if a then .lt else .gt
  | _, .inf b => if b then .gt else .lt
  | _, _ => .eq

/-- Whether x is the lesser, with −0 ordered below +0 (R157). -/
def lesser (x y : Val) : Bool :=
  match cmpVal x y with
  | .lt => true
  | .gt => false
  | .eq => match x with | .fin n _ _ => n | .inf _ | .nan _ => true

/-- The bits of an input as read: a subnormal is a zero of its sign under FTZ (R137). -/
def BinFmt.asRead (f : BinFmt) (ftz : Bool) (x : Nat) : Nat :=
  if ftz && bits x (f.eb + f.fb - 1) f.fb = 0 then x / 2 ^ (f.eb + f.fb) % 2 * f.signBit else x % 2 ^ (f.eb + f.fb + 1)

def Val.isNan : Val → Bool
  | .nan _ => true
  | _ => false

/-- VMIN and VMAX of float lanes (R157). -/
def BinFmt.extreme (f : BinFmt) (ftz greater : Bool) (x y : Nat) : Nat × Fl :=
  let a := f.decode ftz x
  let b := f.decode ftz y
  if a.isNan || b.isNan then (f.nanBits, sigFl (a.isSig || b.isSig))
  else if lesser a b != greater then (f.asRead ftz x, Fl.none) else (f.asRead ftz y, Fl.none)

/-- VABS and VNEG of float lanes (R157): the input as read with its sign cleared or inverted. -/
def BinFmt.resign (f : BinFmt) (ftz invert : Bool) (x : Nat) : Nat × Fl :=
  let a := f.decode ftz x
  if a.isNan then (f.nanBits, sigFl a.isSig)
  else
    let y := f.asRead ftz x
    (if invert then (if y < f.signBit then y + f.signBit else y - f.signBit) else y % f.signBit, Fl.none)

/-- A leaf that reaches the root of a reduction alone: as read, a NaN made canonical (R162). -/
def BinFmt.leaf (f : BinFmt) (ftz : Bool) (x : Nat) : Nat × Fl :=
  let a := f.decode ftz x
  if a.isNan then (f.nanBits, sigFl a.isSig) else (f.asRead ftz x, Fl.none)

/-! ## CONE formats (R140 to R142) -/

/-- The run of bits equal to `b` from bit `i − 1` of `m` downward. -/
def runLen (m : Nat) (b : Bool) : Nat → Nat
  | 0 => 0
  | i + 1 => if bit m i = b then runLen m b i + 1 else 0

/-- The magnitude of a CONE magnitude field of w bits, in units of 2^−12; every CONE8 and CONE6 value is a whole number
of them. -/
def coneUnits (w es m : Nat) : Nat :=
  if m = 0 then 0
  else
    let b := bit m (w - 1)
    let r := runLen m b w
    let k : Int := if b then (r : Int) - 1 else -(r : Int)
    let q := w - r - 1
    let t := m % 2 ^ q
    let ne := min es q
    let ev := t / 2 ^ (q - ne) * 2 ^ (es - ne)
    let nf := q - ne
    let fr := t % 2 ^ nf
    (2 ^ nf + fr) * 2 ^ ((2 ^ es : Int) * k + ev + 12 - nf).toNat

/-- The value of a CONE pattern of n bits (R140); VOID is a non-number. -/
def coneDecode (n es x : Nat) : Val :=
  let m := x % 2 ^ (n - 1)
  let s := bit x (n - 1)
  if m = 0 then (if s then .nan false else .fin false 0 (-12)) else .fin s (coneUnits (n - 1) es m) (-12)

/-- The greatest magnitude code whose units do not exceed a bound scaled by 2^k, from code `c` downward. -/
def coneFloor (w es bound k : Nat) : Nat → Nat
  | 0 => 0
  | c + 1 => if coneUnits w es (c + 1) * 2 ^ k ≤ bound then c + 1 else coneFloor w es bound k c

/-- A finite value into a CONE format (R144). -/
def coneRound (n es : Nat) (rm : Rm) (neg : Bool) (mag : Nat) (e : Int) : Nat × Fl :=
  let w := n - 1
  let top := 2 ^ w - 1
  let q := minInt e (-12)
  let v := mag * 2 ^ (e - q).toNat
  let k := (-12 - q).toNat
  let sign := if neg then 2 ^ w else 0
  if coneUnits w es top * 2 ^ k < v then (sign + top, Fl.overflow)
  else
    let lo := coneFloor w es v k top
    let ulo := coneUnits w es lo * 2 ^ k
    if ulo = v then (if lo = 0 then 0 else sign + lo, Fl.none)
    else
      let uhi := coneUnits w es (lo + 1) * 2 ^ k
      let up :=
        match rm with
        | .rne => ulo + uhi < 2 * v || (ulo + uhi = 2 * v && lo % 2 = 1)
        | .rtz => false
        | .rdn => neg
        | .rup => !neg
      let c := if up then lo + 1 else lo
      if c = 0 then (0, Fl.underflow) else (sign + c, Fl.inexact)

/-! ## Conversion (R143) -/

/-- The width of a number format (R152). -/
def nfWidth : NFmt → Nat
  | .int8 => 8
  | .int32 => 32
  | .f16 => 16
  | .f32 => 32
  | .cone8 => 8
  | .cone6 => 8

/-- The value of a pattern in a number format. A CONE6 lane is a byte whose bits [7:6] are ignored (R152). -/
def nfDecode (f : NFmt) (ftz : Bool) (x : Nat) : Val :=
  match f with
  | .int8 => .fin (sint x 8 < 0) (sint x 8).natAbs 0
  | .int32 => .fin (sint x 32 < 0) (sint x 32).natAbs 0
  | .f16 => b16.decode ftz x
  | .f32 => b32.decode ftz x
  | .cone8 => coneDecode 8 1 x
  | .cone6 => coneDecode 6 0 x

/-- A value into a signed integer of w bits: rounded by mode, then clamped; a clamp that changes it sets NV. -/
def toInteger (w : Nat) (rm : Rm) : Val → Nat × Fl
  | .nan _ => (0, Fl.invalid)
  | .inf neg => (if neg then 2 ^ (w - 1) else 2 ^ (w - 1) - 1, Fl.invalid)
  | .fin neg mag e =>
    let m := (roundAt rm neg mag e false 0).1
    if neg then (if 2 ^ (w - 1) < m then (2 ^ (w - 1), Fl.invalid) else ((2 ^ w - m) % 2 ^ w, Fl.none))
    else if 2 ^ (w - 1) ≤ m then (2 ^ (w - 1) - 1, Fl.invalid) else (m, Fl.none)

/-- A value into a CONE format of n bits. -/
def toCone (n es : Nat) (rm : Rm) : Val → Nat × Fl
  | .nan _ => (2 ^ (n - 1), Fl.invalid)
  | .inf neg => ((if neg then 2 ^ (n - 1) else 0) + (2 ^ (n - 1) - 1), Fl.overflow)
  | .fin neg mag e => coneRound n es rm neg mag e

/-- A value into a binary format. -/
def toBinary (f : BinFmt) (rm : Rm) (ftz : Bool) : Val → Nat × Fl
  | .nan sig => (f.nanBits, sigFl sig)
  | .inf neg => (f.infBits neg, Fl.none)
  | .fin neg mag e => f.round rm ftz neg mag e false

/-- Convert(x, dst, mode, ftz) for a value already read (R143). -/
def nfEncode (f : NFmt) (rm : Rm) (ftz : Bool) (v : Val) : Nat × Fl :=
  match f with
  | .int8 => toInteger 8 rm v
  | .int32 => toInteger 32 rm v
  | .f16 => toBinary b16 rm ftz v
  | .f32 => toBinary b32 rm ftz v
  | .cone8 => toCone 8 1 rm v
  | .cone6 => toCone 6 0 rm v

/-- Convert of a pattern in one format into another (R143). -/
def convert (src dst : NFmt) (rm : Rm) (ftz : Bool) (x : Nat) : Nat × Fl := nfEncode dst rm ftz (nfDecode src ftz x)

/-! ## Special functions (R139, R158) -/

/-- The integer square root from bit `n` downward: `r` is the part found so far. -/
def isqrtFrom : Nat → Nat → Nat → Nat
  | 0, _, r => r
  | n + 1, y, r => if (r + 2 ^ n) * (r + 2 ^ n) ≤ y then isqrtFrom n y (r + 2 ^ n) else isqrtFrom n y r

/-- The integer square root of a number below 4^n. -/
def isqrt (n y : Nat) : Nat := isqrtFrom n y 0

/-- 1/X of a finite non-zero value, rounded under RNE. -/
def BinFmt.recip (f : BinFmt) (neg : Bool) (mag : Nat) (e : Int) : Nat × Fl :=
  let k := Nat.log2 mag + f.fb + 4
  let q := 2 ^ k / mag
  f.round .rne false neg q (-e - k) (decide (q * mag ≠ 2 ^ k))

/-- 1/√X of a finite positive value, rounded under RNE. -/
def BinFmt.rsqrt (f : BinFmt) (mag : Nat) (e : Int) : Nat × Fl :=
  let m := if e % 2 = 0 then mag else 2 * mag
  let e' := if e % 2 = 0 then e else e - 1
  let k := Nat.log2 m + f.fb + 4
  let q := isqrt (k + 1) (2 ^ (2 * k) / m)
  f.round .rne false false q (-(e' / 2) - k) (decide (q * q * m ≠ 2 ^ (2 * k)))

/-- The sum of terms z^(2i+1)/(2i+1), i from `i` on, in fixed point of `p` bits: `t` is z^(2i+1). -/
def atanhFrom (p zz : Nat) : Nat → Nat → Nat → Nat
  | 0, _, _ => 0
  | n + 1, i, t => t / (2 * i + 1) + atanhFrom p zz n (i + 1) (t * zz / 2 ^ p)

/-- ln of num/den, 1 ≤ num/den < 2, in fixed point of `p` bits, below the true value by less than 2^12 units. -/
def lnFix (p num den : Nat) : Nat :=
  let z := (num - den) * 2 ^ p / (num + den)
  2 * atanhFrom p (z * z / 2 ^ p) (p / 3 + 4) 0 z

/-- ln 2 in fixed point of `p` bits, from 2 atanh(1/3). -/
def ln2Fix (p : Nat) : Nat :=
  let z := 2 ^ p / 3
  2 * atanhFrom p (z * z / 2 ^ p) (p / 3 + 4) 0 z

/-- The sum of the terms x^i/i! from `i` on in fixed point of `p` bits: `t` is x^i/i!. -/
def expFrom (p x : Nat) : Nat → Nat → Nat → Nat
  | 0, _, _ => 0
  | n + 1, i, t => t + expFrom p x n (i + 1) (t * x / 2 ^ p / (i + 1))

/-- A magnitude known to lie within `slack` units of `v`: its leading `n` bits and the exponent of the last of them, when
every magnitude in that range has the same. -/
def settle (n v slack : Nat) : Option (Nat × Nat) :=
  let lo := v - slack
  let d := Nat.log2 lo + 1 - n
  if lo / 2 ^ d = (v + slack) / 2 ^ d then some (lo / 2 ^ d, d) else none

/-- The fixed-point precisions that are tried in turn. -/
def precisions : List Nat := [128, 256, 512, 1024, 2048]

/-- The first precision at which a computation settles. -/
def firstSettled (g : Nat → Option (Nat × Int)) : List Nat → Nat × Int
  | [] => (1, 0)
  | p :: t => match g p with
    | some r => r
    | none => firstSettled g t

/-- 2^X of a finite non-zero value, rounded under RNE. A whole X gives an exact power; any other X gives an irrational
power, whose leading bits are settled by bounds (R139). -/
def BinFmt.exp2 (f : BinFmt) (neg : Bool) (mag : Nat) (e : Int) : Nat × Fl :=
  if 12 ≤ (Nat.log2 mag : Int) + e then
    -- |X| of 4,096 or more: beyond every binary32 exponent
    if neg then f.round .rne false false 1 (-4096) true else f.round .rne false false (2 ^ 40) 4096 true
  else
    let d := (-e).toNat
    let x : Int := scaled neg mag e (-(d : Int))
    let n := x / 2 ^ d
    let fr := (x % 2 ^ d).toNat
    if fr = 0 then f.round .rne false false 1 n false
    else
      let r := firstSettled (fun p =>
        let v := expFrom p (ln2Fix p * fr / 2 ^ d) p 0 (2 ^ p)
        (settle (f.fb + 4) v (2 ^ 20)).map fun r => (r.1, (r.2 : Int) - p + n)) precisions
      f.round .rne false false r.1 r.2 true

/-- log2 X of a finite positive value, rounded under RNE. A power of two gives an exact whole number; any other value an
irrational one, settled by bounds (R139). -/
def BinFmt.log2 (f : BinFmt) (mag : Nat) (e : Int) : Nat × Fl :=
  let k := Nat.log2 mag
  let n : Int := k + e
  if mag = 2 ^ k then f.round .rne false (n < 0) n.natAbs 0 false
  else
    let r := firstSettled (fun p =>
      let frac := lnFix p mag (2 ^ k) * 2 ^ p / ln2Fix p
      let v : Int := n * 2 ^ p + frac
      (settle (f.fb + 4) v.natAbs (2 ^ 20)).map fun r => (r.1, (r.2 : Int) - p)) precisions
    f.round .rne false (n < 0) r.1 r.2 true

/-- VEXP2 of a lane (R158). -/
def BinFmt.vexp2 (f : BinFmt) (x : Nat) : Nat × Fl :=
  match f.decode false x with
  | .nan s => (f.nanBits, sigFl s)
  | .inf neg => (if neg then f.zeroBits false else f.infBits false, Fl.none)
  | .fin neg m e => if m = 0 then f.round .rne false false 1 0 false else f.exp2 neg m e

/-- VLOG2 of a lane (R158). -/
def BinFmt.vlog2 (f : BinFmt) (x : Nat) : Nat × Fl :=
  match f.decode false x with
  | .nan s => (f.nanBits, sigFl s)
  | .inf neg => if neg then (f.nanBits, Fl.invalid) else (f.infBits false, Fl.none)
  | .fin neg m e =>
    if m = 0 then (f.infBits true, Fl.divZero) else if neg then (f.nanBits, Fl.invalid) else f.log2 m e

/-- VRCP of a lane (R158). -/
def BinFmt.vrcp (f : BinFmt) (x : Nat) : Nat × Fl :=
  match f.decode false x with
  | .nan s => (f.nanBits, sigFl s)
  | .inf neg => (f.zeroBits neg, Fl.none)
  | .fin neg m e => if m = 0 then (f.infBits neg, Fl.divZero) else f.recip neg m e

/-- VRSQ of a lane (R158). -/
def BinFmt.vrsq (f : BinFmt) (x : Nat) : Nat × Fl :=
  match f.decode false x with
  | .nan s => (f.nanBits, sigFl s)
  | .inf neg => if neg then (f.nanBits, Fl.invalid) else (f.zeroBits false, Fl.none)
  | .fin neg m e =>
    if m = 0 then (f.infBits neg, Fl.divZero) else if neg then (f.nanBits, Fl.invalid) else f.rsqrt m e

end Sys2Proof.Machine
end

