-- ==== Sys2Proof/Machine/Flags.lean ====
section
/-!
DEFINITION. FPCTL: its fields, its sticky flags, and how it is written (R7, R62, R63).
-/

namespace Sys2Proof.Machine

/-- FPCTL.RM. -/
def fpRm (x : Dword) : Rm :=
  match bits x.toNat 1 0 with
  | 0 => .rne | 1 => .rtz | 2 => .rdn | _ => .rup

/-- FPCTL.FTZ. -/
def fpFtz (x : Dword) : Bool := x.getLsbD 2

/-- FPCTL.ISAT. -/
def fpIsat (x : Dword) : Bool := x.getLsbD 3

/-- The sticky flags of an operation at their places in FPCTL. -/
def Fl.mask (f : Fl) : Dword :=
  dw (b2n f.nv * 2 ^ 8 + b2n f.dz * 2 ^ 9 + b2n f.of_ * 2 ^ 10 + b2n f.uf * 2 ^ 11 + b2n f.nx * 2 ^ 12)

/-- The slot with sticky flags set (R139). -/
def Slot.raise (t : Slot) (f : Fl) : Slot := { t with fpctl := t.fpctl ||| f.mask }

/-- FPCTL after a write: RM, FTZ and ISAT take the value, each 1 clears a sticky flag, the rest reads zero (R7, R63). -/
def writeFpctl (old new : Dword) : Dword := (new &&& 0xF) ||| (old &&& 0x1F00 &&& ~~~new)

/-- The flags of R151 that a matrix command reports: bit 0 NX, 1 UF, 2 OF, 3 NV. -/
def Fl.report (f : Fl) : Nat := b2n f.nx + 2 * b2n f.uf + 4 * b2n f.of_ + 8 * b2n f.nv

/-- An exact sum as an INT32 result: wrapped, or clamped with OF where the clamp changes it (R134). -/
def int32Sum (isat : Bool) (x : Int) : Dword × Fl :=
  if isat then
    if x < -(2 ^ 31) then (BitVec.ofInt 64 (-(2 ^ 31)), { Fl.none with of_ := true })
    else if 2 ^ 31 - 1 < x then (BitVec.ofInt 64 (2 ^ 31 - 1), { Fl.none with of_ := true })
    else (BitVec.ofInt 64 x, Fl.none)
  else (BitVec.ofInt 64 (sint (uint x 32) 32), Fl.none)

end Sys2Proof.Machine
end

