-- ==== Sys2Proof/WellFormed.lean ====
section
/-!
DEFINITION. Which terms of `Instr` stand for something of the device: the operand ranges of R36 to R54 for a word,
and for a step without a word the agents that exist (R26, R57, R272, R294).
-/

namespace Sys2Proof

/-- Slots of the device: four of each core (R2, R26). -/
def numSlots : Nat := 655360

/-- Cores of the device (R26). -/
def numCores : Nat := 163840

/-- Facets of the device (R26). -/
def numFacets : Nat := 2560

/-- Prisms of the device (R26). -/
def numPrisms : Nat := 8

/-- Context identities (R294). -/
def numContexts : Nat := 512

/-- Launch queues (R272). -/
def numQueues : Nat := 64

/-- Region descriptors (R79). -/
def numRegions : Nat := 4096

/-- Ports of the I/O die (R25, R314). -/
def numPorts : Nat := 96

/-- The other devices of the fabric that a boot names: the system's devices and the adapters (R314, R319, R320). -/
def Boot.others (b : Boot) : List Nat := b.peers ++ b.admission.map (·.1) ++ b.routes.map (·.1)

/-- What the firmware may set while it boots: an identity of 1 to 4,095 that no other device has, 0 where the device is
alone, and routes over the ports that exist (R314, R315). -/
def Boot.ok (b : Boot) : Bool :=
  b.others.all (fun d => 1 ≤ d && d < 4096 && d ≠ b.identity)
    && (if b.others.isEmpty then b.identity = 0 else 1 ≤ b.identity && b.identity < 4096)
    && b.routes.all (·.2.all (· < numPorts))

/-- Where R14 lets the loader place a section: code in the low 16 GiB of the code window, data at a 64 KiB-aligned base in
the data window (R14, R66). -/
def sectionOk (va n : Nat) : Bool := (va % 4 = 0 && va + n ≤ 2 ^ 34) || (va % 65536 = 0 && 2 ^ 40 ≤ va && va + n ≤ 2 ^ 56)

/-- A runtime image within the limits of R14. -/
def Image.ok (x : Image) : Bool :=
  x.sections.all (fun y => sectionOk y.1 y.2.length) && x.handlers.all (·.1 < 65536) && decide (x.handlers.map (·.1)).Nodup
    && x.launches.all fun l => l.1 < numQueues && l.2.length ≤ 8 && (l.2.getD 0 0).toNat < 65536

/-- The float formats of R46. -/
def Fmt.isFloat : Fmt → Bool
  | .f16 | .f32 => true
  | .i8 | .i32 => false

/-- Lanes of a format (R46). -/
def Fmt.lanes : Fmt → Nat
  | .i8 => 32
  | .i32 => 8
  | .f16 => 16
  | .f32 => 8

/-- Lane width in bits (R46). -/
def Fmt.width : Fmt → Nat
  | .i8 => 8
  | .i32 => 32
  | .f16 => 16
  | .f32 => 32

/-- The formats that R48 allows with a condition. -/
def Cond.allows : Cond → Fmt → Bool
  | .eq, _ | .ne, _ | .lt, _ | .le, _ | .gt, _ | .ge, _ => true
  | .ltz, f | .lez, f | .gtz, f | .gez, f => !f.isFloat
  | .un, f => f.isFloat

/-- The patterns of VPERM that R166 assigns for a format. -/
def permAssigned (n : Nat) (f : Fmt) : Bool :=
  n ≤ 11 && (n < 2 || 6 < n || decide (2 ^ (n - 2) < f.lanes))

/-- The numbers of the named control registers (R61). -/
def ctlNumbers : List Nat :=
  [0x0, 0x1, 0x2, 0x3, 0x4, 0x10, 0x20, 0x21, 0x22, 0x23, 0x30, 0x31]

/-- An order and scope of an atomic that R45 and R234 allow. -/
def amoOrder (c : Scope) (o : Order) : Bool := o ≠ .rlx || c == .core

/-- A token field: s1 to s31 (R36). -/
def tokenField (d : Reg) : Bool := d.toNat ≠ 0

/-- A register pair field of R53: 1 to 30. -/
def pairField (b : Reg) : Bool := 1 ≤ b.toNat && b.toNat ≤ 30

/-- The instruction words, rows 1 to 142 of the opcode table, against the steps without an encoding. -/
def Instr.isWord : Instr → Bool
  | .cpy _ | .cpyg _ | .cpys _ | .cpyf _ | .stga _ | .delivery _ _ _ _ | .tlw _ | .trel _ | .tmm _ | .tmmb _
  | .tacz _ | .tacs _ | .tdot _ | .sseed _ | .sgen _ | .sand _ | .sor _ | .smux _ | .snot _ | .sreg _ | .scnt _
  | .indexCreate _ _ | .indexDelete _ _ | .indexStatus _ _ | .insert _ _ | .acceptance _ _ | .ixoPush _ _
  | .perform _ _ | .walk _ | .walkResult _ _ | .xinv _ | .invalidationDone | .regionLen _ _ _ | .claimed _ _ _
  | .cancel _ _ _ | .retcfg _ _ | .idleCountExpiry _ _ | .enteringEnd _ _ | .exitingEnd _ _ | .patrolScrub _
  | .rel _ _ | .lqctl _ _ | .launch _ | .launchForward _ | .messageArrival _ | .dispatch _ | .stealRequest _
  | .steal _ | .stealReply _ | .stealWaitExpiry _ | .keyRequest _ | .keyRelease _ | .joinArrival _ | .increment _
  | .trapEntry _ | .preempt _ | .kill _ | .free _ | .sliceExpiry _ | .switchOut _ | .placement _ | .unreachable _
  | .adapterBulk _ _ _ _ _ _ | .reset _ | .railFault | .throttle | .trip | .session _ _ _
  | .mgmtControlAccess _ _ _ | .mgmtHbmAccess _ _ _ _ | .attestation _ | .imageLoad _ _ | .svnRaise _
  | .keySlotLoad _ | .keySlotReplace _ | .registerWrite _ _ | .illegalWord _ | .codepubRequest _
  | .routeWrite _ _ | .throttleEnd => false
  | _ => true

/-- Slot `u` exists. -/
def slotOk (u : Nat) : Bool := u < numSlots

/-- Core `g` exists. -/
def coreOk (g : Nat) : Bool := g < numCores

/-- Facet `f` exists. -/
def facetOk (f : Nat) : Bool := f < numFacets

/-- Context `c` exists. -/
def ctxOk (c : Nat) : Bool := c < numContexts

/-- What R36 to R54 ask of the operands of a word, and which agents a step may name. -/
def Instr.wf : Instr → Bool
  -- one-operand narrowings of words
  | .codepub d _ _ => tokenField d
  | .ctlr _ _ | .ctlw _ _ => true
  | .ctlrSpace _ a _ | .ctlwSpace _ a _ => a.toNat ≠ 0
  | .amoAdd _ _ _ c o _ | .amoAnd _ _ _ c o _ | .amoOr _ _ _ c o _ | .amoXor _ _ _ c o _ | .amoMin _ _ _ c o _
  | .amoMax _ _ _ c o _ | .amoMinZ _ _ _ c o _ | .amoMaxZ _ _ _ c o _ | .amoXchg _ _ _ c o _
  | .amoCas _ _ _ c o _ | .amoFaddF32 _ _ _ c o | .amoXadd _ _ _ c o => amoOrder c o
  | .fence k _ => k.toNat ≠ 0
  | .vfma _ _ _ _ f | .vexp2 _ _ _ f | .vlog2 _ _ _ f | .vrcp _ _ _ f | .vrsq _ _ _ f => f.isFloat
  | .vand _ _ _ _ f | .vor _ _ _ _ f | .vxor _ _ _ _ f | .vsll _ _ _ _ f | .vsrl _ _ _ _ f
  | .vsra _ _ _ _ f => !f.isFloat
  | .vdot _ _ _ _ f => f ≠ .i32
  | .vcmp d _ _ _ f c => 1 ≤ d.toNat && d.toNat ≤ 7 && c.allows f
  | .vcvt _ _ _ s t => s ≠ t
  | .vperm _ _ n _ f => permAssigned n.toNat f
  | .vgth _ _ _ _ f | .vsct _ _ _ _ f => f ≠ .i8
  | .enq a q => 1 ≤ a.toNat && a.toNat ≤ 28 && q.toNat ≤ 2
  | .deq d q => (q.toNat == 4 && pairField d) || (q.toNat == 5 && tokenField d)
  | .wtok a | .tokq _ a => tokenField a
  | .mvm d _ => d.toNat ≤ 7
  | .ixnew d _ | .ixdel d _ | .ixstat d _ => tokenField d
  | .stv d _ b | .ldn d _ b => tokenField d && pairField b
  -- agents that steps name
  | .cpy u | .cpyg u | .cpys u | .cpyf u | .stga u | .delivery u _ _ _ | .tlw u | .trel u | .tmm u | .tmmb u
  | .tacz u | .tacs u | .tdot u | .sseed u | .sgen u | .sand u | .sor u | .smux u | .snot u | .sreg u | .scnt u
  | .indexCreate u _ | .indexDelete u _ | .indexStatus u _ | .insert u _ | .acceptance u _ | .ixoPush u _
  | .perform u _ | .trapEntry u => slotOk u
  | .dispatch g | .stealRequest g | .steal g | .stealReply g | .stealWaitExpiry g => coreOk g
  | .cancel f b _ => facetOk f && b < 32
  | .retcfg f _ | .rel f _ => facetOk f
  | .idleCountExpiry f m | .enteringEnd f m | .exitingEnd f m => facetOk f && m < 16
  | .walk w | .walkResult w _ => w < numPrisms
  | .regionLen c n _ | .claimed c n _ => c.all ctxOk && n < numRegions
  | .lqctl q _ | .launchForward q => q < numQueues
  | .imageLoad c x => ctxOk c && x.ok
  | .reset b => b.ok
  | .preempt c | .kill c | .free c | .sliceExpiry c | .switchOut c | .placement c | .keySlotLoad c | .keySlotReplace c => ctxOk c
  | .patrolScrub k => k < 2 ^ 33
  | .svnRaise v => v < 256
  | .unreachable d | .adapterBulk d _ _ _ _ _ => d < 4096
  | .routeWrite d l => d < 4096 && l.all (· < numPorts)
  | _ => true

end Sys2Proof
end

