-- ==== Sys2Proof/Decode.lean ====
section
/-!
DEFINITION. The decoder of instruction words (R34 to R54), total on any bytes and rejecting by name what R38 makes
ILLEGAL, and after it the encoder, written from the same maps.
-/

namespace Sys2Proof

/-- Why a word is ILLEGAL (R38). -/
inductive Reject where
  /-- Fewer than four bytes. -/
  | truncated
  /-- A reserved major opcode (R40). -/
  | reservedMajor
  /-- A function value that the major's map does not assign. -/
  | unassigned
  /-- A field that the map entry does not use is not zero (R37). -/
  | fieldNotZero
  /-- A field outside the range of R36 or of its map entry, or a format that the map marks with a dash. -/
  | fieldRange
deriving DecidableEq, Repr

/-- Bits [31:26]: the major opcode (R35). -/
def fMajor (w : Word) : BitVec 6 := w.extractLsb' 26 6
/-- Bits [25:21]: d, or a of format B. -/
def fD (w : Word) : Reg := w.extractLsb' 21 5
/-- Bits [20:16]: a, or b of format B. -/
def fA (w : Word) : Reg := w.extractLsb' 16 5
/-- Bits [15:11]: b, or the queue of format E. -/
def fB (w : Word) : Reg := w.extractLsb' 11 5
/-- Bits [10:0]: the function of formats A and E. -/
def fFn (w : Word) : BitVec 11 := w.extractLsb' 0 11
/-- Bits [15:0]: the immediate or offset of formats I, M and B. -/
def fImm (w : Word) : BitVec 16 := w.extractLsb' 0 16
/-- Bits [20:0]: the offset of format J. -/
def fOff21 (w : Word) : BitVec 21 := w.extractLsb' 0 21
/-- Bits [10:8]: p of format V, and the scope of an atomic (R45). -/
def fP (w : Word) : PReg := w.extractLsb' 8 3
/-- Bits [7:6]: the element format (R46), and the order of an atomic (R45). -/
def fHi2 (w : Word) : BitVec 2 := w.extractLsb' 6 2
/-- Bits [5:0]: the operation of a vector word (R46), and a shift amount (R40). -/
def fLo6 (w : Word) : BitVec 6 := w.extractLsb' 0 6
/-- Bits [15:6]: the kind of a shift immediate above the two bits that must be zero (R40). -/
def fKind (w : Word) : BitVec 10 := w.extractLsb' 6 10
/-- Bits [10:8] of the function of a fence (R44) or control word. -/
def fFn3 (w : Word) : BitVec 3 := w.extractLsb' 8 3
/-- Bits [7:0]. -/
def fLo8 (w : Word) : BitVec 8 := w.extractLsb' 0 8
/-- Bits [7:4]: the kind mask of a fence (R44). -/
def fNib1 (w : Word) : BitVec 4 := w.extractLsb' 4 4
/-- Bits [3:0]: the operation of an atomic (R45). -/
def fNib0 (w : Word) : BitVec 4 := w.extractLsb' 0 4
/-- Bits [5:4]: the size of an atomic (R45). -/
def fSize (w : Word) : BitVec 2 := w.extractLsb' 4 2
/-- Bits [5:3]: the source format of VCVT (R49). -/
def fSrc (w : Word) : BitVec 3 := w.extractLsb' 3 3
/-- Bits [2:0]: the destination format of VCVT (R49). -/
def fDst (w : Word) : BitVec 3 := w.extractLsb' 0 3

/-- The code of an element format (R46). -/
def Fmt.code : Fmt → BitVec 2
  | .i8 => 0 | .i32 => 1 | .f16 => 2 | .f32 => 3

/-- The element format of a code (R46). -/
def fmtOf (c : BitVec 2) : Fmt :=
  match c.toNat with
  | 0 => .i8 | 1 => .i32 | 2 => .f16 | _ => .f32

/-- The code of a number format (R49). -/
def NFmt.code : NFmt → BitVec 3
  | .int8 => 0 | .int32 => 1 | .f16 => 2 | .f32 => 3 | .cone8 => 4 | .cone6 => 5

/-- The number format of a code (R49); 6 and 7 are unassigned. -/
def nfmtOf (c : BitVec 3) : Option NFmt :=
  match c.toNat with
  | 0 => some .int8 | 1 => some .int32 | 2 => some .f16 | 3 => some .f32 | 4 => some .cone8 | 5 => some .cone6
  | _ => none

/-- The code of a condition (R48). -/
def Cond.code : Cond → BitVec 6
  | .eq => 0 | .ne => 1 | .lt => 2 | .le => 3 | .gt => 4 | .ge => 5
  | .ltz => 6 | .lez => 7 | .gtz => 8 | .gez => 9 | .un => 10

/-- The condition of a code (R48). -/
def condOf (c : BitVec 6) : Option Cond :=
  match c.toNat with
  | 0 => some .eq | 1 => some .ne | 2 => some .lt | 3 => some .le | 4 => some .gt | 5 => some .ge
  | 6 => some .ltz | 7 => some .lez | 8 => some .gtz | 9 => some .gez | 10 => some .un
  | _ => none

/-- The code of a scope (R19). -/
def Scope.code : Scope → BitVec 3
  | .core => 0 | .facet => 1 | .prism => 2 | .dev => 3 | .sys => 4

/-- The scope of a code (R19); 5 to 7 are unassigned. -/
def scopeOf (c : BitVec 3) : Option Scope :=
  match c.toNat with
  | 0 => some .core | 1 => some .facet | 2 => some .prism | 3 => some .dev | 4 => some .sys
  | _ => none

/-- The code of an order (R45). -/
def Order.code : Order → BitVec 2
  | .rlx => 0 | .acq => 1 | .rel => 2 | .ar => 3

/-- The order of a code (R45). -/
def orderOf (c : BitVec 2) : Order :=
  match c.toNat with
  | 0 => .rlx | 1 => .acq | 2 => .rel | _ => .ar

/-- The code of a size (R45). -/
def ASize.code : ASize → BitVec 2
  | .w => 0 | .d => 1

/-- A map entry whose unused fields are zero, else the rejection of R37. -/
def unused (z : Bool) (i : Instr) : Except Reject Instr := if z then .ok i else .error .fieldNotZero

/-- A map entry whose operands are in range, else the rejection of R38. -/
def inRange (i : Instr) : Except Reject Instr := if i.wf then .ok i else .error .fieldRange

/-- As `inRange`, for an entry with unused fields. -/
def unusedInRange (z : Bool) (i : Instr) : Except Reject Instr :=
  if z then inRange i else .error .fieldNotZero

/-- Major 0x01 (R41). -/
def decodeAlu (w : Word) : Except Reject Instr :=
  match (fFn w).toNat with
  | 0x000 => .ok (.add (fD w) (fA w) (fB w))
  | 0x001 => .ok (.sub (fD w) (fA w) (fB w))
  | 0x002 => .ok (.and (fD w) (fA w) (fB w))
  | 0x003 => .ok (.or (fD w) (fA w) (fB w))
  | 0x004 => .ok (.xor (fD w) (fA w) (fB w))
  | 0x005 => .ok (.andn (fD w) (fA w) (fB w))
  | 0x008 => .ok (.sll (fD w) (fA w) (fB w))
  | 0x009 => .ok (.srl (fD w) (fA w) (fB w))
  | 0x00A => .ok (.sra (fD w) (fA w) (fB w))
  | 0x010 => .ok (.slt (fD w) (fA w) (fB w))
  | 0x011 => .ok (.sltZ (fD w) (fA w) (fB w))
  | 0x012 => .ok (.seq (fD w) (fA w) (fB w))
  | 0x018 => .ok (.min (fD w) (fA w) (fB w))
  | 0x019 => .ok (.max (fD w) (fA w) (fB w))
  | 0x01A => .ok (.minZ (fD w) (fA w) (fB w))
  | 0x01B => .ok (.maxZ (fD w) (fA w) (fB w))
  | 0x020 => .ok (.mul (fD w) (fA w) (fB w))
  | 0x021 => .ok (.mulh (fD w) (fA w) (fB w))
  | 0x022 => .ok (.mulhZ (fD w) (fA w) (fB w))
  | 0x028 => .ok (.div (fD w) (fA w) (fB w))
  | 0x029 => .ok (.divZ (fD w) (fA w) (fB w))
  | 0x02A => .ok (.rem (fD w) (fA w) (fB w))
  | 0x02B => .ok (.remZ (fD w) (fA w) (fB w))
  | 0x030 => unused (fB w == 0) (.clz (fD w) (fA w))
  | 0x031 => unused (fB w == 0) (.popc (fD w) (fA w))
  | _ => .error .unassigned

/-- Major 0x0A (R40). -/
def decodeShift (w : Word) : Except Reject Instr :=
  match (fKind w).toNat with
  | 0 => .ok (.sllImm (fD w) (fA w) (fLo6 w))
  | 4 => .ok (.srlImm (fD w) (fA w) (fLo6 w))
  | 8 => .ok (.sraImm (fD w) (fA w) (fLo6 w))
  | 1 | 2 | 3 | 5 | 6 | 7 | 9 | 10 | 11 => .error .fieldNotZero
  | _ => .error .unassigned

/-- Major 0x13 (R42). -/
def decodeCtl (w : Word) : Except Reject Instr :=
  if fFn3 w == 1 then unused (fD w == 0 && fA w == 0 && fB w == 0) (.trap (fLo8 w))
  else match (fFn w).toNat with
    | 0x000 => unused (fD w == 0 && fA w == 0 && fB w == 0) (.nop)
    | 0x001 => unused (fD w == 0 && fA w == 0 && fB w == 0) (.endTask)
    | 0x002 => unused (fD w == 0 && fA w == 0 && fB w == 0) (.eret)
    | 0x003 => unused (fD w == 0 && fA w == 0 && fB w == 0) (.ifence)
    | 0x004 => unused (fD w == 0 && fA w == 0 && fB w == 0) (.waiti)
    | 0x005 => inRange (.codepub (fD w) (fA w) (fB w))
    | _ => .error .unassigned

/-- Major 0x26 (R43). -/
def decodeMemx (w : Word) : Except Reject Instr :=
  match (fFn w).toNat with
  | 0x000 => unused (fB w == 0) (.ldaW (fD w) (fA w))
  | 0x001 => unused (fB w == 0) (.ldaD (fD w) (fA w))
  | 0x002 => unused (fB w == 0) (.stlW (fD w) (fA w))
  | 0x003 => unused (fB w == 0) (.stlD (fD w) (fA w))
  | 0x004 => .ok (.vldsH (fD w) (fA w) (fB w))
  | 0x005 => .ok (.vldsW (fD w) (fA w) (fB w))
  | 0x008 => unused (fB w == 0) (.tagl (fD w) (fA w))
  | 0x009 => unused (fD w == 0) (.tags (fA w) (fB w))
  | 0x00A => unused (fD w == 0 && fB w == 0) (.tagi (fA w))
  | 0x00C => unused (fD w == 0 && fB w == 0) (.retx (fA w))
  | _ => .error .unassigned

/-- Major 0x27 (R45, R234). -/
def decodeAmo (w : Word) : Except Reject Instr :=
  match scopeOf (fP w) with
  | none => .error .unassigned
  | some c =>
    match (fSize w).toNat, (fNib0 w).toNat with
    | 0, 0 => inRange (.amoAdd (fD w) (fA w) (fB w) c (orderOf (fHi2 w)) .w)
    | 0, 1 => inRange (.amoAnd (fD w) (fA w) (fB w) c (orderOf (fHi2 w)) .w)
    | 0, 2 => inRange (.amoOr (fD w) (fA w) (fB w) c (orderOf (fHi2 w)) .w)
    | 0, 3 => inRange (.amoXor (fD w) (fA w) (fB w) c (orderOf (fHi2 w)) .w)
    | 0, 4 => inRange (.amoMin (fD w) (fA w) (fB w) c (orderOf (fHi2 w)) .w)
    | 0, 5 => inRange (.amoMax (fD w) (fA w) (fB w) c (orderOf (fHi2 w)) .w)
    | 0, 6 => inRange (.amoMinZ (fD w) (fA w) (fB w) c (orderOf (fHi2 w)) .w)
    | 0, 7 => inRange (.amoMaxZ (fD w) (fA w) (fB w) c (orderOf (fHi2 w)) .w)
    | 0, 8 => inRange (.amoXchg (fD w) (fA w) (fB w) c (orderOf (fHi2 w)) .w)
    | 0, 9 => inRange (.amoCas (fD w) (fA w) (fB w) c (orderOf (fHi2 w)) .w)
    | 1, 0 => inRange (.amoAdd (fD w) (fA w) (fB w) c (orderOf (fHi2 w)) .d)
    | 1, 1 => inRange (.amoAnd (fD w) (fA w) (fB w) c (orderOf (fHi2 w)) .d)
    | 1, 2 => inRange (.amoOr (fD w) (fA w) (fB w) c (orderOf (fHi2 w)) .d)
    | 1, 3 => inRange (.amoXor (fD w) (fA w) (fB w) c (orderOf (fHi2 w)) .d)
    | 1, 4 => inRange (.amoMin (fD w) (fA w) (fB w) c (orderOf (fHi2 w)) .d)
    | 1, 5 => inRange (.amoMax (fD w) (fA w) (fB w) c (orderOf (fHi2 w)) .d)
    | 1, 6 => inRange (.amoMinZ (fD w) (fA w) (fB w) c (orderOf (fHi2 w)) .d)
    | 1, 7 => inRange (.amoMaxZ (fD w) (fA w) (fB w) c (orderOf (fHi2 w)) .d)
    | 1, 8 => inRange (.amoXchg (fD w) (fA w) (fB w) c (orderOf (fHi2 w)) .d)
    | 1, 9 => inRange (.amoCas (fD w) (fA w) (fB w) c (orderOf (fHi2 w)) .d)
    | 0, 10 => inRange (.amoFaddF32 (fD w) (fA w) (fB w) c (orderOf (fHi2 w)))
    | 2, 11 => inRange (.amoXadd (fD w) (fA w) (fB w) c (orderOf (fHi2 w)))
    | _, _ => .error .unassigned

/-- Major 0x28 (R44, R230). -/
def decodeOrd (w : Word) : Except Reject Instr :=
  if fFn w == 0x100 then unused (fD w == 0 && fA w == 0 && fB w == 0) .fenceX
  else if fFn3 w == 0 && bit (fFn w).toNat 3 == false then
    match scopeOf (fDst w) with
    | none => .error .unassigned
    | some s => unusedInRange (fD w == 0 && fA w == 0 && fB w == 0) (.fence (fNib1 w) s)
  else .error .unassigned

/-- Major 0x30 (R47). -/
def decodeVarith (w : Word) : Except Reject Instr :=
  match (fLo6 w).toNat with
  | 0x00 => inRange (.vadd (fD w) (fA w) (fB w) (fP w) (fmtOf (fHi2 w)))
  | 0x01 => inRange (.vsub (fD w) (fA w) (fB w) (fP w) (fmtOf (fHi2 w)))
  | 0x02 => inRange (.vmul (fD w) (fA w) (fB w) (fP w) (fmtOf (fHi2 w)))
  | 0x03 => inRange (.vfma (fD w) (fA w) (fB w) (fP w) (fmtOf (fHi2 w)))
  | 0x04 => inRange (.vmin (fD w) (fA w) (fB w) (fP w) (fmtOf (fHi2 w)))
  | 0x05 => inRange (.vmax (fD w) (fA w) (fB w) (fP w) (fmtOf (fHi2 w)))
  | 0x06 => unusedInRange (fB w == 0) (.vabs (fD w) (fA w) (fP w) (fmtOf (fHi2 w)))
  | 0x07 => unusedInRange (fB w == 0) (.vneg (fD w) (fA w) (fP w) (fmtOf (fHi2 w)))
  | 0x08 => inRange (.vand (fD w) (fA w) (fB w) (fP w) (fmtOf (fHi2 w)))
  | 0x09 => inRange (.vor (fD w) (fA w) (fB w) (fP w) (fmtOf (fHi2 w)))
  | 0x0A => inRange (.vxor (fD w) (fA w) (fB w) (fP w) (fmtOf (fHi2 w)))
  | 0x0B => inRange (.vsll (fD w) (fA w) (fB w) (fP w) (fmtOf (fHi2 w)))
  | 0x0C => inRange (.vsrl (fD w) (fA w) (fB w) (fP w) (fmtOf (fHi2 w)))
  | 0x0D => inRange (.vsra (fD w) (fA w) (fB w) (fP w) (fmtOf (fHi2 w)))
  | 0x0E => inRange (.vsel (fD w) (fA w) (fB w) (fP w) (fmtOf (fHi2 w)))
  | 0x10 => unusedInRange (fB w == 0) (.vexp2 (fD w) (fA w) (fP w) (fmtOf (fHi2 w)))
  | 0x11 => unusedInRange (fB w == 0) (.vlog2 (fD w) (fA w) (fP w) (fmtOf (fHi2 w)))
  | 0x12 => unusedInRange (fB w == 0) (.vrcp (fD w) (fA w) (fP w) (fmtOf (fHi2 w)))
  | 0x13 => unusedInRange (fB w == 0) (.vrsq (fD w) (fA w) (fP w) (fmtOf (fHi2 w)))
  | 0x14 => unusedInRange (fB w == 0) (.vbc (fD w) (fA w) (fP w) (fmtOf (fHi2 w)))
  | 0x15 => unusedInRange (fB w == 0) (.vredAdd (fD w) (fA w) (fP w) (fmtOf (fHi2 w)))
  | 0x16 => unusedInRange (fB w == 0) (.vredMin (fD w) (fA w) (fP w) (fmtOf (fHi2 w)))
  | 0x17 => unusedInRange (fB w == 0) (.vredMax (fD w) (fA w) (fP w) (fmtOf (fHi2 w)))
  | 0x18 => inRange (.vdot (fD w) (fA w) (fB w) (fP w) (fmtOf (fHi2 w)))
  | 0x19 => if fHi2 w == 0 then .ok (.vsqd (fD w) (fA w) (fB w) (fP w)) else .error .fieldRange
  | _ => .error .unassigned

/-- Major 0x31 (R48). -/
def decodeVcmp (w : Word) : Except Reject Instr :=
  match condOf (fLo6 w) with
  | none => .error .unassigned
  | some c => inRange (.vcmp (fD w) (fA w) (fB w) (fP w) (fmtOf (fHi2 w)) c)

/-- Major 0x32 (R49). -/
def decodeVcvt (w : Word) : Except Reject Instr :=
  match nfmtOf (fSrc w), nfmtOf (fDst w) with
  | some s, some t => unusedInRange (fHi2 w == 0 && fB w == 0) (.vcvt (fD w) (fA w) (fP w) s t)
  | _, _ => .error .unassigned

/-- Major 0x33 (R50). -/
def decodeVlane (w : Word) : Except Reject Instr :=
  match (fLo6 w).toNat with
  | 0x00 => .ok (.vxl (fD w) (fA w) (fB w) (fP w) (fmtOf (fHi2 w)))
  | 0x01 => inRange (.vperm (fD w) (fA w) (fB w) (fP w) (fmtOf (fHi2 w)))
  | 0x02 => .ok (.vnzs (fD w) (fA w) (fB w) (fP w) (fmtOf (fHi2 w)))
  | _ => .error .unassigned

/-- Major 0x34 (R50). -/
def decodeVmsg (w : Word) : Except Reject Instr :=
  match (fLo6 w).toNat with
  | 0x00 => inRange (.vgth (fD w) (fA w) (fB w) (fP w) (fmtOf (fHi2 w)))
  | 0x01 => inRange (.vsct (fD w) (fA w) (fB w) (fP w) (fmtOf (fHi2 w)))
  | _ => .error .unassigned

/-- Major 0x38 (R51). -/
def decodeEng (w : Word) : Except Reject Instr :=
  match (fFn w).toNat with
  | 0x000 => unusedInRange (fD w == 0) (.enq (fA w) (fB w))
  | 0x001 => unusedInRange (fA w == 0) (.deq (fD w) (fB w))
  | 0x002 => unusedInRange (fD w == 0 && fB w == 0) (.wtok (fA w))
  | 0x003 => unusedInRange (fB w == 0) (.tokq (fD w) (fA w))
  | _ => .error .unassigned

/-- Major 0x39 (R52). -/
def decodeMsg (w : Word) : Except Reject Instr :=
  match (fFn w).toNat with
  | 0x000 => unusedInRange (fB w == 0) (.mvm (fD w) (fA w))
  | 0x001 => unused (fB w == 0) (.send (fD w) (fA w))
  | 0x002 => unused (fB w == 0) (.sendh (fD w) (fA w))
  | 0x003 => unused (fA w == 0 && fB w == 0) (.spawn (fD w))
  | 0x004 => unused (fD w == 0) (.jinit (fA w) (fB w))
  | 0x005 => unused (fD w == 0 && fB w == 0) (.arrive (fA w))
  | 0x006 => unused (fD w == 0 && fB w == 0) (.arriveRlx (fA w))
  | _ => .error .unassigned

/-- Major 0x3C (R53). -/
def decodeIx (w : Word) : Except Reject Instr :=
  match (fFn w).toNat with
  | 0x000 => unusedInRange (fB w == 0) (.ixnew (fD w) (fA w))
  | 0x001 => unusedInRange (fB w == 0) (.ixdel (fD w) (fA w))
  | 0x002 => inRange (.stv (fD w) (fA w) (fB w))
  | 0x003 => inRange (.ldn (fD w) (fA w) (fB w))
  | 0x004 => unusedInRange (fB w == 0) (.ixstat (fD w) (fA w))
  | _ => .error .unassigned

/-- The instruction of a word (R35 to R54), or why it is ILLEGAL (R38). A CTLR or CTLW of an unassigned register number decodes:
its meaning takes ILLEGAL, after the checks that R288 puts first. -/
def decodeWord (w : Word) : Except Reject Instr :=
  match (fMajor w).toNat with
  | 0x01 => decodeAlu w
  | 0x02 => .ok (.addImm (fD w) (fA w) (fImm w))
  | 0x03 => .ok (.andImm (fD w) (fA w) (fImm w))
  | 0x04 => .ok (.orImm (fD w) (fA w) (fImm w))
  | 0x05 => .ok (.xorImm (fD w) (fA w) (fImm w))
  | 0x06 => .ok (.sltImm (fD w) (fA w) (fImm w))
  | 0x07 => .ok (.sltZImm (fD w) (fA w) (fImm w))
  | 0x08 => unused (fA w == 0) (.li (fD w) (fImm w))
  | 0x09 => .ok (.lsi (fD w) (fA w) (fImm w))
  | 0x0A => decodeShift w
  | 0x0B => .ok (.jal (fD w) (fOff21 w))
  | 0x0C => .ok (.jalr (fD w) (fA w) (fImm w))
  | 0x0D => .ok (.beq (fD w) (fA w) (fImm w))
  | 0x0E => .ok (.bne (fD w) (fA w) (fImm w))
  | 0x0F => .ok (.blt (fD w) (fA w) (fImm w))
  | 0x10 => .ok (.bge (fD w) (fA w) (fImm w))
  | 0x11 => .ok (.bltZ (fD w) (fA w) (fImm w))
  | 0x12 => .ok (.bgeZ (fD w) (fA w) (fImm w))
  | 0x13 => decodeCtl w
  | 0x18 => .ok (.ldB (fD w) (fA w) (fImm w))
  | 0x19 => .ok (.ldH (fD w) (fA w) (fImm w))
  | 0x1A => .ok (.ldW (fD w) (fA w) (fImm w))
  | 0x1B => .ok (.ldD (fD w) (fA w) (fImm w))
  | 0x1C => .ok (.ldBz (fD w) (fA w) (fImm w))
  | 0x1D => .ok (.ldHz (fD w) (fA w) (fImm w))
  | 0x1E => .ok (.ldWz (fD w) (fA w) (fImm w))
  | 0x20 => .ok (.stB (fD w) (fA w) (fImm w))
  | 0x21 => .ok (.stH (fD w) (fA w) (fImm w))
  | 0x22 => .ok (.stW (fD w) (fA w) (fImm w))
  | 0x23 => .ok (.stD (fD w) (fA w) (fImm w))
  | 0x24 => .ok (.vld (fD w) (fA w) (fImm w))
  | 0x25 => .ok (.vst (fD w) (fA w) (fImm w))
  | 0x26 => decodeMemx w
  | 0x27 => decodeAmo w
  | 0x28 => decodeOrd w
  | 0x30 => decodeVarith w
  | 0x31 => decodeVcmp w
  | 0x32 => decodeVcvt w
  | 0x33 => decodeVlane w
  | 0x34 => decodeVmsg w
  | 0x38 => decodeEng w
  | 0x39 => decodeMsg w
  | 0x3A => unused (fD w == 0) (.susp (fOff21 w))
  | 0x3B => unused (fA w == 0) (.migr (fD w) (fImm w))
  | 0x3C => decodeIx w
  | 0x3D => if fA w == 0 then .ok (.ctlr (fD w) (fImm w)) else .ok (.ctlrSpace (fD w) (fA w) (fImm w))
  | 0x3E => if fA w == 0 then .ok (.ctlw (fD w) (fImm w)) else .ok (.ctlwSpace (fD w) (fA w) (fImm w))
  | _ => .error .reservedMajor

/-- Decoding a sequence of bytes: the first four are the word, little-endian (R34, R6); the rest is given back. -/
def decode : List Byte → Except Reject (Instr × List Byte)
  | b0 :: b1 :: b2 :: b3 :: t =>
    match decodeWord (b3 ++ b2 ++ b1 ++ b0) with
    | .ok i => .ok (i, t)
    | .error r => .error r
  | _ => .error .truncated

/-- Format A and, with a queue in place of b, format E (R35). -/
def packA (m : BitVec 6) (d a b : Reg) (f : BitVec 11) : Word := m ++ d ++ a ++ b ++ f
/-- Formats I and M and, with its registers named a and b, format B (R35). -/
def packI (m : BitVec 6) (d a : Reg) (i : BitVec 16) : Word := m ++ d ++ a ++ i
/-- Format J (R35). -/
def packJ (m : BitVec 6) (d : Reg) (o : BitVec 21) : Word := m ++ d ++ o
/-- Format V with the function split into the element format and the operation (R46). -/
def packV (m : BitVec 6) (d a b : Reg) (p : PReg) (f : BitVec 2) (op : BitVec 6) : Word :=
  m ++ d ++ a ++ b ++ p ++ f ++ op
/-- An atomic (R45). -/
def packAmo (d a b : Reg) (c : Scope) (o : Order) (z : BitVec 2) (op : BitVec 4) : Word :=
  (0x27 : BitVec 6) ++ d ++ a ++ b ++ c.code ++ o.code ++ z ++ op

/-- The word of an instruction, from the encoding tables of R41 to R54; for a step that has no encoding, 0. -/
def encode : Instr → Word
  | .add d a b => packA 0x01 d a b 0x000
  | .sub d a b => packA 0x01 d a b 0x001
  | .and d a b => packA 0x01 d a b 0x002
  | .or d a b => packA 0x01 d a b 0x003
  | .xor d a b => packA 0x01 d a b 0x004
  | .andn d a b => packA 0x01 d a b 0x005
  | .sll d a b => packA 0x01 d a b 0x008
  | .srl d a b => packA 0x01 d a b 0x009
  | .sra d a b => packA 0x01 d a b 0x00A
  | .slt d a b => packA 0x01 d a b 0x010
  | .sltZ d a b => packA 0x01 d a b 0x011
  | .seq d a b => packA 0x01 d a b 0x012
  | .min d a b => packA 0x01 d a b 0x018
  | .max d a b => packA 0x01 d a b 0x019
  | .minZ d a b => packA 0x01 d a b 0x01A
  | .maxZ d a b => packA 0x01 d a b 0x01B
  | .mul d a b => packA 0x01 d a b 0x020
  | .mulh d a b => packA 0x01 d a b 0x021
  | .mulhZ d a b => packA 0x01 d a b 0x022
  | .div d a b => packA 0x01 d a b 0x028
  | .divZ d a b => packA 0x01 d a b 0x029
  | .rem d a b => packA 0x01 d a b 0x02A
  | .remZ d a b => packA 0x01 d a b 0x02B
  | .clz d a => packA 0x01 d a 0 0x030
  | .popc d a => packA 0x01 d a 0 0x031
  | .addImm d a i => packI 0x02 d a i
  | .andImm d a i => packI 0x03 d a i
  | .orImm d a i => packI 0x04 d a i
  | .xorImm d a i => packI 0x05 d a i
  | .sltImm d a i => packI 0x06 d a i
  | .sltZImm d a i => packI 0x07 d a i
  | .lsi d a i => packI 0x09 d a i
  | .jalr d a i => packI 0x0C d a i
  | .li d i => packI 0x08 d 0 i
  | .sllImm d a n => (0x0A : BitVec 6) ++ d ++ a ++ (0 : BitVec 8) ++ (0 : BitVec 2) ++ n
  | .srlImm d a n => (0x0A : BitVec 6) ++ d ++ a ++ (1 : BitVec 8) ++ (0 : BitVec 2) ++ n
  | .sraImm d a n => (0x0A : BitVec 6) ++ d ++ a ++ (2 : BitVec 8) ++ (0 : BitVec 2) ++ n
  | .jal d o => packJ 0x0B d o
  | .beq a b o => packI 0x0D a b o
  | .bne a b o => packI 0x0E a b o
  | .blt a b o => packI 0x0F a b o
  | .bge a b o => packI 0x10 a b o
  | .bltZ a b o => packI 0x11 a b o
  | .bgeZ a b o => packI 0x12 a b o
  | .nop => packA 0x13 0 0 0 0x000
  | .endTask => packA 0x13 0 0 0 0x001
  | .eret => packA 0x13 0 0 0 0x002
  | .ifence => packA 0x13 0 0 0 0x003
  | .waiti => packA 0x13 0 0 0 0x004
  | .codepub d a b => packA 0x13 d a b 0x005
  | .trap n => packA 0x13 0 0 0 ((1 : BitVec 3) ++ n)
  | .ldB d a o => packI 0x18 d a o
  | .ldH d a o => packI 0x19 d a o
  | .ldW d a o => packI 0x1A d a o
  | .ldD d a o => packI 0x1B d a o
  | .ldBz d a o => packI 0x1C d a o
  | .ldHz d a o => packI 0x1D d a o
  | .ldWz d a o => packI 0x1E d a o
  | .stB d a o => packI 0x20 d a o
  | .stH d a o => packI 0x21 d a o
  | .stW d a o => packI 0x22 d a o
  | .stD d a o => packI 0x23 d a o
  | .vld d a o => packI 0x24 d a o
  | .vst d a o => packI 0x25 d a o
  | .ldaW d a => packA 0x26 d a 0 0x000
  | .ldaD d a => packA 0x26 d a 0 0x001
  | .stlW d a => packA 0x26 d a 0 0x002
  | .stlD d a => packA 0x26 d a 0 0x003
  | .vldsH d a b => packA 0x26 d a b 0x004
  | .vldsW d a b => packA 0x26 d a b 0x005
  | .tagl d a => packA 0x26 d a 0 0x008
  | .tags a b => packA 0x26 0 a b 0x009
  | .tagi a => packA 0x26 0 a 0 0x00A
  | .retx a => packA 0x26 0 a 0 0x00C
  | .amoAdd d a b c o z => packAmo d a b c o z.code 0
  | .amoAnd d a b c o z => packAmo d a b c o z.code 1
  | .amoOr d a b c o z => packAmo d a b c o z.code 2
  | .amoXor d a b c o z => packAmo d a b c o z.code 3
  | .amoMin d a b c o z => packAmo d a b c o z.code 4
  | .amoMax d a b c o z => packAmo d a b c o z.code 5
  | .amoMinZ d a b c o z => packAmo d a b c o z.code 6
  | .amoMaxZ d a b c o z => packAmo d a b c o z.code 7
  | .amoXchg d a b c o z => packAmo d a b c o z.code 8
  | .amoCas d a b c o z => packAmo d a b c o z.code 9
  | .amoFaddF32 d a b c o => packAmo d a b c o 0 10
  | .amoXadd d a b c o => packAmo d a b c o 2 11
  | .fence k s => packA 0x28 0 0 0 ((0 : BitVec 3) ++ k ++ (0 : BitVec 1) ++ s.code)
  | .fenceX => packA 0x28 0 0 0 0x100
  | .vadd d a b p f => packV 0x30 d a b p f.code 0x00
  | .vsub d a b p f => packV 0x30 d a b p f.code 0x01
  | .vmul d a b p f => packV 0x30 d a b p f.code 0x02
  | .vfma d a b p f => packV 0x30 d a b p f.code 0x03
  | .vmin d a b p f => packV 0x30 d a b p f.code 0x04
  | .vmax d a b p f => packV 0x30 d a b p f.code 0x05
  | .vabs d a p f => packV 0x30 d a 0 p f.code 0x06
  | .vneg d a p f => packV 0x30 d a 0 p f.code 0x07
  | .vand d a b p f => packV 0x30 d a b p f.code 0x08
  | .vor d a b p f => packV 0x30 d a b p f.code 0x09
  | .vxor d a b p f => packV 0x30 d a b p f.code 0x0A
  | .vsll d a b p f => packV 0x30 d a b p f.code 0x0B
  | .vsrl d a b p f => packV 0x30 d a b p f.code 0x0C
  | .vsra d a b p f => packV 0x30 d a b p f.code 0x0D
  | .vsel d a b p f => packV 0x30 d a b p f.code 0x0E
  | .vexp2 d a p f => packV 0x30 d a 0 p f.code 0x10
  | .vlog2 d a p f => packV 0x30 d a 0 p f.code 0x11
  | .vrcp d a p f => packV 0x30 d a 0 p f.code 0x12
  | .vrsq d a p f => packV 0x30 d a 0 p f.code 0x13
  | .vbc d a p f => packV 0x30 d a 0 p f.code 0x14
  | .vredAdd d a p f => packV 0x30 d a 0 p f.code 0x15
  | .vredMin d a p f => packV 0x30 d a 0 p f.code 0x16
  | .vredMax d a p f => packV 0x30 d a 0 p f.code 0x17
  | .vdot d a b p f => packV 0x30 d a b p f.code 0x18
  | .vsqd d a b p => packV 0x30 d a b p 0 0x19
  | .vcmp d a b p f c => packV 0x31 d a b p f.code c.code
  | .vcvt d a p s t => packV 0x32 d a 0 p 0 (s.code ++ t.code)
  | .vxl d a b p f => packV 0x33 d a b p f.code 0x00
  | .vperm d a n p f => packV 0x33 d a n p f.code 0x01
  | .vnzs d a b p f => packV 0x33 d a b p f.code 0x02
  | .vgth d a b p f => packV 0x34 d a b p f.code 0x00
  | .vsct d a b p f => packV 0x34 d a b p f.code 0x01
  | .enq a q => packA 0x38 0 a q 0x000
  | .deq d q => packA 0x38 d 0 q 0x001
  | .wtok a => packA 0x38 0 a 0 0x002
  | .tokq d a => packA 0x38 d a 0 0x003
  | .mvm d a => packA 0x39 d a 0 0x000
  | .send d a => packA 0x39 d a 0 0x001
  | .sendh d a => packA 0x39 d a 0 0x002
  | .spawn d => packA 0x39 d 0 0 0x003
  | .jinit a b => packA 0x39 0 a b 0x004
  | .arrive a => packA 0x39 0 a 0 0x005
  | .arriveRlx a => packA 0x39 0 a 0 0x006
  | .susp o => packJ 0x3A 0 o
  | .migr a o => packI 0x3B a 0 o
  | .ixnew d a => packA 0x3C d a 0 0x000
  | .ixdel d a => packA 0x3C d a 0 0x001
  | .stv d a b => packA 0x3C d a b 0x002
  | .ldn d a b => packA 0x3C d a b 0x003
  | .ixstat d a => packA 0x3C d a 0 0x004
  | .ctlr d n => packI 0x3D d 0 n
  | .ctlrSpace d a o => packI 0x3D d a o
  | .ctlw d n => packI 0x3E d 0 n
  | .ctlwSpace d a o => packI 0x3E d a o
  | _ => 0

/-- The four bytes of a word as memory holds them (R34, R6). -/
def wordBytes (w : Word) : List Byte :=
  [w.extractLsb' 0 8, w.extractLsb' 8 8, w.extractLsb' 16 8, w.extractLsb' 24 8]

/-- The instruction that the decoder reads from an instruction whose bits are `w` (bit 0 the least significant bit of
its only word). -/
def decodeTableWord (_nbits w : Nat) : Option Instr :=
  match decode (wordBytes (BitVec.ofNat 32 w)) with
  | .ok (i, _) => some i
  | .error _ => none

end Sys2Proof
end

