-- ==== Sys2Proof/Machine/Translate.lean ====
section
/-!
DEFINITION. Page tables, the facets' translation caches and miss tables, the prisms' walkers (R66 to R76).
-/

namespace Sys2Proof.Machine

/-! ## Page table entries (R69) -/

/-- TYPE of an entry. -/
def pteType (e : Nat) : Nat := bits e 1 0
/-- A set bit among the reserved ones. -/
def pteReserved (e : Nat) : Bool := bits e 3 2 ≠ 0
/-- Offset bits [47:8] of the target. -/
def pteAddr (e : Nat) : Nat := bits e 47 8 * 256
/-- The permissions that a leaf gives: X, W, RD and E (R69). -/
def leafX (e : Nat) : Bool := bit e 7
def leafW (e : Nat) : Bool := bit e 6
def leafRD (e : Nat) : Bool := bit e 5
def leafE (e : Nat) : Bool := bit e 4

/-- Whether an address, as a page table or PTBASE names it, lies in the walking device's own HBM (R68, R70). -/
def State.ownHbm (s : State) (pa : Nat) : Bool := (devOf pa = 0 || devOf pa = s.devId) && spaceOf pa = 0

/-- A pointer that R70 allows, whose table is aligned to `align`. -/
def State.pointerOk (s : State) (e align : Nat) : Bool :=
  pteType e = 1 && !pteReserved e && bits e 7 4 = 0 && s.ownHbm e && pteAddr e % align = 0

/-- The entry of a table at an HBM offset: one doubleword, read whole (R69). Page tables are read as plain HBM. An offset
with a bit of [47:39] set names no HBM (R29); the walker reads 0 there, and its walk ends in PAGE (log 50). -/
def State.pte (s : State) (off : Nat) : Nat := s.rdNat { pa := off % 2 ^ 48, enc := none } 8

/-- A walk of the page table of a context for a 64 KiB page (R68 to R70). A poisoned entry is read as it stands. -/
def State.walkTable (s : State) (c page : Nat) : Walked :=
  let base := (s.ctx c).ptbase.toNat
  let va := page * 65536
  if !s.ownHbm base || bits base 47 0 % 65536 ≠ 0 then .fault
  else
    let e0 := s.pte (bits base 47 0 + 8 * bits va 55 43)
    if !s.pointerOk e0 65536 then .fault
    else
      let e1 := s.pte (pteAddr e0 + 8 * bits va 42 30)
      if !s.pointerOk e1 4096 then .fault
      else
        let e2 := s.pte (pteAddr e1 + 8 * bits va 29 21)
        if pteType e2 = 2 && !pteReserved e2 && bits e2 20 8 = 0 then .leaf true (dw e2)
        else if !s.pointerOk e2 256 then .fault
        else
          let e3 := s.pte (pteAddr e2 + 8 * bits va 20 16)
          if pteType e3 = 2 && !pteReserved e3 && bits e3 15 8 = 0 then .leaf false (dw e3) else .fault

/-- The addresses of the entries that a walk reads, in order (R68). -/
def State.walkPath (s : State) (c page : Nat) : List Nat :=
  let base := (s.ctx c).ptbase.toNat
  let va := page * 65536
  if !s.ownHbm base || bits base 47 0 % 65536 ≠ 0 then []
  else
    let a0 := bits base 47 0 + 8 * bits va 55 43
    if !s.pointerOk (s.pte a0) 65536 then [a0]
    else
      let a1 := pteAddr (s.pte a0) + 8 * bits va 42 30
      if !s.pointerOk (s.pte a1) 4096 then [a0, a1]
      else
        let a2 := pteAddr (s.pte a1) + 8 * bits va 29 21
        if !s.pointerOk (s.pte a2) 256 then [a0, a1, a2] else [a0, a1, a2, pteAddr (s.pte a2) + 8 * bits va 20 16]

/-! ## Checking an access against a leaf -/

/-- What an access does, for the permissions of R70. -/
inductive Kind where
  | fetch
  | load
  | store
  | amo
deriving DecidableEq, Repr

/-- The permissions that R70 asks for. -/
def Kind.allowed (k : Kind) (leaf : Nat) : Bool :=
  match k with
  | .fetch => leafX leaf
  | .load => leafRD leaf
  | .store => leafW leaf
  | .amo => leafRD leaf && leafW leaf

/-- The global physical address that a leaf maps a virtual address to, the own device written as 0 (R68, R69, R334). -/
def State.leafAddr (s : State) (big : Bool) (leaf va : Nat) : Nat :=
  normDev s.devId (bits leaf 63 48 * 2 ^ 48 + (pteAddr leaf + va % (if big then 2 ^ 21 else 2 ^ 16)))

/-- Whether the instruction kinds of R32, which `near` marks, may reach an address from facet `f`; `near` is also set for
a fetch toward another device (R129). SPACE 3 is closed to all (R104, R129). -/
def reachable (near : Bool) (k : Kind) (f pa : Nat) : Bool :=
  spaceOf pa ≠ 3 &&
    (!near || (devOf pa = 0 && (k = .fetch || spaceOf pa ≠ 2 || spadFacet pa = f)))

/-- The place of a virtual address under a leaf, or none where the access takes PROT: a missing permission (R70), an
ill-formed address (R29), a place the access may not reach (R32, R104, R129), an empty key slot under E = 1 (R83). E has no
effect on a leaf into local memory or a scratchpad (R104). R82 places the slots in the controllers of the memory, and does not
say whose slot serves an E = 1 leaf to another device's HBM: DESIGN CHOICE, log 78: that of the accessing context on this
device. -/
def State.checkLeaf (s : State) (f c : Nat) (k : Kind) (near : Bool) (big : Bool) (leaf va : Nat) : Option Place :=
  let pa := s.leafAddr big leaf va
  if !k.allowed leaf || illFormed s.peers pa || !reachable near k f pa then none
  else if leafE leaf && spaceOf pa = 0 && (s.keySlot c).isNone then none
  else some { pa := pa, enc := if leafE leaf && spaceOf pa = 0 then some c else none }

/-! ## The facet translation cache -/

/-- Whether an entry translates an address of a context (R72). -/
def TlbEntry.covers (e : TlbEntry) (c va : Nat) : Bool :=
  e.ctx = c && e.page = va / (if e.big then 2 ^ 21 else 2 ^ 16)

/-- The entry of the translation cache that matches, if any (R72). -/
def Facet.lookup (x : Facet) (c va : Nat) : Option TlbEntry := x.tlb.find? (·.covers c va)

/-- The outcome of translating an access. -/
inductive Xlat where
  | ok (p : Place)
  | prot
  | page
  | miss
deriving DecidableEq, Repr

/-- Whether an invalidation written to XINV covers an address of a context (R77). -/
def xinvCovers (v : Dword) (c va : Nat) : Bool :=
  bits v.toNat 8 0 == c && (bit v.toNat 15
    || (if bit v.toNat 14 then bits v.toNat 55 21 == va / 2 ^ 21 else bits v.toNat 55 16 == va / 2 ^ 16))

/-- While an invalidation of the page is in progress, whether this access still uses the entry in the cache: both
outcomes are permitted (R77). -/
def State.usesOld (s : State) (c va : Nat) : Bool :=
  !s.xinv.any (xinvCovers · c va) || Config.freePick s.tick (2 ^ 64 + va) % 2 = 0

/-- Translation of one access issued in facet `f` for context `c` (R66, R67, R70, R71). -/
def State.xlate (s : State) (f c : Nat) (k : Kind) (near : Bool) (va : Nat) : Xlat :=
  if 2 ^ 56 ≤ va || (k = .fetch && 2 ^ 40 ≤ va) then .prot
  else match (s.facet f).lookup c va with
    | none => .miss
    | some e =>
      if !s.usesOld c va then .miss
      else match s.checkLeaf f c k near e.big e.leaf.toNat va with
        | some p => .ok p
        | none => .prot

/-- A translation by walking the table at once, for the accesses that the device itself makes for a context: the save
area (R297), the rings (R248, R254). -/
def State.xlateNow (s : State) (f c : Nat) (k : Kind) (va : Nat) : Option Place :=
  if 2 ^ 56 ≤ va then none
  else match s.walkTable c (va / 65536) with
    | .fault => none
    | .leaf big leaf => s.checkLeaf f c k false big leaf.toNat va

/-! ## Misses and walks -/

/-- Whether a walk serves a (context, page). -/
def Walk.serves (w : Walk) (c page : Nat) : Bool := w.ctx = c && w.page = page && !w.drop

/-- The walks with facet `f` added to the one that serves a (context, page) (R73). -/
def joinWalk (l : List Walk) (c page f : Nat) : List Walk :=
  l.map fun w => if w.serves c page then { w with facets := insertNat f w.facets } else w

/-- Facet `f` sends a walk request to its prism's walker, where requests for one (context, page) coalesce (R73). -/
def State.sendWalk (s : State) (f c page : Nat) : State :=
  let w := s.walker (f / 320)
  if w.running.any (·.serves c page) then
    s.setWalker (f / 320) { w with running := joinWalk w.running c page f }
  else if w.queued.any (·.serves c page) then
    s.setWalker (f / 320) { w with queued := joinWalk w.queued c page f }
  else
    s.setWalker (f / 320)
      { w with queued := w.queued ++ [{ ctx := c, page := page, facets := [f], result := .fault, drop := false }] }

/-- A miss of an access of facet `f` (R73): it joins the entry of its (context, page), or takes a free one of the 16 and
asks for a walk, or, with all 16 busy, waits and asks again. One that joins a walk takes its result, also where that walk
has read an entry that was invalid and has been stored meanwhile (log 51). -/
def State.missOn (s : State) (f c va : Nat) : State :=
  let x := s.facet f
  let page := va / 65536
  if x.miss.contains { ctx := c, page := page } then s
  else if x.miss.length < 16 then
    (s.setFacet f { x with miss := x.miss ++ [{ ctx := c, page := page }] }).sendWalk f c page
  else s

/-- The cache of a facet filled with a leaf: of its 512 entries a free choice is replaced when all are in use (R72,
log 13). -/
def Facet.fill (x : Facet) (tick : Nat) (e : TlbEntry) : Facet :=
  if x.tlb.any (fun o => o.ctx = e.ctx && o.big = e.big && o.page = e.page) then
    { x with tlb := x.tlb.map fun o => if o.ctx = e.ctx && o.big = e.big && o.page = e.page then e else o }
  else if x.tlb.length < 512 then { x with tlb := x.tlb ++ [e] }
  else { x with tlb := x.tlb.set (Config.freePick tick 0 % 512) e }

end Sys2Proof.Machine
end

