-- ==== Sys2Proof/Machine/Net.lean ====
section
/-!
DEFINITION. Messages at rest and in flight: headers, mailboxes and spill rings, deques, and the error logs with their
reports (R242 to R254, R270, R303).
-/

namespace Sys2Proof.Machine

/-! ## Message fields (R242, R243) -/

def hdrResume (h : Nat) : Nat := bits h 63 32
def hdrGrain (h : Nat) : Nat := bits h 31 24
def hdrCont (h : Nat) : Bool := bit h 21
def hdrJoin (h : Nat) : Bool := bit h 20
def hdrRange (h : Nat) : Bool := bit h 19
def hdrPri (h : Nat) : Bool := bit h 18
def hdrKeyn (h : Nat) : Nat := bits h 17 16
def hdrHandler (h : Nat) : Nat := bits h 15 0

/-- Doubleword `i` of a message, 1 to 7. -/
def Msg.arg (m : Msg) (i : Nat) : Dword := m.args.getD (i - 1) 0

/-- The message with its header replaced. -/
def Msg.withHdr (m : Msg) (h : Nat) : Msg := { m with hdr := dw h }

/-- The key words of a message, key 0 first (R243). -/
def Msg.keyWords (m : Msg) : List Nat :=
  let top := if hdrJoin m.hdr.toNat then 6 else 7
  (List.range (hdrKeyn m.hdr.toNat)).map fun i => (m.arg (top - i)).toNat

/-- The keys of a message, sorted ascending with duplicates merged (R243, R261). -/
def Msg.keyList (m : Msg) : List Nat := m.keyWords.foldl (fun l k => insertNat (k % 2 ^ 32) l) []

/-- The join reference of a message with JOIN = 1 (R243). -/
def Msg.joinRef (m : Msg) : Dword := m.arg 7

/-- The 64 bytes of a message (R242). -/
def Msg.bytes (m : Msg) : List Byte :=
  toBytes m.hdr.toNat 8 ++ m.args.toList.flatMap fun x => toBytes x.toNat 8

/-- The message whose 64 bytes are given. -/
def Msg.ofBytes (b : List Byte) : Msg :=
  { hdr := dw (Sys2Proof.ofBytes (b.take 8))
    args := Vector.ofFn fun i => dw (Sys2Proof.ofBytes ((b.drop (8 * (i.val + 1))).take 8)) }

/-- A message whose header the check of R244 refuses. -/
def Msg.bad (m : Msg) : Bool :=
  let h := m.hdr.toNat
  bits h 23 22 ≠ 0
    || (hdrCont h && (hdrHandler h ≠ 0 || hdrRange h || hdrGrain h ≠ 0))
    || (!hdrCont h && hdrResume h ≠ 0)
    || (!hdrRange h && hdrGrain h ≠ 0)
    || m.keyWords.any (fun k => 2 ^ 32 ≤ k)
    || (hdrJoin h && (bits m.joinRef.toNat 63 56 ≠ 0 || 4 < bits m.joinRef.toNat 2 0))

/-! ## Error logs (R303) -/

/-- A packet that the device itself sends. -/
def Packet.own (ctx : Option Nat) (pri : Bool) (x : Held) (d : Dest) : Packet :=
  { src := none, away := none, ctx := ctx, pri := pri, held := x, dest := d, via := none, frozen := false }

/-- Which log receives an event. -/
inductive LogAt where
  | facet (f : Nat)
  | stack (k : Nat)
  | device
deriving DecidableEq, Repr

def State.log (s : State) : LogAt → ErrLog
  | .facet f => (s.facet f).log
  | .stack k => Tbl.get ErrLog.empty s.stackLogs k
  | .device => s.devLog

def State.setLog (s : State) (a : LogAt) (l : ErrLog) : State :=
  match a with
  | .facet f => s.setFacet f { s.facet f with log := l }
  | .stack k => { s with stackLogs := Tbl.set s.stackLogs k l }
  | .device => { s with devLog := l }

/-- The control-space address of entry `i` of a log (R294, R303). -/
def LogAt.entryAddr (a : LogAt) (i : Nat) : Nat :=
  3 * 2 ^ 48 + 16 + 16 * i + (match a with
    | .facet f => 0x000100000000 + 0x400000 * f + 0x1000
    | .stack k => 0x400000 + 4096 * k
    | .device => 0x500000)

/-- Entry `i` of a log. -/
def ErrLog.entry (l : ErrLog) (i : Nat) : Dword × Dword := Tbl.get (0, 0) l.entries i

/-- VALID of entry `i`. -/
def ErrLog.valid (l : ErrLog) (i : Nat) : Bool := (l.entry i).1.getLsbD 63

/-- The valid entry that an event repeats, a kill's apart (R303). -/
def ErrLog.repeats (l : ErrLog) (addr : Nat) : Option Nat :=
  (List.range 32).find? fun i =>
    l.valid i && (l.entry i).2.toNat == addr && bits (l.entry i).1.toNat 55 48 ≠ 11

/-- A free entry, the next one first. -/
def ErrLog.freeEntry (l : ErrLog) : Option Nat :=
  ((List.range 32).map fun i => (l.next + i) % 32).find? fun i => !l.valid i

/-- Doubleword 0 of an entry (R303). -/
def logWord (kind : Nat) (ctx : Option Nat) (count : Nat) : Dword :=
  dw (2 ^ 63 + kind * 2 ^ 48 + (match ctx with | some c => c * 2 ^ 32 | none => 2 ^ 41) + count % 2 ^ 32)

/-- An event in a log: the log after it and the entry it went to, none when it was only counted as lost. -/
def ErrLog.add (l : ErrLog) (kind : Nat) (ctx : Option Nat) (count addr : Nat) : ErrLog × Option Nat :=
  match (if kind = 11 then none else l.repeats addr) with
  | some i =>
    let e := l.entry i
    let n := (bits e.1.toNat 31 0 + 1) % 2 ^ 32
    ({ l with entries := Tbl.set l.entries i (dw (setBits e.1.toNat 31 0 n), e.2) }, some i)
  | none =>
    match l.freeEntry with
    | some i =>
      ({ l with entries := Tbl.set l.entries i (logWord kind ctx count, dw addr), next := (i + 1) % 32 }, some i)
    | none => ({ l with lost := (l.lost + 1) % 2 ^ 16 }, none)

/-- The report of a logged event to the error handler of its context: a high-priority message, sent when ERRH is valid
and its core lies in the context's set (R303). -/
def State.report (s : State) (a : LogAt) (i c : Nat) : State :=
  let errh := (s.ctx c).errh.toNat
  let g := bits errh 35 18
  if bit errh 63 && coreIn (s.facetSet c) g then
    let e := (s.log a).entry i
    let m : Msg :=
      { hdr := dw (2 ^ 18 + bits errh 15 0)
        args := ((Msg.zero.args.setIfInBounds 0 e.1).setIfInBounds 1 e.2).setIfInBounds 2 (dw (a.entryAddr i)) }
    { s with msgs := s.msgs ++
        [Packet.own (some c) true { msg := m, grant := false } (.core g)] }
  else s

/-- The context of a log entry, none with NOCTX (R303). -/
def entryCtx (w : Dword) : Option Nat := if w.getLsbD 41 then none else some (bits w.toNat 40 32)

/-- An event logged, and reported to the context of its entry, which for a repeat is that of the event that the entry was
made for, when the event is one that is reported there (R302, R303). -/
def State.logEvent (s : State) (a : LogAt) (kind : Nat) (ctx : Option Nat) (count addr : Nat) (toCtx : Bool) : State :=
  let r := (s.log a).add kind ctx count addr
  let s' := s.setLog a r.1
  match r.2 with
  | some i =>
    match entryCtx (r.1.entry i).1 with
    | some c => if toCtx then s'.report a i c else s'
    | none => s'
  | none => s'

/-- The log of a memory error at an address: the stack's, or the facet's (R84, R115). -/
def logOf (pa : Nat) : LogAt :=
  if spaceOf pa = 0 then .stack (bits (offOf pa) 10 8) else .facet (facetOfOff (offOf pa))

/-- One unit read for a context, or for no one: an error that struck it is found, corrected or marked (R84, R115). -/
def State.touchUnit (s : State) (c : Option Nat) (u : Nat) : State :=
  match Tbl.get 0 s.latent u with
  | 0 => s
  | 1 =>
    ({ s with latent := s.latent.filter (·.1 ≠ u) }).logEvent (logOf u) (if spaceOf u = 0 then 4 else 0) c 1 u true
  | _ =>
    ({ s with latent := s.latent.filter (·.1 ≠ u), poison := insertNat u s.poison }).logEvent (logOf u)
      (if spaceOf u = 0 then 5 else 1) c 1 u true

/-- A read by context `c` of `n` bytes: the codes of the units it touches are checked. -/
def State.touch (s : State) (c pa n : Nat) : State :=
  if s.latent.isEmpty then s else (unitsOf pa n).foldl (fun s u => s.touchUnit (some c) u) s

/-- A write by context `c` of `n` bytes: the codes of the units that it covers in part are checked, since they are read
and merged (R84, R115). -/
def State.touchPart (s : State) (c pa n : Nat) : State :=
  if s.latent.isEmpty then s
  else ((unitsOf pa n).filter fun u => !(pa ≤ u && u + unitSize u ≤ pa + n)).foldl (fun s u => s.touchUnit (some c) u) s

/-- A write at the owner by context `c`: the merge of the units written in part, the bytes, the poison (R33, R84, R85). -/
def State.write (s : State) (c : Nat) (p : Place) (d : List Byte) : State := (s.touchPart c p.pa d.length).wr p d

/-- The codes of the entries that a walk of context `c` reads, checked (R69, R84). -/
def State.walkTouch (s : State) (c page : Nat) : State :=
  if s.latent.isEmpty then s else (s.walkPath c page).foldl (fun s a => s.touch c a 8) s

/-! ## Retention of macros (R116) -/

/-- An access or RETX of context `c` that meets a macro starts its exit from retention. -/
def Mac.rouse (y : Mac) (c : Nat) : Mac :=
  match y.ret with
  | .awake | .exiting => y
  | .entering => if y.wake then y else { y with wake := true, waker := some c }
  | .retained => { y with ret := .exiting, waker := some c }

/-- The macro of a scratchpad address roused; an access toward another device waits. -/
def State.rouse (s : State) (c pa : Nat) : State :=
  if devOf pa = 0 then s.setMac (spadFacet pa) (macroOf pa) ((s.mac (spadFacet pa) (macroOf pa)).rouse c) else s

/-- The 32-byte words of a macro in which errors have struck. -/
def State.struckWords (s : State) (base : Nat) : List Nat :=
  s.latent.foldl (fun l x => if base ≤ x.1 && x.1 < base + 65536 then insertNat (x.1 / 32 * 32) l else l) []

/-- One 256-bit word decoded: up to two bit errors are corrected, three poison its four doublewords. R116 logs each
correction, and a word with two corrected errors is one correction of the decoder: one event (DESIGN CHOICE, log 59). Errors
that struck before the macro fell asleep count with the others (DESIGN CHOICE, log 73). -/
def State.decodeWord (s : State) (f : Nat) (c : Option Nat) (w : Nat) : State :=
  let hit := s.latent.filter fun x => w ≤ x.1 && x.1 < w + 32
  let s1 := { s with latent := s.latent.filter fun x => !(w ≤ x.1 && x.1 < w + 32) }
  if (hit.map (·.2)).sum ≤ 2 then s1.logEvent (.facet f) 2 c 1 w true
  else ({ s1 with poison := markPoison s1.poison w 32 }).logEvent (.facet f) 3 c 1 w true

/-- The end of a macro's exit from retention: every word is decoded, for the context that started the exit (R116). -/
def State.exitRetention (s : State) (f m : Nat) (c : Option Nat) : State :=
  let s1 := (s.struckWords (spadAddr f (65536 * m))).foldl (fun s w => s.decodeWord f c w) s
  s1.setMac f m { s1.mac f m with ret := .awake, wake := false, waker := none }

/-- The macro of an address awake for an access of context `c` within a longer step of the device, which comprises the
exit (R116, log 33). -/
def State.wakeNow (s : State) (c pa : Nat) : State :=
  let f := spadFacet pa
  let m := macroOf pa
  if devOf pa = 0 && spaceOf pa = 2 && (s.mac f m).ret ≠ .awake then
    s.exitRetention f m ((s.mac f m).rouse c).waker
  else s

/-! ## The device's own accesses for a context (R248, R254, R270) -/

/-- Bytes written through the context's page table, granule by granule with fuel, where the address translates; a sleeping
macro wakes first (R116). -/
def State.putBytes (s : State) (f c : Nat) : Nat → Nat → List Byte → State
  | 0, _, _ => s
  | fuel + 1, va, d =>
    let k := min d.length (64 - va % 64)
    if d.isEmpty then s
    else
      let s1 := s.walkTouch c (va / 65536)
      let s2 := match s1.xlateNow f c .store va with
        | some p => (s1.wakeNow c p.pa).write c p (d.take k)
        | none => s1
      s2.putBytes f c fuel (va + k) (d.drop k)

/-- Bytes read through the context's page table, granule by granule with fuel, a sleeping macro woken first; where the
address does not translate, the device's own copy of them. -/
def State.getBytes (s : State) (f c : Nat) : Nat → Nat → List Byte → State × List Byte
  | 0, _, _ => (s, [])
  | fuel + 1, va, own =>
    let k := min own.length (64 - va % 64)
    if own.isEmpty then (s, [])
    else
      let s1 := s.walkTouch c (va / 65536)
      match s1.xlateNow f c .load va with
      | some p =>
        let r := ((s1.wakeNow c p.pa).touch c p.pa k).getBytes f c fuel (va + k) (own.drop k)
        (r.1, s1.rd p k ++ r.2)
      | none =>
        let r := s1.getBytes f c fuel (va + k) (own.drop k)
        (r.1, own.take k ++ r.2)

/-! ## Spill rings and deque rings (R248, R254)

A ring of 64 entries of 64 bytes lies in the context's memory; entry `i` lies at its base + 64·i, whatever the base's
alignment. Its messages are read back from memory where the address translates (log 16). -/

/-- The bytes of ring entry `i` written. -/
def State.ringPut (s : State) (f c base i : Nat) (m : Msg) : State := s.putBytes f c 2 (base + 64 * (i % 64)) m.bytes

/-- The message of ring entry `i` read back. -/
def State.ringGet (s : State) (f c base i : Nat) (own : Msg) : State × Msg :=
  let r := s.getBytes f c 2 (base + 64 * (i % 64)) own.bytes
  (r.1, Msg.ofBytes r.2)

/-- Base of the ring of a priority (R248). -/
def Core.ringBase (k : Core) (pri : Bool) : Nat := k.spillb.toNat + (if pri then 4096 else 0)

/-- Mailbox depth of a priority (R248). -/
def boxDepth (pri : Bool) : Nat := if pri then 8 else 16

def Core.box (k : Core) (pri : Bool) : List Held := if pri then k.high else k.low
def Core.ring (k : Core) (pri : Bool) : List Held := if pri then k.highRing else k.lowRing
def Core.ringHead (k : Core) (pri : Bool) : Nat := if pri then k.highHead else k.lowHead
def Core.setBox (k : Core) (pri : Bool) (l : List Held) : Core :=
  if pri then { k with high := l } else { k with low := l }
def Core.setRing (k : Core) (pri : Bool) (h : Nat) (l : List Held) : Core :=
  if pri then { k with highRing := l, highHead := h } else { k with lowRing := l, lowHead := h }

/-- Whether core `g` has room for a message of a priority (R248). -/
def Core.hasRoom (k : Core) (pri : Bool) : Bool :=
  ((k.ring pri).isEmpty && (k.box pri).length < boxDepth pri) || (k.ring pri).length < 64

/-- An arrival of low priority ends the wait of R279. -/
def Core.awake (k : Core) (pri : Bool) : Core := if pri then k else { k with backoff := 0 }

/-- A message has entered the high mailbox of core `g`: the slots that stand in a WAITI are ready again (R293). -/
def State.ringBell (s : State) (g : Nat) : State :=
  { s with slots := s.slots.map fun t =>
      if t.1 / 4 = g && t.2.bell = some false then (t.1, { t.2 with bell := some true }) else t }

/-- A core with a message placed behind those of its priority: in the mailbox while the ring is empty and the mailbox has
room, else in the ring (R248). -/
def Core.enqueue (k : Core) (pri : Bool) (x : Held) : Core :=
  if (k.ring pri).isEmpty && (k.box pri).length < boxDepth pri then (k.setBox pri (k.box pri ++ [x])).awake pri
  else (k.awake pri).setRing pri (k.ringHead pri) (k.ring pri ++ [x])

/-- A message that finds room at core `g` placed in its mailbox or ring (R248). -/
def State.deliver (s0 : State) (g c : Nat) (pri : Bool) (x : Held) : State :=
  let s := if pri then s0.ringBell g else s0
  let k := s.core g
  let s1 := s.setCore g (k.enqueue pri x)
  if (k.ring pri).isEmpty && (k.box pri).length < boxDepth pri then s1
  else s1.ringPut (g / 64) c (k.ringBase pri) (k.ringHead pri + (k.ring pri).length) x.msg

/-- The oldest message taken from a mailbox, and the refill from its ring (R248). -/
def State.takeBox (s : State) (g c : Nat) (pri : Bool) : State :=
  let k := s.core g
  match k.ring pri with
  | [] => s.setCore g (k.setBox pri (k.box pri).tail)
  | r :: rest =>
    let m := s.ringGet (g / 64) c (k.ringBase pri) (k.ringHead pri) r.msg
    m.1.setCore g ((k.setBox pri ((k.box pri).tail ++ [{ r with msg := m.2 }])).setRing pri
      ((k.ringHead pri + 1) % 64) rest)

/-- Base of a core's deque ring (R254). -/
def State.dqBase (s : State) (g c : Nat) : Nat := (s.ctx c).dqsb.toNat + 4096 * g

/-- Records of a core's deque. -/
def Core.records (k : Core) : Nat := k.deque.length + k.dqRing.length

/-- Whether the deque is full: 96 records, or 95 with a steal outstanding (R254). -/
def Core.dqFull (k : Core) : Bool := if k.stealing.isSome then 95 ≤ k.records else 96 ≤ k.records

/-- A record pushed on the top; the 33rd newest moves to the ring (R254). -/
def State.pushTop (s : State) (g c : Nat) (x : Held) : State :=
  let k := s.core g
  match k.deque with
  | old :: rest =>
    if k.deque.length < 32 then s.setCore g { k with deque := k.deque ++ [x], backoff := 0 }
    else
      (s.setCore g { k with deque := rest ++ [x], dqRing := k.dqRing ++ [old], backoff := 0 }).ringPut (g / 64) c (s.dqBase g c)
        (k.dqHead + k.dqRing.length) old.msg
  | [] => s.setCore g { k with deque := [x], backoff := 0 }

/-- The deque after its top record was taken: the newest record of the ring moves into the core (R254, R277). -/
def State.popTop (s : State) (g c : Nat) : State :=
  let k := s.core g
  match k.dqRing.getLast? with
  | none => s.setCore g { k with deque := k.deque.dropLast }
  | some r =>
    let m := s.ringGet (g / 64) c (s.dqBase g c) (k.dqHead + k.dqRing.length - 1) r.msg
    m.1.setCore g { k with deque := { r with msg := m.2 } :: k.deque.dropLast, dqRing := k.dqRing.dropLast }

/-- The bottom record of the deque: the oldest, from the ring when it is not empty (R255, R277); and the state after its
read. -/
def State.bottom (s : State) (g c : Nat) : State × Option Held :=
  let k := s.core g
  match k.dqRing with
  | r :: _ =>
    let m := s.ringGet (g / 64) c (s.dqBase g c) k.dqHead r.msg
    (m.1, some { r with msg := m.2 })
  | [] => (s, k.deque.head?)

/-- The deque without its bottom record. -/
def State.dropBottom (s : State) (g : Nat) : State :=
  let k := s.core g
  match k.dqRing with
  | _ :: rest => s.setCore g { k with dqRing := rest, dqHead := (k.dqHead + 1) % 64 }
  | [] => s.setCore g { k with deque := k.deque.tail }

/-- The deque with its bottom record rewritten in place (R255). -/
def State.setBottom (s : State) (g c : Nat) (x : Held) : State :=
  let k := s.core g
  match k.dqRing with
  | _ :: rest => (s.setCore g { k with dqRing := x :: rest }).ringPut (g / 64) c (s.dqBase g c) k.dqHead x.msg
  | [] => s.setCore g { k with deque := x :: k.deque.tail }

end Sys2Proof.Machine
end

