-- ==== Sys2Proof/Machine/Ops.lean ====
section
/-!
DEFINITION. The named operations that the instructions and events share: the end of a context, taking a trap and the
return from one, translation as an instruction meets it, loads, stores that leave their slot, releases, the replay
queue, the start and the retirement of a task.
-/

namespace Sys2Proof.Machine

/-! ## Trap causes (R282) -/

def causeIllegal : Nat := 0x01
def causeClobber : Nat := 0x02
def causeKeyHeld : Nat := 0x03
def causePage : Nat := 0x04
def causeProt : Nat := 0x05
def causeAlign : Nat := 0x06
def causePoison : Nat := 0x07
def causeStationary : Nat := 0x08
def causeStreamCorr : Nat := 0x09
def causeOverrun : Nat := 0x0A
def causeSpawnLimit : Nat := 0x0B
def causeTrap : Nat := 0x0C
def causePreempt : Nat := 0x0D
def causeWatch : Nat := 0x0E

/-! ## Ending a context (R302) -/

/-- The cells of a range cleared to zero, with its poison and latent errors. -/
def State.zeroRange (s : State) (pa n : Nat) : State :=
  { s with
    mem := s.mem.filter fun c => !(pa ≤ c.1 && c.1 < pa + n)
    poison := s.poison.filter fun u => !(pa ≤ u && u < pa + n)
    latent := s.latent.filter fun u => !(pa ≤ u.1 && u.1 < pa + n) }

/-- `n` bytes from a place cleared to zero, `n` a multiple of 64, as its encryption has it. -/
def State.zeroSpan (s : State) (p : Place) (n : Nat) : State :=
  match p.enc with
  | none => s.zeroRange p.pa n
  | some _ => (List.range (n / 64)).foldl (fun s i => s.wr { p with pa := p.pa + 64 * i } (List.replicate 64 0)) s

/-- The first `n` bytes of an area cleared, from its recorded pages. -/
def State.zeroArea (s : State) : List Place → Nat → State
  | [], _ => s
  | p :: t, n => if n = 0 then s else (s.zeroSpan p (min n 65536)).zeroArea t (n - 65536)

/-- Bytes of a visited table (R206). -/
def IndexSlot.bm (x : IndexSlot) : Nat := 64 * ((x.cap + 511) / 512)

/-- The place of byte `o` of an area, from its recorded pages (R209); beyond them, where a list that another agent has
overwritten may lead, byte 0 of HBM on (DESIGN CHOICE, log 77). -/
def areaPlace (pages : List Place) (o : Nat) : Place :=
  let p := pages.getD (o / 65536) { pa := 0, enc := none }
  { p with pa := p.pa + o % 65536 }

/-- An area written from byte `o` for context `c`, granule by granule with fuel. -/
def State.areaWr (s : State) (c : Nat) (pages : List Place) : Nat → Nat → List Byte → State
  | 0, _, _ => s
  | fuel + 1, o, d =>
    let k := min d.length (64 - o % 64)
    if d.isEmpty then s
    else (s.write c (areaPlace pages o) (d.take k)).areaWr c pages fuel (o + k) (d.drop k)

/-- The index slot that a handle names. -/
def ixSlot (h : Nat) : Nat := bits h 31 20

/-- Writes of an insert performed: bytes of the storage area of index `i` (R214). -/
def State.insertWrites (s : State) (i : Nat) (l : List (Nat × List Byte)) : State :=
  l.foldl (fun s w => s.areaWr (s.index i).owner (s.index i).storage (w.2.length / 64 + 2) w.1 w.2) s

/-- The inserts of context `c` that have begun, committed (R220). -/
def State.commitInserts (s : State) (c : Nat) : State :=
  ((s.slots.filter fun t => (s.facet (t.1 / 256)).ctx = some c).flatMap fun t => t.2.ixq.filter (·.phase = .inserting)).foldl
    (fun s r => s.insertWrites (ixSlot r.a.toNat) r.writes) s

/-- The next generation (R78): modulo 2^20, skipping 0. -/
def nextGen (g : Nat) : Nat := if (g + 1) % 2 ^ 20 = 0 then 1 else (g + 1) % 2 ^ 20

/-- An index deleted: its slot freed under a new generation and its work area, (NW + 1)·BM bytes, cleared (R206, R210
steps 2 and 4). -/
def State.deleteIndex (s : State) (n : Nat) : State :=
  let x := s.index n
  (s.setIndex n { x with gen := nextGen x.gen, used := false, walks := [], holds := [], ins := false, rels := [] }).zeroArea x.work
    ((x.nw + 1) * x.bm)

/-- A slot freed: no task, nothing pending, nothing queued, no fault record of the stream unit (R132, R202, R302). -/
def Slot.freed (t : Slot) : Slot :=
  { t with
    busy := false, sup := false, start := false, conv := false, leaving := false, pend := [], pendJoin := none
    cpq := [], mxq := [], ssq := [], ixq := [], ixo := [], sso := [], hold := false, bypass := []
    faultWord := 0, faultWin := 0, replay := [], sbuf := [], early := []
    duePreempt := false, dueCorr := none, dueStore := false, duePage := [], block := none, bell := none, wait := none
    xf := none, examined := false }

/-- A core without messages, records or steals; its copies of context values and its caches stay. -/
def Core.emptied (k : Core) : Core :=
  { k with
    low := [], high := [], lowRing := [], lowHead := 0, highRing := [], highHead := 0, deque := [], dqRing := [],
    dqHead := 0, stealing := none, reply := none, thieves := [], backoff := 0, nextWait := 64 }

/-- A macro returned to DATA with its scale store and accumulators zeroed; its retention stays. -/
def Mac.toData (y : Mac) : Mac := { Mac.reset with ret := y.ret, wake := y.wake, waker := y.waker }

/-- The stream unit returned to its reset state without an owner (R202). -/
def Facet.resetStreams (x : Facet) : Facet := { x with sOwner := none, sregs := [], gens := [] }

/-- The barriers of a context left idle and ownerless (R102, R299). -/
def Facet.dropBars (x : Facet) (c : Nat) : Facet :=
  { x with bars := x.bars.map fun b => if b.2.owner = some c then (b.1, Barrier.reset) else b }

/-- The macros of a facet that a context owns. -/
def Facet.owned (x : Facet) (c : Nat) : List Nat :=
  (x.macs.filter fun (m : Nat × Mac) => m.2.st ≠ .data && m.2.owner == c).map (·.1)

/-- Fields of a tag entry (R111). -/
def tagValid (v : Dword) : Bool := v.getLsbD 63
def tagCtx (v : Dword) : Nat := bits v.toNat 62 54

/-- A facet without the tag entries of a context. -/
def Facet.dropTags (x : Facet) (c : Nat) : Facet :=
  { x with tags := x.tags.map fun e => if tagValid e.2 && tagCtx e.2 = c then (e.1, 0) else e }

/-- What a kill does to one facet of the set: macros zeroed, barriers and stream unit returned, the context's tag entries
dropped (log 30), facet given up. -/
def State.killFacet (s : State) (c f : Nat) : State :=
  let x := s.facet f
  let s1 := (x.owned c).foldl (fun s m => s.zeroRange (spadAddr f (65536 * m)) 65536) s
  let x1 : Facet := { x with macs := x.macs.map fun (m : Nat × Mac) =>
    if m.2.st ≠ .data && m.2.owner == c then (m.1, m.2.toData) else m }
  let x2 := if x1.sOwner = some c then x1.resetStreams else x1
  s1.setFacet f { (x2.dropBars c).dropTags c with ctx := if x.ctx = some c then none else x.ctx }

/-- Everything of context `c` that is in flight dropped (R74, R270). -/
def State.dropTraffic (s : State) (c : Nat) : State :=
  { s with
    msgs := s.msgs.filter fun p => p.ctx ≠ some c
    keyReqs := s.keyReqs.filter fun r => r.ctx ≠ c
    keyRels := s.keyRels.filter fun r => r.ctx ≠ c
    arrivals := s.arrivals.filter fun r => r.ctx ≠ c
    incrs := s.incrs.filter fun r => r.ctx ≠ c
    owed := s.owed.filter fun p => p.ctx ≠ some c
    codeReqs := s.codeReqs.filter fun r => r.ctx ≠ c
    facets := s.facets.map fun x =>
      (x.1, { x.2 with
        keys := x.2.keys.filter fun e => e.ctx ≠ c
        miss := x.2.miss.filter fun m => m.ctx ≠ c })
    walkers := s.walkers.map fun w =>
      (w.1, { running := w.2.running.map fun k => if k.ctx = c then { k with drop := true } else k
              queued := w.2.queued.filter fun k => k.ctx ≠ c }) }

/-- The slots and cores of a facet set freed. -/
def State.freeSet (s : State) (set : List Nat) : State :=
  { s with
    slots := s.slots.map fun t => if set.contains (t.1 / 256) then (t.1, t.2.freed) else t
    cores := s.cores.map fun k => if set.contains (k.1 / 64) then (k.1, k.2.emptied) else k }

/-- The global physical address of a context record (R294). -/
def ctxRecordAddr (c : Nat) : Nat := 3 * 2 ^ 48 + 0x100000 + 256 * c

/-- The facets that a kill of context `c` touches: those it holds, and those where a macro of its own is stationary
(R187, R302). -/
def State.killed (s : State) (c : Nat) : List Nat :=
  (s.facets.filter fun x => x.2.ctx = some c || !(x.2.owned c).isEmpty).map (·.1)

/-- Kill(context), with the code of its cause (R302): a context that is FREE or KILLED stays as it is. -/
def State.kill (s : State) (c code : Nat) : State :=
  let x := s.ctx c
  if x.st = .free || x.st = .killed then s
  else
    let s0 := s.commitInserts c
    let s1 := (s0.killed c).foldl (fun s f => s.killFacet c f)
      ((if x.st = .running then s0.freeSet x.set else s0).dropTraffic c)
    let s2 := (s1.indexes.filter fun i => i.2.used && i.2.owner == c).foldl (fun s i => s.deleteIndex i.1) s1
    let s3 := s2.setCtx c { s2.ctx c with
      st := .killed, kcode := code, set := [], kept := [], parkedJoins := [],
      halt := false, chosen := false, fresh := false, keptSlots := [], keptCores := [],
      keptFacets := [], keptPoison := [] }
    let at_ := match s.facetSet c with | f :: _ => LogAt.facet f | [] => LogAt.device
    let s4 := s3.logEvent at_ 11 (some c) code (ctxRecordAddr c) false
    { s4 with apexReports := s4.apexReports ++ [(11, c)] }

/-! ## Taking a trap (R284, R285) -/

/-- The control-space address of a slot's live block (R294), as the device reports it in bank s1. Which of the two forms of
its own addresses the device writes, DEVICE 0 or its identity, no rule says (R334): DESIGN CHOICE, log 70: DEVICE 0. -/
def liveAddr (u : Nat) : Nat :=
  3 * 2 ^ 48 + 0x000100000000 + 0x400000 * (u / 256) + 0x100000 + 0x4000 * (u / 4 % 64) + 0x1000 * (u % 4)

/-- The entry of the supervisor level: EPC, TCAUSE and TVAL written, the level changed, bank s1 naming the live block. The
START mark becomes `mark`. -/
def Slot.enter (t : Slot) (u code : Nat) (tval epc : Dword) (mark : Bool) : Slot :=
  { t with
    epc := epc, tcause := dw code, tval := tval, sup := true, start := mark, conv := false, leaving := false
    bell := none, wait := none, xf := none, examined := false
    bank := t.bank.setIfInBounds 0 (dw (liveAddr u)) }

/-- A trap of slot `u`: at supervisor level, or with TVEC = 0, it kills the context; else the slot enters the handler at
TVEC (R284, R285). -/
def State.trapAt (s : State) (u code : Nat) (tval epc : Dword) (mark : Bool) : State :=
  let t := s.slot u
  let k := s.core (u / 4)
  if t.sup then s.kill (s.ctxOf u) code
  else
    let t1 := t.enter u code tval epc mark
    if k.tvec = 0 then (s.setSlot u t1).kill (s.ctxOf u) code
    else s.setSlot u { t1 with pc := k.tvec }

/-- A trap that the running instruction raises: EPC is its address (R282). The first instruction of a task clears the
START mark (R253). -/
def State.trap (s : State) (code : Nat) (tval : Dword) : State := s.trapAt s.cur code tval s.here.pc false

/-- The word of an instruction, as TVAL holds it (R38, R39). -/
def wordOf (i : Instr) : Dword := (encode i).setWidth 64

/-- The oldest due trap of a slot, in the order of R283, with its cause and TVAL. -/
def Slot.dueTrap (t : Slot) (pcount : Nat) : Option (Nat × Dword) :=
  if t.duePreempt then some (causePreempt, dw pcount)
  else match t.dueCorr with
    | some w => some (causeStreamCorr, w)
    | none =>
      match t.dueStore, t.replay with
      | true, r :: _ => some (r.cause, dw r.va)
      | _, _ =>
        match t.duePage with
        | va :: _ => some (causePage, dw va)
        | [] => none

/-- The slot without the due trap that it takes. -/
def Slot.clearDue (t : Slot) : Slot :=
  if t.duePreempt then { t with duePreempt := false }
  else match t.dueCorr with
    | some _ => { t with dueCorr := none }
    | none =>
      match t.dueStore, t.replay with
      | true, _ :: _ => { t with dueStore := false }
      | _, _ => { t with duePage := t.duePage.tail }

/-- The due trap of slot `u` taken at its boundary; none is taken at supervisor level (R283, R336). -/
def State.takeDue (s : State) (u : Nat) : Option State :=
  let t := s.slot u
  if t.sup || !t.busy then none
  else match t.dueTrap ((s.ctx (s.ctxOf u)).pcount) with
    | none => none
    | some (code, tval) => some ((s.setSlot u t.clearDue).trapAt u code tval (if t.conv then t.epc else t.pc) t.start)

/-! ## Translation as an instruction meets it -/

/-- What the running instruction learns of an address. -/
inductive Look where
  | ok (p : Place)
  | trap (code : Nat)
  | wait
deriving DecidableEq, Repr

/-- Translation for the running instruction: a fault that its walk delivered, the cache, or a wait (R73 to R75). -/
def State.look (s : State) (k : Kind) (near : Bool) (va : Nat) : Look :=
  match s.here.xf with
  | some x =>
    if x.page = va / 65536 then .trap x.cause
    else match s.xlate s.myFacet s.myCtx k near va with
      | .ok p => .ok p
      | .prot => .trap causeProt
      | .page => .trap causePage
      | .miss => .wait
  | none =>
    match s.xlate s.myFacet s.myCtx k near va with
    | .ok p => .ok p
    | .prot => .trap causeProt
    | .page => .trap causePage
    | .miss => .wait

/-- The running instruction stalls: it has no effect and issues again (R56, R120). -/
def State.stall (s : State) : Out := .next s

/-! ## Watchpoints (R297) -/

/-- Whether one watchpoint matches an access of `n` bytes: address bits [55:3], less the low bits that it ignores, and
its kind, bit 0 loads, 1 stores, 2 fetches. -/
def watchHits (addr ctl : Dword) (kindBit va n : Nat) : Bool :=
  let k := max 3 (bits ctl.toNat 15 8)
  ctl.getLsbD kindBit && va / 2 ^ k ≤ bits addr.toNat 55 0 / 2 ^ k && bits addr.toNat 55 0 / 2 ^ k ≤ (va + n - 1) / 2 ^ k

/-- Whether a watchpoint of the slot matches; none is checked at supervisor level (R285). -/
def Slot.watched (t : Slot) (kindBit va n : Nat) : Bool :=
  !t.sup && !t.conv && (watchHits t.waddr0 t.wctl0 kindBit va n || watchHits t.waddr1 t.wctl1 kindBit va n)

/-! ## Stores that have left the slot -/

/-- Whether two ranges share a byte. -/
def meets (a n b m : Nat) : Bool := a < b + m && b < a + n

/-- Whether an entry is a store that overlaps an access: by place once it is translated, else by virtual address
(R222, R237). -/
def SEntry.overlaps (e : SEntry) (va pa n : Nat) : Bool :=
  match e with
  | .store _ _ (some p) d _ _ => meets p.pa d.length pa n
  | .store _ w none d _ _ => meets w d.length va n
  | .fence _ _ _ | .fenceX _ => false

/-- Whether an entry may be a store to the bytes that a later write reaches at a place: one that is not translated may lie
anywhere that its page offset, the low 16 address bits, allows (R222, R224). -/
def SEntry.mayOverlap (e : SEntry) (pa n : Nat) : Bool :=
  match e with
  | .store _ _ (some p) d _ _ => meets p.pa d.length pa n
  | .store _ w none d _ _ => meets (w % 65536) d.length (pa % 65536) n
  | .fence _ _ _ | .fenceX _ => false

/-- Whether an entry is a store that awaits translation. -/
def SEntry.untranslated : SEntry → Bool
  | .store _ _ none _ _ _ => true
  | _ => false

/-- Whether an entry is a store to a place within a scope of core `g`; one that is not translated may be. -/
def SEntry.within (x : Scope) (g : Nat) : SEntry → Bool
  | .store _ _ none _ _ _ => true
  | .store _ _ (some p) _ _ _ => inScope x g p.pa
  | .fence _ _ _ | .fenceX _ => false

/-- Whether an entry is a store. -/
def SEntry.isStore : SEntry → Bool
  | .store _ _ _ _ _ _ => true
  | .fence _ _ _ | .fenceX _ => false

/-- The turn of an entry's instruction. -/
def SEntry.seq : SEntry → Nat
  | .store n _ _ _ _ _ | .fence n _ _ | .fenceX n => n

/-- Whether a later access is held by a fence of the kinds `want`: a fence that stands after a store within its scope
(R232). `acc` lists the stores passed so far. -/
def fenceHeld (want : BitVec 4 → Bool) (g : Nat) : List SEntry → List SEntry → Bool
  | _, [] => false
  | acc, .fence _ k x :: t => (want k && acc.any (·.within x g)) || fenceHeld want g acc t
  | acc, .fenceX _ :: t => fenceHeld want g acc t
  | acc, .store n va p d r l :: t => fenceHeld want g (.store n va p d r l :: acc) t

/-- Whether a FENCE.X holds the release of an ENQ or index instruction: a store stands before it (R233). -/
def fenceXHeld : List SEntry → Bool → Bool
  | [], _ => false
  | .fenceX _ :: t, seen => seen || fenceXHeld t seen
  | .fence _ _ _ :: t, seen => fenceXHeld t seen
  | .store _ _ _ _ _ _ :: t, _ => fenceXHeld t true

/-- The kinds of a fence (R44): earlier stores before later loads, earlier stores before later stores. -/
def kindSl (k : BitVec 4) : Bool := k.getLsbD 2
def kindSs (k : BitVec 4) : Bool := k.getLsbD 3

/-- An entry placed by program order. -/
def insertEntry (e : SEntry) : List SEntry → List SEntry
  | [] => [e]
  | x :: t => if e.seq < x.seq then e :: x :: t else x :: insertEntry e t

/-- A parked store as an entry. -/
def Parked.entry (r : Parked) : SEntry := .store r.seq r.va none r.data r.kind false

/-- The stores on their way and the parked ones, with the fences among them, in program order. -/
def Slot.inOrder (t : Slot) : List SEntry := t.replay.foldl (fun l r => insertEntry r.entry l) t.sbuf

/-- The stores and fences that may order an access of a level: every store that has left the slot, and for an access of
task level the parked ones. A parked store performs after the handler's return alone, so that it holds nothing of the
handler (R237, R238; log 23). -/
def Slot.ahead (t : Slot) (sup : Bool) : List SEntry := if sup then t.sbuf else t.inOrder

/-- Whether a later load is held by a FENCE with sl, and a later store by one with ss (R232). -/
def Slot.fencedLoad (t : Slot) (g : Nat) : Bool := fenceHeld kindSl g [] (t.ahead t.sup)
def Slot.fencedStore (t : Slot) (g : Nat) : Bool := fenceHeld kindSs g [] (t.ahead t.sup)

/-- Whether a walk must wait: a FENCE of sl and ss at DEV or SYS stands behind a store within its scope that has not
performed, which may be to a page table entry; every later access is certain to read it (R76). -/
def Slot.walkHeld (t : Slot) (g : Nat) : Bool :=
  fenceHeld (fun k => kindSl k && kindSs k) g []
    ((t.ahead t.sup).filter fun e => match e with
      | .fence _ _ x => x == .dev || x == .sys
      | .store _ _ _ _ _ _ | .fenceX _ => true)

/-- Whether a CODEPUB of turn `seq` waits for a store that its slot released before it, at DEV scope or wider, and that has
not performed: the caches then refill with what it stored (R292, log 54). `sees` says which stores count: at the device all
of them, and at issue those that await translation, which may still park. -/
def Slot.codeHeld (t : Slot) (g seq : Nat) (sees : SEntry → Bool) : Bool :=
  let before := (t.inOrder.takeWhile (·.seq < seq)).filter fun e => !e.isStore || sees e
  fenceHeld kindSs g [] (before.filter fun e => match e with
      | .fence _ _ x => x == .dev || x == .sys
      | .store _ _ _ _ _ _ | .fenceX _ => true)
    || (before.dropWhile fun e => !e.isStore).tail.any fun e => match e with
      | .store _ _ _ _ .release _ => true
      | .store _ _ _ _ _ _ | .fence _ _ _ | .fenceX _ => false

/-- A parked store placed by program order. -/
def insertParked (r : Parked) : List Parked → List Parked
  | [] => [r]
  | x :: t => if r.seq < x.seq then r :: x :: t else x :: insertParked r t

/-- The slot without the fences that no store stands before. -/
def Slot.tidy (t : Slot) : Slot :=
  { t with sbuf := t.sbuf.dropWhile fun e => !e.isStore && t.replay.all (e.seq < ·.seq) }

/-- A load that its own slot's stores or fences hold back (R222, R224, R232, R237). -/
def Slot.loadHeld (t : Slot) (g va pa n : Nat) : Bool :=
  t.sbuf.any (·.overlaps va pa n) || t.replay.any (fun r => meets r.va r.data.length va n)
    || t.fencedLoad g

/-- An AMO that its own slot's stores or fences hold back: it counts as a load and as a store (R224, R232). -/
def Slot.amoHeld (t : Slot) (g va pa n : Nat) : Bool :=
  t.loadHeld g va pa n || t.sbuf.any (·.mayOverlap pa n) || t.fencedStore g

/-- A release at a scope that must still wait: the replay queue is not empty, or an earlier store within the scope has
not performed (R226, R237). -/
def Slot.releaseHeld (t : Slot) (x : Scope) (g : Nat) : Bool := !t.replay.isEmpty || t.sbuf.any (·.within x g)

/-- The stores of the slot that await translation: at most 16 (R237). -/
def Slot.awaiting (t : Slot) : Nat := (t.sbuf.filter (·.untranslated)).length

/-- Whether the replay queue holds its 16 entries (R237). -/
def Slot.replayFull (t : Slot) : Bool := 16 ≤ t.replay.length

/-- Whether a store that a release or a FENCE holds back has not left the slot yet (R239): an earlier store that it
waits for may still park. A release waits at issue for every store that awaits translation, and a fenced store for those
within the fence's scope (log 27). -/
def Slot.storeStalls (t : Slot) (g : Nat) (kind : StoreKind) : Bool :=
  (kind == .release && (!t.replay.isEmpty || t.sbuf.any (·.untranslated)))
    || fenceHeld kindSs g [] ((t.ahead t.sup).filter fun e => !e.isStore || e.untranslated)

/-! ## Loads ahead of their instructions (R224, R225) -/

/-- Whether an early load read one of the `n` bytes at an address. -/
def Early.meets (e : Early) (pa n : Nat) : Bool := Sys2Proof.Machine.meets e.place.pa e.data.length pa n

/-- The slot after deliveries of `n` bytes at an address that the token register `k` stands for: reading it acquires them
(R87, R94). -/
def Slot.markEarly (t : Slot) (k pa n : Nat) : Slot :=
  if t.early.isEmpty then t
  else { t with early := t.early.map fun e => if e.meets pa n then { e with behind := insertNat k e.behind } else e }

/-- The slot after LDN token `k` was written, which acquires a release of turn `rel` and those before it (R217). -/
def Slot.markOlder (t : Slot) (k rel : Nat) : Slot :=
  if t.early.isEmpty then t
  else { t with early := t.early.map fun e => if e.born < rel then { e with behind := insertNat k e.behind } else e }

/-- The slot without the early loads of which `f` says that they may not stand. -/
def Slot.dropEarly (t : Slot) (f : Early → Bool) : Slot :=
  if t.early.isEmpty then t else { t with early := t.early.filter (!f ·) }

/-- Early loads that stood when a load of `n` bytes at an address performed: those of the same bytes, and for an acquire
all, may not be used any more, since later accesses perform after this one (R224); the others it has passed. -/
def passEarlies (l : List Early) (pa n : Nat) (acq : Bool) : List Early :=
  (l.filter fun e => !acq && !e.meets pa n).map fun e => { e with passed := true }

/-- The slot after a store of its own has performed at an address: no early load of those bytes stands, and the others it
has passed (R224, R232). -/
def Slot.performed (t : Slot) (pa n : Nat) : Slot :=
  if t.early.isEmpty then t
  else { t with early := (t.early.filter (!·.meets pa n)).map fun e => { e with past := pa :: e.past } }

/-- The early load that a load of `n` bytes at a place takes: the oldest of exactly these bytes. It has passed those that
are older. -/
def Slot.takeEarly (t : Slot) (p : Place) (n : Nat) (acq : Bool) : Option (List Byte × Slot) :=
  match t.early.findIdx? fun e => e.place = p && e.data.length = n with
  | none => none
  | some k =>
    match t.early[k]? with
    | none => none
    | some e =>
      some (e.data, { t with early := passEarlies (t.early.take k) p.pa n acq ++ t.early.drop (k + 1) })

/-! ## The way to a place: routes, macros that sleep (R116, R118, R314) -/

/-- Whether no route maps a device onto a port (R314): what is sent there waits. -/
def State.unrouted (s : State) (d : Nat) : Bool := d ≠ 0 && (Tbl.get [] s.routes d).isEmpty

/-- Whether an access must wait on its way: for a macro to wake, or for a route to the device. -/
def State.asleep (s : State) (pa : Nat) : Bool :=
  (devOf pa = 0 && spaceOf pa = 2 && (s.mac (spadFacet pa) (macroOf pa)).ret ≠ .awake) || s.unrouted (devOf pa)

/-- Whether an address lies on a device that was declared unreachable (R318). -/
def State.cutOff (s : State) (pa : Nat) : Bool := devOf pa ≠ 0 && s.unreachable.contains (devOf pa)

/-- Whether a write meets a macro that is LOADING or STATIONARY (R110, R171). What a macro of another device is, its owner
says there, once it can be asked: a free value (R170, R228, R314; log 7). -/
def State.stationaryAt (s : State) (pa : Nat) : Bool :=
  spaceOf pa = 2 && (if devOf pa = 0 then (s.mac (spadFacet pa) (macroOf pa)).st ≠ .data
    else !s.cutOff pa && !s.unrouted (devOf pa) && Config.freePick s.tick (2 ^ 65 + pa) % 2 = 1)

/-- The running instruction waits on the translation of an address (R74), and asks for no walk while it must wait for a
store to a page table (R76). -/
def State.waitOn (s : State) (va : Nat) : State :=
  if s.here.walkHeld s.myCore then s
  else
    (s.missOn s.myFacet s.myCtx va).setHere { (s.missOn s.myFacet s.myCtx va).here with wait := some (va / 65536) }

/-! ## Loads -/

/-- Whether an arrival that slot `u` sent to a counter word of the range has not performed yet (R224, R266). -/
def State.arrivalAhead (s : State) (u pa n : Nat) : Bool :=
  s.arrivals.any fun r => r.src == u && meets r.pa 8 pa n

/-- Whether a store or AMO of slot `u` to a place waits for an earlier access of its own slot (R224). -/
def State.writeHeld (s : State) (u va pa n : Nat) : Bool :=
  let t := s.slot u
  t.sbuf.any (·.mayOverlap pa n) || t.replay.any (fun r => r.va / 65536 = va / 65536)
    || t.fencedStore (u / 4) || s.arrivalAhead u pa n

/-- What a load of the running instruction comes to: a state in which it waits or has trapped, or the state and the
bytes. -/
inductive Loaded where
  | out (s : State)
  | got (s : State) (b : List Byte)
deriving DecidableEq, Repr

/-- The access of a load at a place: it waits behind its own stores and for a sleeping macro; poison traps with the given
address in TVAL (R85, R106, R115, R116). -/
def State.loadNow (s : State) (va : Nat) (p : Place) (n : Nat) : Loaded :=
  if s.here.loadHeld s.myCore va p.pa n || s.arrivalAhead s.cur p.pa n then .out s
  else if s.asleep p.pa then .out (s.rouse s.myCtx p.pa)
  else
    let s1 := s.touch s.myCtx p.pa n
    if s1.poisoned p.pa n then .out (s1.trap causePoison (dw va)) else .got s1 (s1.rd p n)

/-- A load of the running slot performs now, `acq` an acquire: it passes the early loads. -/
def State.passEarly (s : State) (p : Place) (n : Nat) (acq : Bool) : State :=
  if s.here.early.isEmpty then s else s.setHere { s.here with early := passEarlies s.here.early p.pa n acq }

/-- The load at a place: what it read when it performed early, or its access now (R222, R225). -/
def State.loadPlace (s : State) (va : Nat) (p : Place) (n : Nat) (acq : Bool := false) : Loaded :=
  match s.here.takeEarly p n acq with
  | some (b, t) => .got (s.setHere t) b
  | none =>
    match s.loadNow va p n with
    | .out s' => .out s'
    | .got s1 b => .got (s1.passEarly p n acq) b

/-- A load of `n` bytes at a virtual address, `acq` an acquire: alignment, the fences before it, translation, watchpoint,
access (R106, R107, R239). -/
def State.load (s : State) (ea n : Nat) (acq : Bool := false) : Loaded :=
  if ea % n ≠ 0 then .out (s.trap causeAlign (dw ea))
  else if s.here.fencedLoad s.myCore then .out s
  else match s.look .load true ea with
    | .trap code => .out (s.trap code (dw ea))
    | .wait => .out (s.waitOn ea)
    | .ok p => if s.here.watched 0 ea n then .out (s.trap causeWatch (dw ea)) else s.loadPlace ea p n acq

/-! ## Stores -/

/-- The running slot with one more entry among its stores: no early load of the bytes of a store may stand behind it
(R224 item 1). -/
def State.pushStore (s : State) (e : SEntry) : State :=
  s.setHere ({ s.here with sbuf := s.here.sbuf ++ [e] }.dropEarly fun x => e.overlaps x.va x.place.pa x.data.length)

/-- The state in which the running instruction has completed. -/
def State.done (s : State) : State := s.setHere s.here.advance

/-- A store of the bytes at a virtual address (R75, R106, R237): it leaves the slot, translated or not, or parks behind
a parked store of its 64 KiB range. -/
def State.store (s : State) (ea : Nat) (d : List Byte) (kind : StoreKind) : State :=
  let t := s.here
  if ea % d.length ≠ 0 then s.trap causeAlign (dw ea)
  else if t.storeStalls s.myCore kind then s
  else if t.replay.any (fun r => r.va / 65536 = ea / 65536) then
    if t.replayFull then s
    else if t.watched 1 ea d.length then s.trap causeWatch (dw ea)
    else
      let r : Parked := { seq := s.tick, va := ea, data := d, kind := kind, cause := causePage }
      (s.setHere ({ t with replay := t.replay ++ [r] }.dropEarly fun x => meets ea d.length x.va x.data.length)).done
  else match s.xlate s.myFacet s.myCtx .store true ea with
    | .prot => s.trap causeProt (dw ea)
    | .page => s.trap causePage (dw ea)
    | .ok p =>
      if s.stationaryAt p.pa then s.trap causeStationary (dw ea)
      else if t.watched 1 ea d.length then s.trap causeWatch (dw ea)
      else (s.pushStore (.store s.tick ea (some p) d kind t.sup)).done
    | .miss =>
      if 16 ≤ t.awaiting || t.fencedStore s.myCore || t.walkHeld s.myCore then s
      else if t.watched 1 ea d.length then s.trap causeWatch (dw ea)
      else ((s.missOn s.myFacet s.myCtx ea).pushStore (.store s.tick ea none d kind t.sup)).done

/-! ## The replay queue (R237, R238) -/

/-- A walk again for a parked store or command: the cache, or the table as it stands (R75, R238). -/
def State.xlateAgain (s : State) (f c : Nat) (k : Kind) (near : Bool) (va : Nat) : Xlat :=
  match s.xlate f c k near va with
  | .miss =>
    match s.walkTable c (va / 65536) with
    | .fault => .page
    | .leaf big leaf =>
      match s.checkLeaf f c k near big leaf.toNat va with
      | some p => .ok p
      | none => .prot
  | r => r

/-- The parked stores of slot `u` walked again in program order: the stores that pass, and those that stay parked. -/
def State.replayList (s : State) (u : Nat) : List Parked → List SEntry × List Parked → List SEntry × List Parked
  | [], acc => acc
  | r :: t, (ok, stay) =>
    if stay.any (fun q => q.va / 65536 = r.va / 65536) then s.replayList u t (ok, stay ++ [r])
    else match s.xlateAgain (u / 256) (s.ctxOf u) .store true r.va with
      | .ok p =>
        if s.stationaryAt p.pa then s.replayList u t (ok, stay ++ [{ r with cause := causeStationary }])
        else s.replayList u t (ok ++ [.store r.seq r.va (some p) r.data r.kind false], stay)
      | .prot => s.replayList u t (ok, stay ++ [{ r with cause := causeProt }])
      | .page | .miss => s.replayList u t (ok, stay ++ [{ r with cause := causePage }])

/-- The codes of the page table entries checked that walks at once of these pages read (R84). -/
def State.walksTouch (s : State) (c : Nat) (l : List Nat) : State := l.foldl (fun s va => s.walkTouch c (va / 65536)) s

/-- The replay of R238: stores that pass leave the slot again, at their place in program order; one that stays parked is
due. -/
def State.replay (s0 : State) (u : Nat) : State :=
  let s := s0.walksTouch (s0.ctxOf u) ((s0.slot u).replay.map (·.va))
  let t := s.slot u
  let r := s.replayList u t.replay ([], [])
  s.setSlot u { t with sbuf := r.1.foldl (fun l e => insertEntry e l) t.sbuf, replay := r.2, dueStore := !r.2.isEmpty }

/-- Entry `k` of the stores on their way parked in program order; it stays while the replay queue is full (R237). -/
def Slot.parkOne (t : Slot) (k seq va : Nat) (d : List Byte) (kind : StoreKind) (cause : Nat) : Slot :=
  if t.replayFull then t
  else
    { t with
      sbuf := dropAt t.sbuf k
      replay := insertParked { seq := seq, va := va, data := d, kind := kind, cause := cause } t.replay
      dueStore := true }

/-- Whether an entry is a store to a 64 KiB range that is younger than a given one. A committed lane has left for its
owner and is none of these (R170). -/
def SEntry.follows (seq va : Nat) : SEntry → Bool
  | .store n w _ _ k _ => seq < n && w / 65536 == va / 65536 && k != .lane
  | .fence _ _ _ | .fenceX _ => false

/-- The younger stores to the 64 KiB range of a parked store parked behind it, in program order, with fuel (R237). -/
def Slot.parkBehind (t : Slot) (seq va : Nat) : Nat → Slot
  | 0 => t
  | fuel + 1 =>
    match t.sbuf.findIdx? (SEntry.follows seq va) with
    | none => t
    | some k =>
      match t.sbuf[k]? with
      | some (.store n w _ d i _) => (t.parkOne k n w d i causePage).parkBehind seq va fuel
      | _ => t

/-- A store that missed and whose walk ended in a fault, or that met a stationary macro, parked in program order, and
behind it the younger stores of its range (R75, R237). -/
def Slot.park (t : Slot) (k seq va : Nat) (d : List Byte) (kind : StoreKind) (cause : Nat) : Slot :=
  if t.replayFull then t else (t.parkOne k seq va d kind cause).parkBehind seq va t.sbuf.length

/-- Whether a matrix command begins when it goes on: it has done nothing yet, or it is a TLW that a pre-emption has abandoned,
which marks it by its `rpos` (R187). -/
def Cmd.begins (c : Cmd) : Bool :=
  0x10 ≤ bits c.word.toNat 255 248 && ((c.pos = 0 && c.todo.isEmpty) || (bits c.word.toNat 255 248 = 0x10 && c.rpos ≠ 0))

/-- A command parked on PAGE walks again (R75, R286): a copy goes on, and a matrix command that has done nothing yet, or that
starts again whole, begins anew. -/
def Cmd.again (c : Cmd) : Cmd :=
  if c.phase = .parked then { c with phase := if c.begins then .queued else .started, fault := none, wait := none } else c

/-- A whole macro zeroed and returned to DATA (R175, R187). -/
def State.wipeMacro (s : State) (f m : Nat) : State :=
  let s1 := s.zeroRange (spadAddr f (65536 * m)) 65536
  s1.setMac f m (s1.mac f m).toData

/-- The macro that a begun TLW loads: the command keeps it, plus one, as its progress. -/
def Cmd.loads (c : Cmd) : Option Nat :=
  if bits c.word.toNat 255 248 ≠ 0x10 || c.pos = 0 then none else some (c.pos - 1)

/-- An index creation parked on PAGE walks again. -/
def IxReq.again (r : IxReq) : IxReq := { r with fault := none }

/-- Each engine command of the slot parked on PAGE walks again; their due traps go with the faults. -/
def Slot.rewalk (t : Slot) : Slot :=
  { t with
    cpq := t.cpq.map Cmd.again, mxq := t.mxq.map Cmd.again, ixq := t.ixq.map IxReq.again, duePage := [] }

/-- Whether a CODEPUB request was sent by slot `u` for the context that runs there, and is parked on PAGE. -/
def State.codeParked (s : State) (u : Nat) (r : CodeReq) : Bool := r.slot == u && r.ctx == s.ctxOf u && r.parked

/-- The parked CODEPUB requests of a slot walk again. -/
def State.rewalkCode (s : State) (u : Nat) : State :=
  { s with codeReqs := s.codeReqs.map fun r => if s.codeParked u r then { r with parked := false } else r }

/-! ## Starting and retiring a task -/

/-- The registers of a task at its start (R22): the header in s24, the arguments in s25 to s31, every other register of
the slot zero, and the control registers that R61 gives a value. -/
def Slot.taskRegs (t : Slot) (m : Msg) : Slot :=
  { t with
    regs := Vector.ofFn fun i =>
      if i.val = 24 then m.hdr else if 25 ≤ i.val then m.args.getD (i.val - 25) 0 else 0
    v := Vector.replicate 32 0
    p := Vector.replicate 7 0
    m := Vector.replicate 8 0
    fpctl := 0, mxcfg := 0, sca := 0, scb := 0, swin := 0
    pend := [], sup := false, busy := true, start := false, conv := false, leaving := false, allow := 32
    early := []
    hdr := m.hdr
    joinRef := if hdrJoin m.hdr.toNat then m.joinRef else 0
    keys := m.keyList
    pendJoin := none, ixo := [], sso := [], bell := none, wait := none, xf := none, examined := false }

/-- Step 3 of R253 for slot `u`: the start address read from the handler table, or the trap before any instruction, which
sets the START mark. A continuation starts at 4·RESUME. -/
def State.startAt (s0 : State) (u : Nat) : State :=
  let t := s0.slot u
  let h := t.hdr.toNat
  if hdrCont h then s0.setSlot u { t with pc := dw (4 * hdrResume h) }
  else
    let c := s0.ctxOf u
    let va := ((s0.core (u / 4)).htab + dw (8 * hdrHandler h)).toNat
    let s := s0.walkTouch c (va / 65536)
    if va % 8 ≠ 0 then s0.trapAt u causeAlign (dw va) 0 true
    else match s.xlateAgain (u / 256) c .load true va with
    | .page | .miss => s.trapAt u causePage (dw va) 0 true
    | .prot => s.trapAt u causeProt (dw va) 0 true
    | .ok p =>
      let s1 := (s.wakeNow c p.pa).touch c p.pa 8
      if s1.poisoned p.pa 8 then s1.trapAt u causePoison (dw va) 0 true
      else
        let x := s1.rdNat p 8
        if x = 0 || bits x 63 56 ≠ 0 then s1.trapAt u causeProt t.hdr 0 true
        else if x % 4 ≠ 0 then s1.trapAt u causeAlign (dw x) 0 true
        else s1.setSlot u { t with pc := dw x }

/-- The end of a return, once the parked stores have walked again (R286): where one of them stays parked its trap is due, with
the program counter at EPC, so that the handler is entered anew with EPC and the START mark as they were; else the parked
commands walk again, and the slot goes on at EPC, or starts anew. -/
def State.afterReplay (s : State) (u : Nat) : State :=
  let t := s.slot u
  if t.dueStore then s.setSlot u { t with pc := t.epc }
  else
    let s1 := (s.setSlot u t.rewalk).rewalkCode u
    if t.start then s1.startAt u else s1.setSlot u { s1.slot u with pc := t.epc }

/-- The return from a trap handler, once its hold is released and nothing of the bank is pending: the level returns to TASK,
and the parked stores walk again in program order before anything else (R286). -/
def State.returnFrom (s : State) (u : Nat) : State :=
  ((s.setSlot u { s.slot u with sup := false, leaving := false, wait := none, xf := none }).replay u).afterReplay u

/-- A task started on slot `u` from a message or continuation (R22, R253). -/
def State.startTask (s : State) (u : Nat) (m : Msg) : State :=
  (s.setSlot u ((s.slot u).taskRegs m)).startAt u

/-- What ARRIVE checks of a join reference (R266): the place of the record, or the trap and its TVAL. -/
inductive JoinCheck where
  | ok (p : Place)
  | trap (code : Nat) (tval : Dword)
deriving DecidableEq, Repr

/-- The check of R266 for a reference of slot `u`, by a walk at once. -/
def State.joinCheck (s : State) (f c : Nat) (ref : Dword) : JoinCheck :=
  let a := ref.toNat / 8 * 8
  if 4 < bits ref.toNat 2 0 then .trap causeProt ref
  else match s.xlateAgain f c .store false a with
    | .ok p => if spaceOf p.pa = 1 then .ok p else .trap causeProt (dw a)
    | .prot => .trap causeProt (dw a)
    | .page | .miss => .trap causePage (dw a)

/-- The key releases of a task on their way (R263). -/
def State.releaseKeys (s : State) (c : Nat) (keys : List Nat) : State :=
  { s with keyRels := s.keyRels ++ keys.map fun k => { ctx := c, key := k } }

/-- One arrival on its way to a join record (R266). -/
def State.sendArrival (s : State) (c u pa : Nat) : State :=
  { s with arrivals := s.arrivals ++ [{ ctx := c, pa := pa, src := u }] }

/-- The end of a task: its slot is free; the stores it issued keep performing (R132). -/
def Slot.ended (t : Slot) : Slot :=
  { t with
    busy := false, sup := false, start := false, conv := false, leaving := false, early := [], ixo := [], sso := []
    pendJoin := none, keys := [], hold := false, block := none, bell := none, wait := none, xf := none
    examined := false }

/-- The scope that a code of R19 names, 5 to 7 read as SYS. -/
def scopeCode (n : Nat) : Scope :=
  match n with
  | 0 => .core | 1 => .facet | 2 => .prism | 3 => .dev | _ => .sys

end Sys2Proof.Machine
end

