-- ==== Sys2Proof/Machine/Operands.lean ====
section
/-!
DEFINITION. Operand forms: immediates and offsets (R35, R123 to R125), jump targets (R126 to R128), the scoreboard's
checks of sources and destinations (R100, R120), vector lanes and predicates (R24, R153 to R155).
-/

namespace Sys2Proof.Machine

/-- A 16-bit immediate or offset, sign-extended (R35, R123). -/
def imm16 (i : BitVec 16) : Dword := i.signExtend 64

/-- The byte offset of a word offset of format B (R35, R126). -/
def off16 (o : BitVec 16) : Dword := o.signExtend 64 <<< 2

/-- The byte offset of a word offset of format J (R35, R127). -/
def off21 (o : BitVec 21) : Dword := o.signExtend 64 <<< 2

/-- The effective address of format M: S[a] + SInt(offset, 16), kept to 64 bits (R106). -/
def Slot.ea (t : Slot) (a : Reg) (o : BitVec 16) : Nat := (t.s a.toNat + imm16 o).toNat

/-- Whether a source register is pending, so that the instruction stalls (R120). -/
def Slot.srcPend (t : Slot) (l : List Reg) : Bool := l.any fun a => t.isPend a.toNat

/-- The scalar registers that an instruction reads; of the token of WTOK and TOKQ, see R99 (R120). -/
def sources : Instr → List Reg
  | .add _ a b | .sub _ a b | .and _ a b | .or _ a b | .xor _ a b | .andn _ a b | .sll _ a b | .srl _ a b | .sra _ a b
  | .slt _ a b | .sltZ _ a b | .seq _ a b | .min _ a b | .max _ a b | .minZ _ a b | .maxZ _ a b
  | .mul _ a b | .mulh _ a b | .mulhZ _ a b | .div _ a b | .divZ _ a b | .rem _ a b | .remZ _ a b => [a, b]
  | .clz _ a | .popc _ a => [a]
  | .addImm _ a _ | .andImm _ a _ | .orImm _ a _ | .xorImm _ a _ | .sltImm _ a _ | .sltZImm _ a _ | .lsi _ a _
  | .sllImm _ a _ | .srlImm _ a _ | .sraImm _ a _ | .jalr _ a _ => [a]
  | .beq a b _ | .bne a b _ | .blt a b _ | .bge a b _ | .bltZ a b _ | .bgeZ a b _ => [a, b]
  | .codepub _ a b => [a, b]
  | .ldB _ a _ | .ldH _ a _ | .ldW _ a _ | .ldD _ a _ | .ldBz _ a _ | .ldHz _ a _ | .ldWz _ a _ | .vld _ a _
  | .vst _ a _ | .ldaW _ a | .ldaD _ a | .tagl _ a | .tagi a | .retx a => [a]
  | .stB d a _ | .stH d a _ | .stW d a _ | .stD d a _ | .stlW d a | .stlD d a => [a, d]
  | .vldsH _ a b | .vldsW _ a b | .tags a b => [a, b]
  | .amoAdd _ a b _ _ _ | .amoAnd _ a b _ _ _ | .amoOr _ a b _ _ _ | .amoXor _ a b _ _ _ | .amoMin _ a b _ _ _
  | .amoMax _ a b _ _ _ | .amoMinZ _ a b _ _ _ | .amoMaxZ _ a b _ _ _ | .amoXchg _ a b _ _ _
  | .amoFaddF32 _ a b _ _ | .amoXadd _ a b _ _ => [a, b]
  | .amoCas d a b _ _ _ => [a, b, d]
  | .vbc _ a _ _ | .vgth _ a _ _ _ | .vsct _ a _ _ _ => [a]
  | .enq a _ => [a, a + 1, a + 2, a + 3]
  | .wtok a | .tokq _ a => [a]
  | .mvm _ a | .send _ a | .sendh _ a | .arrive a | .arriveRlx a | .migr a _ => [a]
  | .jinit a b => [a, b]
  | .ixnew _ a | .ixdel _ a | .ixstat _ a => [a]
  | .stv _ a b | .ldn _ a b => [a, b, b + 1]
  | .ctlrSpace _ a _ => [a]
  | .ctlw d _ => [d]
  | .ctlwSpace d a _ => [a, d]
  | .li _ _ | .jal _ _ | .nop | .endTask | .eret | .ifence | .waiti | .trap _ | .fence _ _ | .fenceX
  | .vadd _ _ _ _ _ | .vsub _ _ _ _ _ | .vmul _ _ _ _ _ | .vfma _ _ _ _ _ | .vmin _ _ _ _ _ | .vmax _ _ _ _ _
  | .vabs _ _ _ _ | .vneg _ _ _ _ | .vand _ _ _ _ _ | .vor _ _ _ _ _ | .vxor _ _ _ _ _ | .vsll _ _ _ _ _
  | .vsrl _ _ _ _ _ | .vsra _ _ _ _ _ | .vsel _ _ _ _ _ | .vexp2 _ _ _ _ | .vlog2 _ _ _ _ | .vrcp _ _ _ _
  | .vrsq _ _ _ _ | .vredAdd _ _ _ _ | .vredMin _ _ _ _ | .vredMax _ _ _ _ | .vdot _ _ _ _ _ | .vsqd _ _ _ _
  | .vcmp _ _ _ _ _ _ | .vcvt _ _ _ _ _ | .vxl _ _ _ _ _ | .vperm _ _ _ _ _ | .vnzs _ _ _ _ _ | .deq _ _
  | .spawn _ | .susp _ | .ctlr _ _ => []
  | .cpy _ | .cpyg _ | .cpys _ | .cpyf _ | .stga _ | .delivery _ _ _ _ | .tlw _ | .trel _ | .tmm _ | .tmmb _ | .tacz _
  | .tacs _ | .tdot _ | .sseed _ | .sgen _ | .sand _ | .sor _ | .smux _ | .snot _ | .sreg _ | .scnt _
  | .indexCreate _ _ | .indexDelete _ _ | .indexStatus _ _ | .insert _ _ | .acceptance _ _ | .ixoPush _ _
  | .perform _ _ | .walk _ | .walkResult _ _ | .xinv _ | .invalidationDone | .regionLen _ _ _ | .claimed _ _ _
  | .cancel _ _ _ | .retcfg _ _ | .idleCountExpiry _ _ | .enteringEnd _ _ | .exitingEnd _ _ | .patrolScrub _
  | .rel _ _ | .lqctl _ _ | .launch _ | .launchForward _ | .messageArrival _ | .dispatch _ | .stealRequest _ | .steal _
  | .stealReply _ | .stealWaitExpiry _ | .keyRequest _ | .keyRelease _ | .joinArrival _ | .increment _ | .trapEntry _
  | .preempt _ | .kill _ | .free _ | .sliceExpiry _ | .switchOut _ | .placement _ | .unreachable _
  | .adapterBulk _ _ _ _ _ _ | .reset _ | .railFault | .throttle | .trip | .session _ _ _ | .mgmtControlAccess _ _ _
  | .mgmtHbmAccess _ _ _ _ | .attestation _ | .imageLoad _ _ | .svnRaise _ | .keySlotLoad _ | .keySlotReplace _
  | .registerWrite _ _ | .illegalWord _ | .codepubRequest _ | .routeWrite _ _ | .throttleEnd => []

/-- What reading registers acquires: a read token stands for the bytes of the deliveries it counted, and no early load of
them may be used by a later instruction (R87, R94, R99, R226). An instruction reads once none of its sources is pending; of
TOKQ, one that writes 0 (log 5). -/
def Slot.acquire (t : Slot) (l : List Reg) : Slot :=
  if t.srcPend l then t else t.dropEarly fun e => l.any fun a => e.behind.contains (t.regNo a.toNat)

/-- The state in which the running instruction has read its sources. -/
def State.readSources (s : State) (i : Instr) : State :=
  if s.here.early.isEmpty then s else s.setHere (s.here.acquire (sources i))

/-- The trap of a write to a pending register (R100). -/
def State.clobber (s : State) (d : Nat) : State := s.trap causeClobber (dw d)

/-- A scalar instruction of chapter 7: sources are read first and stall it, then the destination is checked, then S[d]
receives the result (R120, R121). -/
def State.scalar (s : State) (src : List Reg) (d : Reg) (r : Slot → Dword) : Out :=
  let t := s.here
  if t.srcPend src then s.stall
  else if t.isPend d.toNat then .next (s.clobber d.toNat)
  else .next (s.setHere ((t.setS d.toNat (r t)).advance))

/-- A branch: it writes no register and never traps (R126). -/
def State.branch (s : State) (a b : Reg) (o : BitVec 16) (taken : Dword → Dword → Bool) : Out :=
  let t := s.here
  if t.srcPend [a, b] then s.stall
  else if taken (t.s a.toNat) (t.s b.toNat) then .next (s.setHere (t.goto (t.pc + off16 o)))
  else .next (s.setHere t.advance)

/-! ## Vector lanes (R24) -/

/-- Lane `i` of width `w` of a vector register. -/
def lane (x : Vec) (i w : Nat) : Nat := bits x.toNat (i * w + w - 1) (i * w)

/-- The number whose `n` lanes of width `w` a function gives. -/
def lanesNat (w : Nat) (f : Nat → Nat) : Nat → Nat
  | 0 => 0
  | n + 1 => lanesNat w f n + (f n % 2 ^ w) * 2 ^ (n * w)

/-- A vector register from `n` lanes of width `w`; the bits above are zero. -/
def ofLanes (w n : Nat) (f : Nat → Nat) : Vec := BitVec.ofNat 256 (lanesNat w f n)

/-- Act(p, i, w): the lane's lowest byte decides (R21, R153). -/
def active (p : BitVec 32) (i w : Nat) : Bool := p.getLsbD (i * (w / 8))

end Sys2Proof.Machine
end

