-- ==== Sys2Proof/Machine/LoadStore.lean ====
section
/-!
DEFINITION. Scalar and vector loads and stores, acquire loads and release stores, the tag table and RETX (R104 to R113,
R118).
-/

namespace Sys2Proof.Machine

/-- A value read, sign-extended from `n` bytes. -/
def signed (n : Nat) (b : List Byte) : Dword := BitVec.ofInt 64 (sint (ofBytes b) (8 * n))

/-- A value read, zero-extended. -/
def unsigned (b : List Byte) : Dword := dw (ofBytes b)

/-- A scalar load of `n` bytes at an effective address; `r` makes the register's value, and `acq` marks an acquire
(R106, R107). Pending(d) is tested before S[a] is read, as the pseudocode of R106 has it (R8; DEDUCED, log 66: R120, which
has sources read first, is of the instructions of its own chapter). -/
def State.scalarLoad (s : State) (d a : Reg) (ea : Slot → Nat) (n : Nat) (r : List Byte → Dword) (acq : Bool := false) :
    Out :=
  let t := s.here
  if t.isPend d.toNat then .next (s.clobber d.toNat)
  else if t.srcPend [a] then s.stall
  else match s.load (ea t) n acq with
    | .out s' => .next s'
    | .got s1 b => .next (s1.setHere ((s1.here.setS d.toNat (r b)).advance))

/-- A scalar store of the low `n` bytes of S[d] (R106). -/
def State.scalarStore (s : State) (d a : Reg) (ea : Slot → Nat) (n : Nat) (kind : StoreKind) : Out :=
  let t := s.here
  if t.srcPend [a, d] then s.stall
  else .next (s.store (ea t) (toBytes (t.s d.toNat).toNat n) kind)

def execLdB (d a : Reg) (o : BitVec 16) (s : State) : Out := s.scalarLoad d a (·.ea a o) 1 (signed 1)
def execLdH (d a : Reg) (o : BitVec 16) (s : State) : Out := s.scalarLoad d a (·.ea a o) 2 (signed 2)
def execLdW (d a : Reg) (o : BitVec 16) (s : State) : Out := s.scalarLoad d a (·.ea a o) 4 (signed 4)
def execLdD (d a : Reg) (o : BitVec 16) (s : State) : Out := s.scalarLoad d a (·.ea a o) 8 unsigned
def execLdBz (d a : Reg) (o : BitVec 16) (s : State) : Out := s.scalarLoad d a (·.ea a o) 1 unsigned
def execLdHz (d a : Reg) (o : BitVec 16) (s : State) : Out := s.scalarLoad d a (·.ea a o) 2 unsigned
def execLdWz (d a : Reg) (o : BitVec 16) (s : State) : Out := s.scalarLoad d a (·.ea a o) 4 unsigned
def execStB (d a : Reg) (o : BitVec 16) (s : State) : Out := s.scalarStore d a (·.ea a o) 1 .plain
def execStH (d a : Reg) (o : BitVec 16) (s : State) : Out := s.scalarStore d a (·.ea a o) 2 .plain
def execStW (d a : Reg) (o : BitVec 16) (s : State) : Out := s.scalarStore d a (·.ea a o) 4 .plain
def execStD (d a : Reg) (o : BitVec 16) (s : State) : Out := s.scalarStore d a (·.ea a o) 8 .plain

/-- VLD (R108). -/
def execVld (d a : Reg) (o : BitVec 16) (s : State) : Out :=
  let t := s.here
  if t.srcPend [a] then s.stall
  else match s.load (t.ea a o) 32 with
    | .out s' => .next s'
    | .got s1 b => .next (s1.setHere ((s1.here.setV d.toNat (BitVec.ofNat 256 (ofBytes b))).advance))

/-- VST (R108). -/
def execVst (d a : Reg) (o : BitVec 16) (s : State) : Out :=
  let t := s.here
  if t.srcPend [a] then s.stall
  else .next (s.store (t.ea a o) (toBytes (t.vreg d.toNat).toNat 32) .plain)

/-! ## Acquire loads and release stores (R107) -/

/-- The address S[a]. -/
def Slot.base (t : Slot) (a : Reg) : Nat := (t.s a.toNat).toNat

def execLdaW (d a : Reg) (s : State) : Out := s.scalarLoad d a (·.base a) 4 (signed 4) true
def execLdaD (d a : Reg) (s : State) : Out := s.scalarLoad d a (·.base a) 8 unsigned true
def execStlW (d a : Reg) (s : State) : Out := s.scalarStore d a (·.base a) 4 .release
def execStlD (d a : Reg) (s : State) : Out := s.scalarStore d a (·.base a) 8 .release

/-! ## Loads ahead of their instructions (R225) -/

/-- The sizes of the loads. -/
def loadSize (n : Nat) : Bool := n == 1 || n == 2 || n == 4 || n == 8 || n == 32

/-- Whether no error that has struck the bytes at an address waits to be found. -/
def State.untouched (s : State) (pa n : Nat) : Bool := (unitsOf pa n).all fun u => Tbl.get 0 s.latent u = 0

/-- A load of slot `u` performs before its instruction issues, where nothing that the slot has issued orders it; its
instruction may take what it read. Where the translation cache lacks its page it asks for the walk, and may perform once
the leaf is there (R73, R224, R225; log 5). -/
def State.readEarly (s : State) (u va n : Nat) : State :=
  let t := s.slot u
  if !(t.busy && loadSize n && va % n = 0) then s
  else match s.xlate (u / 256) (s.ctxOf u) .load false va with
    | .ok p =>
      if t.loadHeld (u / 4) va p.pa n || s.arrivalAhead u p.pa n || s.cutOff p.pa || s.asleep p.pa
          || s.poisoned p.pa n || !s.untouched p.pa n then s
      else s.setSlot u { t with early := t.early ++ [{ va := va, place := p, data := s.rd p n, past := [], passed := false
                                                       born := s.tick, behind := [] }] }
    | .miss => if t.walkHeld (u / 4) then s else s.missOn (u / 256) (s.ctxOf u) va
    | .prot | .page => s

/-! ## The tag table (R111 to R113) -/

/-- Entry `n` of a facet's tag table. -/
def Facet.tag (x : Facet) (n : Nat) : Dword := Tbl.get 0 x.tags n
def Facet.setTag (x : Facet) (n : Nat) (v : Dword) : Facet := { x with tags := Tbl.set x.tags n v }

/-- LINE of a tag entry, and the entry that binds a line (R111). -/
def tagLine (v : Dword) : Nat := bits v.toNat 43 0
def tagEntry (c line : Nat) : Dword := dw (2 ^ 63 + c * 2 ^ 54 + line)

/-- A tag entry with VALID cleared. -/
def tagDrop (v : Dword) : Dword := v &&& 0x7FFFFFFFFFFFFFFF

/-- Whether a tag entry binds a line of a context. -/
def tagBinds (c line : Nat) (v : Dword) : Bool := tagValid v && tagCtx v == c && tagLine v == line

/-- The line of a virtual address (R111). -/
def lineOf (va : Nat) : Nat := bits va 55 12

/-- TAGL: −1 for an address that no entry of the context binds; one that returns an entry acquires (R112, R226). Pending(d)
is tested first, as its pseudocode has it (R8; DEDUCED, log 66). -/
def execTagl (d a : Reg) (s : State) : Out :=
  let t := s.here
  if t.isPend d.toNat then .next (s.clobber d.toNat)
  else if t.srcPend [a] then s.stall
  else
    let va := t.base a
    let x := s.facet s.myFacet
    let n := if bits va 63 56 ≠ 0 then none
      else (List.range 256).find? fun i => tagBinds s.myCtx (lineOf va) (x.tag i)
    let t1 := if n.isSome then t.dropEarly fun _ => true else t
    .next (s.setHere ((t1.setS d.toNat (match n with | some n => dw n | none => -1)).advance))

/-- Whether entry `n` is valid in another context. -/
def State.tagForeign (s : State) (n : Nat) : Bool :=
  let v := (s.facet s.myFacet).tag n
  tagValid v && tagCtx v != s.myCtx

/-- TAGS: binds entry S[b] to the line of S[a] and unbinds the line's other entries (R112, R113). -/
def execTags (a b : Reg) (s : State) : Out :=
  let t := s.here
  let va := t.base a
  let n := t.base b
  if t.srcPend [a, b] || !t.replay.isEmpty then s.stall
  else if bits va 63 56 ≠ 0 then .next (s.trap causeProt (dw va))
  else if 255 < n || s.tagForeign n then .next (s.trap causeProt (dw n))
  else if (s.mac s.myFacet (n / 16)).st ≠ .data then .next (s.trap causeStationary (dw n))
  else if t.releaseHeld .facet s.myCore then s.stall
  else
    let x := s.facet s.myFacet
    let cleared := x.tags.map fun e =>
      if tagBinds s.myCtx (lineOf va) e.2 then (e.1, tagDrop e.2) else e
    .next (s.setFacet s.myFacet (({ x with tags := cleared } : Facet).setTag n (tagEntry s.myCtx (lineOf va)))).done

/-- TAGI: invalidates entry S[a] (R112, R113). -/
def execTagi (a : Reg) (s : State) : Out :=
  let t := s.here
  let n := t.base a
  if t.srcPend [a] then s.stall
  else if 255 < n || s.tagForeign n then .next (s.trap causeProt (dw n))
  else if t.releaseHeld .facet s.myCore then s.stall
  else
    let x := s.facet s.myFacet
    .next (s.setFacet s.myFacet (if tagValid (x.tag n) then x.setTag n (tagDrop (x.tag n)) else x)).done

/-- RETX: wakes the macro of an address of the own scratchpad (R118). R171 counts a LOADING macro as stationary for R110, R112,
R114 and R116, and R118 does not say which row of its table holds for one: DESIGN CHOICE, log 82: that of a stationary one. -/
def execRetx (a : Reg) (s : State) : Out :=
  let t := s.here
  let va := t.base a
  if t.srcPend [a] then s.stall
  else match s.look .load true va with
    | .trap code => .next (s.trap code (dw va))
    | .wait => .next (s.waitOn va)
    | .ok p =>
      if spaceOf p.pa ≠ 2 then .next (s.trap causeProt (dw va))
      else if s.stationaryAt p.pa then .next s.done
      else .next (s.rouse s.myCtx p.pa).done

end Sys2Proof.Machine
end

