-- ==== Sys2Proof/Machine/Queue.lean ====
section
/-!
DEFINITION. The instructions of the engine queues (R55 to R58, R96 to R100) and of the proximity index at issue (R207).
-/

namespace Sys2Proof.Machine

/-! ## Tile command words (R55) -/

/-- Bits `[hi:lo]` of a tile command word. -/
def wf (w : Tile) (hi lo : Nat) : Nat := bits w.toNat hi lo

def wOpc (w : Tile) : Nat := wf w 255 248
def wToken (w : Tile) : Nat := wf w 247 243
def wScope (w : Tile) : Nat := wf w 242 240

/-- The tile command word in S[a] to S[a+3] (R55). -/
def Slot.tile (t : Slot) (a : Nat) : Tile :=
  BitVec.ofNat 256 ((t.s a).toNat + (t.s (a + 1)).toNat * 2 ^ 64 + (t.s (a + 2)).toNat * 2 ^ 128
    + (t.s (a + 3)).toNat * 2 ^ 192)

/-- Whether a command captures vector registers: a TMM or TMMB with ASRC = 1 (R181). -/
def capturesV (q : Nat) (w : Tile) : Bool := q == 1 && (wOpc w == 0x12 || wOpc w == 0x13) && wf w 169 169 == 1

/-- A command as ENQ pushes it, with its captures (R62, R97, R181). -/
def Slot.capture (t : Slot) (q : Nat) (w : Tile) : Cmd where
  word := w
  mxcfg := t.mxcfg
  sca := t.sca
  scb := t.scb
  fpctl := t.fpctl
  swin := t.swin
  vcap := Vector.ofFn fun i =>
    if capturesV q w && wf w 4 0 + i.val ≤ 31 then t.vreg (wf w 4 0 + i.val) else 0
  tok := t.regNo (wToken w)
  phase := .queued
  pos := 0
  out := []
  todo := []
  rpos := 0
  ending := 0
  hbase := 0
  howner := 0
  poisoned := false
  status := 0
  wait := none
  fault := none
  start := none

/-- Whether an ENQ to SSQ pushes a bypass command: the handler of a held SSQ (R199). -/
def Slot.bypassing (t : Slot) (q : Nat) : Bool := q == 2 && t.hold && t.sup

/-- Full(Queue(q)) (R57); a bypass command waits until the one before it has started (R199). -/
def Slot.queueFull (t : Slot) (q : Nat) : Bool :=
  match q with
  | 0 => 16 ≤ t.cpq.length
  | 1 => 8 ≤ t.mxq.length
  | _ => if t.bypassing q then !t.bypass.isEmpty else 8 ≤ t.ssq.length

/-- The slot with a command pushed. -/
def Slot.pushCmd (t : Slot) (q : Nat) (c : Cmd) : Slot :=
  match q with
  | 0 => { t with cpq := t.cpq ++ [c] }
  | 1 => { t with mxq := t.mxq ++ [c] }
  | _ => if t.bypassing q then { t with bypass := t.bypass ++ [c] } else { t with ssq := t.ssq ++ [c] }

/-- Whether a command is an STGA, whose barrier ENQ examines (R96). -/
def isStage (q : Nat) (w : Tile) : Bool := q == 0 && wOpc w == 0x05

/-- Whether a barrier of the slot's facet holds an overrun of its context, for an STGA to CPQ (R96). -/
def State.stageOverrun (s : State) (q : Nat) (w : Tile) : Bool :=
  let b := (s.facet s.myFacet).bar (wf w 4 0)
  isStage q w && b.overrun && b.owner == some s.myCtx

/-- The state with an overrun cleared, as taking STAGE_OVERRUN leaves it. -/
def State.clearOverrun (s : State) (n : Nat) : State :=
  let x := s.facet s.myFacet
  s.setFacet s.myFacet (x.setBar n { x.bar n with overrun := false })

/-- ENQ (R97). It examines the barrier of an STGA once, before its Release: one that waits there has examined it, so that an
OVERRUN set meanwhile is left to the next STGA (R96). A trap or a pre-emption that it meets in the wait ends what was examined
(log 72). -/
def execEnq (a q : Reg) (s : State) : Out :=
  let t := s.here
  let w := t.tile a.toNat
  let n := q.toNat
  if t.srcPend [a, a + 1, a + 2, a + 3] then s.stall
  else if wToken w = 0 then .next (s.trap causeIllegal (wordOf (.enq a q)))
  else if t.isPend (wToken w) || t.queueFull n || !t.replay.isEmpty then s.stall
  else if !t.examined && s.stageOverrun n w then .next ((s.clearOverrun (wf w 4 0)).trap causeOverrun (dw (wf w 4 0)))
  else if t.releaseHeld (scopeCode (wScope w)) s.myCore || fenceXHeld t.sbuf false then
    .next (s.setHere { t with examined := isStage n w })
  else .next (s.setHere ((t.pushCmd n (t.capture n w)).addPend (t.regNo (wToken w))).advance)

/-- DEQ (R98): from IXO into a pair, from SSO into one register. A record of IXO acquires the release of the STV that inserted
its identity, and nothing else: the early loads that performed before it go (R217). An element of SSO acquires nothing
(R201). -/
def execDeq (d q : Reg) (s : State) : Out :=
  let t := s.here
  let n := d.toNat
  if t.isPend n then .next (s.clobber n)
  else if q.toNat = 4 then
    if t.isPend (n + 1) then .next (s.clobber (n + 1))
    else match t.ixo with
      | [] => s.stall
      | r :: rest =>
        let t1 := ({ t with ixo := rest } : Slot).dropEarly (·.born < r.rel)
        .next (s.setHere (((t1.setS n r.lo).setS (n + 1) r.hi).advance))
  else match t.sso with
    | [] => s.stall
    | x :: rest => .next (s.setHere ((({ t with sso := rest } : Slot).setS n x).advance))

/-- WTOK (R99); what it acquires is that of every instruction that reads the token (`State.readSources`). -/
def execWtok (a : Reg) (s : State) : Out := if s.here.isPend a.toNat then s.stall else .next s.done

/-- TOKQ (R99): it never stalls on S[a]; one that writes 0 acquires as WTOK does (`State.readSources`). -/
def execTokq (d a : Reg) (s : State) : Out :=
  s.scalar [] d fun t => if t.isPend a.toNat then 1 else 0

/-! ## The index instructions at issue (R207) -/

/-- Whether an index instruction waits at issue: its token, IXQ, the replay queue, its release, a FENCE.X. -/
def State.indexHeld (s : State) (d : Reg) : Bool :=
  let t := s.here
  t.isPend d.toNat || 8 ≤ t.ixq.length || !t.replay.isEmpty || t.releaseHeld .dev s.myCore || fenceXHeld t.sbuf false

/-- A request as it is sent in turn `rel`. -/
def ixReq (i : Instr) (a : Dword) (pv : Option Place) (y z : Dword) (blk : Vector Dword 4) (rel tok : Nat) : IxReq where
  word := encode i
  a := a
  pv := pv
  y := y
  z := z
  blk := blk
  tok := tok
  rel := rel
  phase := .queued
  saved := 0
  query := []
  walkSlot := 0
  snap := 0
  nr := 0
  vis := 0
  cands := []
  push := 0
  recs := []
  writes := []
  fault := none

/-- An index request sent: the token turns pending and the request enters IXQ. -/
def State.indexSend (s : State) (d : Reg) (r : Nat → IxReq) : Out :=
  let t := s.here
  if s.indexHeld d then s.stall
  else .next (s.setHere (({ t with ixq := t.ixq ++ [r (t.regNo d.toNat)] } : Slot).addPend (t.regNo d.toNat)).advance)

/-- The parameter block of IXNEW: `n` doubleword loads from an address. -/
def State.loadBlock (s : State) (ea : Nat) : Nat → Loaded
  | 0 => .got s []
  | n + 1 =>
    match s.load ea 8 with
    | .out s' => .out s'
    | .got s1 b =>
      match s1.loadBlock (ea + 8) n with
      | .out s' => .out s'
      | .got s2 t => .got s2 (b ++ t)

/-- IXNEW (R207). -/
def execIxnew (d a : Reg) (s : State) : Out :=
  let t := s.here
  let x := t.s a.toNat
  if t.srcPend [a] then s.stall
  else if x.toNat % 8 ≠ 0 then .next (s.trap causeAlign x)
  else match s.loadBlock x.toNat 4 with
    | .out s' => .next s'
    | .got s1 b =>
      s1.indexSend d (ixReq (.ixnew d a) x none 0 0 (Vector.ofFn fun i => dw (ofBytes ((b.drop (8 * i.val)).take 8)))
        s.tick)

/-- An index instruction that names a handle only. -/
def State.indexPlain (s : State) (i : Instr) (d a : Reg) : Out :=
  if s.here.srcPend [a] then s.stall
  else s.indexSend d (ixReq i (s.here.s a.toNat) none 0 0 (Vector.replicate 4 0) s.tick)

/-- STV and LDN: the address of the vector is translated at issue. -/
def State.indexPair (s : State) (i : Instr) (d a b : Reg) : Out :=
  let t := s.here
  let y := t.s b.toNat
  if t.srcPend [a, b, b + 1] then s.stall
  else if y.toNat % 4 ≠ 0 then .next (s.trap causeAlign y)
  else match s.look .load true y.toNat with
    | .trap code => .next (s.trap code y)
    | .wait => .next (s.waitOn y.toNat)
    | .ok p => s.indexSend d (ixReq i (t.s a.toNat) (some p) y (t.s (b.toNat + 1)) (Vector.replicate 4 0) s.tick)

def execIxdel (d a : Reg) (s : State) : Out := s.indexPlain (.ixdel d a) d a
def execStv (d a b : Reg) (s : State) : Out := s.indexPair (.stv d a b) d a b
def execLdn (d a b : Reg) (s : State) : Out := s.indexPair (.ldn d a b) d a b
def execIxstat (d a : Reg) (s : State) : Out := s.indexPlain (.ixstat d a) d a

end Sys2Proof.Machine
end

