-- ==== Sys2Proof/Machine/SaveLayout.lean ====
section
/-!
DEFINITION. The byte layout of slot, core, facet and macro records (R297, R298), as the doubleword at each offset, and
the state that doublewords give back. The live block of a slot shows the first half of its slot record (R294).
-/

namespace Sys2Proof.Machine

/-- Two 32-bit numbers as one doubleword. -/
def pair32 (lo hi : Nat) : Nat := lo % 2 ^ 32 + hi % 2 ^ 32 * 2 ^ 32

/-! ## The slot record, bytes 0x000 to 0x7FF -/

/-- The pending bits: bit n for sn, 33 to 39 for the bank. -/
def pendMask (l : List Nat) : Nat := l.foldl (fun m n => m ||| 2 ^ n) 0

/-- The doubleword at 0x110: LEVEL, TASK, HOLD, START, allowance, pending join valid. A slot in a conversion is at the
supervisor level, whose SUSP is issued again (R281, R286). -/
def Slot.flagsDw (t : Slot) : Nat :=
  b2n (t.sup || t.conv) + 2 * b2n t.busy + 4 * b2n t.hold + 8 * b2n t.start + t.allow * 2 ^ 8
    + b2n t.pendJoin.isSome * 2 ^ 16

/-- The counts at 0x240, one byte each. -/
def Slot.countsDw (t : Slot) : Nat :=
  t.cpq.length + t.mxq.length * 2 ^ 8 + t.ssq.length * 2 ^ 16 + t.ixq.length * 2 ^ 24 + t.ixo.length * 2 ^ 32
    + t.sso.length * 2 ^ 40 + t.replay.length * 2 ^ 48

/-- The control registers at 0x118. -/
def Slot.ctlDw (t : Slot) (i : Nat) : Dword :=
  match i with
  | 0 => t.fpctl | 1 => t.mxcfg | 2 => t.sca | 3 => t.scb | 4 => t.swin | 5 => t.tcause | 6 => t.tval | _ => t.epc

/-- The doubleword at offset `o` of the first half of the slot record. -/
def Slot.lowDw (t : Slot) (o : Nat) : Nat :=
  if o < 0x100 then (t.phys (o / 8)).toNat
  else if o = 0x100 then pendMask t.pend
  else if o = 0x108 then t.pc.toNat
  else if o = 0x110 then t.flagsDw
  else if 0x118 ≤ o && o < 0x158 then (t.ctlDw ((o - 0x118) / 8)).toNat
  else if o = 0x158 then t.hdr.toNat
  else if o = 0x160 then t.joinRef.toNat
  else if o = 0x168 then pair32 (t.keys.getD 0 0) (t.keys.getD 1 0)
  else if o = 0x170 then t.keys.getD 2 0
  else if o = 0x178 then (t.pendJoin.getD 0).toNat
  else if 0x188 ≤ o && o < 0x1C0 then (t.bank.getD ((o - 0x188) / 8) 0).toNat
  else if 0x1C0 ≤ o && o < 0x1E0 then
    pair32 (t.preg ((o - 0x1C0) / 4)).toNat (t.preg ((o - 0x1C0) / 4 + 1)).toNat
  else if 0x200 ≤ o && o < 0x240 then (t.m.getD ((o - 0x200) / 8) 0).toNat
  else if o = 0x240 then t.countsDw
  else if 0x400 ≤ o && o < 0x800 then
    bits (t.vreg ((o - 0x400) / 32)).toNat ((o % 32) * 8 + 63) ((o % 32) * 8)
  else 0

/-- A vector register with doubleword `i` replaced. -/
def setVecDw (x : Vec) (i v : Nat) : Vec := BitVec.ofNat 256 (setBits x.toNat (64 * i + 63) (64 * i) v)

/-- The slot after a write of a doubleword of its live block: the registers take the value as R61 and R63 have it, the
words that the machine keeps of itself (pending bits, PC, flags, counts) do not change (log 21). -/
def Slot.writeLow (t : Slot) (o : Nat) (x : Dword) : Slot :=
  if o < 0x100 then (t.unmark (o / 8)).setPhys (o / 8) x
  else if o = 0x118 then { t with fpctl := writeFpctl t.fpctl x }
  else if o = 0x120 then { t with mxcfg := x &&& 0x1FFFF }
  else if o = 0x128 then { t with sca := x }
  else if o = 0x130 then { t with scb := x }
  else if o = 0x138 then { t with swin := x &&& 3 }
  else if o = 0x140 then { t with tcause := x &&& 0xFF }
  else if o = 0x148 then { t with tval := x }
  else if o = 0x150 then { t with epc := x }
  else if o = 0x158 then { t with hdr := x }
  else if o = 0x160 then { t with joinRef := x }
  else if o = 0x178 then if t.pendJoin.isSome then { t with pendJoin := some x } else t
  else if 0x188 ≤ o && o < 0x1C0 then (t.unmark (33 + (o - 0x188) / 8)).setPhys (33 + (o - 0x188) / 8) x
  else if 0x1C0 ≤ o && o < 0x1E0 then
    (t.setP ((o - 0x1C0) / 4) (x.setWidth 32)).setP ((o - 0x1C0) / 4 + 1) ((x >>> 32).setWidth 32)
  else if 0x200 ≤ o && o < 0x240 then t.setM ((o - 0x200) / 8) x
  else if 0x400 ≤ o && o < 0x800 then
    t.setV ((o - 0x400) / 32) (setVecDw (t.vreg ((o - 0x400) / 32)) (o % 32 / 8) x.toNat)
  else t

/-! ## The queues of the slot record -/

/-- Doubleword `i` of a 256-bit value. -/
def tileDw (x i : Nat) : Nat := bits x (64 * i + 63) (64 * i)

/-- The state byte of an engine entry: 0 queued, 1 started, 2 parked on PAGE. -/
def Phase.code : Phase → Nat
  | .queued => 0 | .started | .finished => 1 | .parked => 2

def phaseOf (n : Nat) : Phase := match n with | 0 => .queued | 1 => .started | _ => .parked

/-- Whether an entry counts bytes delivered: a started copy or TACS. -/
def Cmd.counts (c : Cmd) : Bool := wOpc c.word < 0x10 || wOpc c.word == 0x15

/-- The doubleword at offset `o` of an engine entry. -/
def Cmd.recDw (c : Cmd) (o : Nat) : Nat :=
  if o < 32 then tileDw c.word.toNat (o / 8)
  else if o = 32 then c.mxcfg.toNat
  else if o = 40 then c.sca.toNat
  else if o = 48 then c.scb.toNat
  else if o = 56 then c.fpctl.toNat
  else if o = 64 then c.swin.toNat
  else if o = 72 then if c.counts then c.pos else 0
  else if o = 80 then c.phase.code
  else if 96 ≤ o then tileDw (c.vcap.getD ((o - 96) / 32) 0).toNat ((o - 96) % 32 / 8)
  else 0

/-- An engine entry read back; what the layout does not hold comes from the entry that the device kept. -/
def Cmd.ofDw (kept : Cmd) (mx : Bool) (g : Nat → Nat) : Cmd :=
  let w : Tile := BitVec.ofNat 256 (g 0 + g 8 * 2 ^ 64 + g 16 * 2 ^ 128 + g 24 * 2 ^ 192)
  { kept with
    word := w
    mxcfg := dw (g 32), sca := dw (g 40), scb := dw (g 48)
    fpctl := dw (g 56), swin := dw (g 64)
    pos := if wOpc w < 0x10 || wOpc w == 0x15 then g 72 else kept.pos
    phase := if kept.phase = .finished && g 80 = 1 then .finished else phaseOf (g 80)
    vcap := if mx then Vector.ofFn fun i =>
        BitVec.ofNat 256 (g (96 + 32 * i.val) + g (104 + 32 * i.val) * 2 ^ 64 + g (112 + 32 * i.val) * 2 ^ 128
          + g (120 + 32 * i.val) * 2 ^ 192)
      else kept.vcap }

/-- The state byte of an IXQ entry. An insert in progress ends before a save (R220). -/
def IxPhase.code : IxPhase → Nat
  | .queued | .inserting => 0 | .withdrawn => 1 | .walking => 2 | .pushing => 3 | .tokenSaved => 4

def ixPhaseOf (n : Nat) : IxPhase :=
  match n with | 0 => .queued | 1 => .withdrawn | 2 => .walking | 3 => .pushing | _ => .tokenSaved

/-- The doubleword at offset `o` of an IXQ entry; pv is the translated address. -/
def IxReq.recDw (r : IxReq) (o : Nat) : Nat :=
  if o = 0 then r.word.toNat
  else if o = 8 then r.a.toNat
  else if o = 16 then (r.pv.map (·.pa)).getD 0
  else if o = 24 then r.z.toNat
  else if 32 ≤ o && o < 64 then (r.blk.getD ((o - 32) / 8) 0).toNat
  else if o = 64 then r.phase.code
  else if o = 72 then r.saved.toNat
  else 0

/-- The parameters of an LDN: k and W. -/
def ldnK (z : Dword) : Nat := bits z.toNat 15 0
def ldnW (z : Dword) : Nat := bits z.toNat 31 16

/-- The cursor: the identity of the next node to expand, all ones when there is none. -/
def cursorOf (l : List Cand) : Nat := match l.find? (!·.exp) with | some x => x.id | none => 2 ^ 32 - 1

/-- Eight bytes of a list of bytes as a number. -/
def bytesAt (l : List Byte) (o : Nat) : Nat := ofBytes ((l.drop o).take 8)

/-- The doubleword at offset `o` of the walk record of an IXQ entry. -/
def IxReq.walkDw (r : IxReq) (o : Nat) : Nat :=
  if r.phase ≠ .walking && r.phase ≠ .pushing then 0
  else if o < 0x400 then bytesAt r.query o
  else if o = 0x400 then ldnK r.z + ldnW r.z * 2 ^ 16 + r.walkSlot * 2 ^ 32
  else if o = 0x408 then pair32 r.snap r.nr
  else if o = 0x410 then pair32 r.vis (cursorOf r.cands)
  else if o = 0x418 then pair32 r.cands.length r.push
  else if o = 0x420 then r.a.toNat
  else if 0x800 ≤ o && o < 0x800 + 16 * r.cands.length then
    match r.cands[(o - 0x800) / 16]? with
    | some x => if o % 16 = 0 then pair32 (uint x.dist 32) x.id else b2n x.exp
    | none => 0
  else 0

/-- The doubleword at offset `o` of a replay entry: address, size, data. -/
def Parked.recDw (p : Parked) (o : Nat) : Nat :=
  if o = 0 then p.va else if o = 8 then p.data.length else if 16 ≤ o && o < 48 then bytesAt p.data (o - 16) else 0

/-- The doubleword at offset `o` of the slot record (R297). -/
def Slot.recDw (t : Slot) (o : Nat) : Nat :=
  let at_ {α : Type} (l : List α) (base size : Nat) (f : α → Nat → Nat) : Nat :=
    match l[(o - base) / size]? with
    | some x => f x ((o - base) % size)
    | none => 0
  if o < 0x800 then t.lowDw o
  else if o < 0xE00 then at_ t.cpq 0x800 96 Cmd.recDw
  else if o < 0x1900 then at_ t.mxq 0xE00 352 Cmd.recDw
  else if o < 0x1C00 then at_ t.ssq 0x1900 96 Cmd.recDw
  else if o < 0x2000 then at_ t.ixq 0x1C00 128 IxReq.recDw
  else if o < 0x2080 then at_ t.ixo 0x2000 16 fun r i => if i = 0 then r.lo.toNat else r.hi.toNat
  else if o < 0x20C0 then at_ t.sso 0x2080 8 fun x _ => x.toNat
  else if o < 0x20E0 then tileDw t.faultWord.toNat ((o - 0x20C0) / 8)
  else if o = 0x20E0 then t.faultWin
  else if 0x2100 ≤ o && o < 0x2400 then at_ t.replay 0x2100 48 Parked.recDw
  else if o = 0x2400 then t.waddr0.toNat
  else if o = 0x2408 then t.wctl0.toNat
  else if o = 0x2410 then t.waddr1.toNat
  else if o = 0x2418 then t.wctl1.toNat
  else if 0x4000 ≤ o then at_ t.ixq 0x4000 8192 IxReq.walkDw
  else 0

/-- The bytes of a number of given length from a function on offsets of doublewords. -/
def bytesOf (g : Nat → Nat) (base n : Nat) : List Byte :=
  ((List.range ((n + 7) / 8)).flatMap fun i => toBytes (g (base + 8 * i)) 8).take n

/-- A command that nothing was kept of: its token is the task's register that its word names. -/
def Cmd.blank : Cmd where
  word := 0
  mxcfg := 0
  sca := 0
  scb := 0
  fpctl := 0
  swin := 0
  vcap := Vector.replicate 8 0
  tok := 0
  phase := .queued
  pos := 0
  out := []
  todo := []
  rpos := 0
  ending := 0
  hbase := 0
  howner := 0
  poisoned := false
  status := 0
  wait := none
  fault := none
  start := none

/-- A queue of `n` engine entries read back. -/
def cmdsOf (kept : List Cmd) (mx : Bool) (n base size : Nat) (g : Nat → Nat) : List Cmd :=
  (List.range n).map fun e =>
    let h := fun o => g (base + size * e + o)
    match kept[e]? with
    | some c => Cmd.ofDw c mx h
    | none =>
      let c := Cmd.ofDw Cmd.blank mx h
      { c with tok := wToken c.word }

/-- An IXQ entry read back. -/
def ixOf (kept : IxReq) (g w : Nat → Nat) : IxReq :=
  let ph := ixPhaseOf (g 64)
  let base : IxReq :=
    { kept with
      word := BitVec.ofNat 32 (g 0)
      a := dw (g 8)
      pv := kept.pv.map fun p => { p with pa := g 16 }
      z := dw (g 24)
      blk := Vector.ofFn fun i => dw (g (32 + 8 * i.val))
      phase := ph
      saved := dw (g 72) }
  if ph = .walking || ph = .pushing then
    { base with
      query := bytesOf w 0 kept.query.length
      walkSlot := bits (w 0x400) 63 32
      snap := bits (w 0x408) 31 0
      nr := bits (w 0x408) 63 32
      vis := bits (w 0x410) 31 0
      push := bits (w 0x418) 63 32
      cands := (List.range (bits (w 0x418) 31 0)).map fun i =>
        { dist := sint (bits (w (0x800 + 16 * i)) 31 0) 32, id := bits (w (0x800 + 16 * i)) 63 32
          exp := bit (w (0x808 + 16 * i)) 0 } }
  else base

/-- An entry of the stores on their way as it stands after a restore: a store that a release or FENCE held back is
translated anew (R239); a committed lane has its place (R170). -/
def SEntry.restored : SEntry → SEntry
  | .store n va p d k l => .store n va (if k = .lane then p else none) d k l
  | e => e

/-- A replay entry read back. -/
def parkedOf (kept : Option Parked) (e : Nat) (g : Nat → Nat) : Parked :=
  { seq := (kept.map (·.seq)).getD e, va := g 0, data := bytesOf g 16 (min 32 (g 8))
    kind := (kept.map (·.kind)).getD .plain, cause := (kept.map (·.cause)).getD causePage }

/-- The slot that a slot record gives back: the listed fields from its doublewords, reserved bits of registers 0 (R7), the
rest from what was kept. -/
def Slot.ofRec (kept : Slot) (g : Nat → Nat) : Slot :=
  let n := g 0x240
  let fl := g 0x110
  { kept with
    regs := Vector.ofFn fun i => dw (g (8 * i.val))
    bank := Vector.ofFn fun i => dw (g (0x188 + 8 * i.val))
    pend := (List.range 40).filter fun i => bit (g 0x100) i
    v := Vector.ofFn fun i =>
      let o := 0x400 + 32 * i.val
      BitVec.ofNat 256 (g o + g (o + 8) * 2 ^ 64 + g (o + 16) * 2 ^ 128 + g (o + 24) * 2 ^ 192)
    p := Vector.ofFn fun i =>
      let k := i.val + 1
      BitVec.ofNat 32 (g (0x1C0 + 8 * (k / 2)) / 2 ^ (32 * (k % 2)))
    m := Vector.ofFn fun i => dw (g (0x200 + 8 * i.val))
    pc := dw (g 0x108)
    sup := bit fl 0, busy := bit fl 1, hold := bit fl 2, start := bit fl 3, conv := false
    allow := bits fl 15 8
    pendJoin := if bit fl 16 then some (dw (g 0x178)) else none
    leaving := kept.leaving
    fpctl := dw (g 0x118) &&& 0x1F0F, mxcfg := dw (g 0x120) &&& 0x1FFFF, sca := dw (g 0x128), scb := dw (g 0x130)
    swin := dw (g 0x138) &&& 3
    tcause := dw (g 0x140) &&& 0xFF, tval := dw (g 0x148), epc := dw (g 0x150)
    hdr := dw (g 0x158), joinRef := dw (g 0x160)
    keys := ([bits (g 0x168) 31 0, bits (g 0x168) 63 32, bits (g 0x170) 31 0]).take kept.keys.length
    cpq := cmdsOf kept.cpq false (bits n 7 0) 0x800 96 g
    mxq := cmdsOf kept.mxq true (bits n 15 8) 0xE00 352 g
    ssq := cmdsOf kept.ssq false (bits n 23 16) 0x1900 96 g
    ixq := (List.range (bits n 31 24)).filterMap fun e =>
      kept.ixq[e]?.map fun r => ixOf r (fun o => g (0x1C00 + 128 * e + o)) fun o => g (0x4000 + 8192 * e + o)
    ixo := (List.range (bits n 39 32)).map fun e => 
      { lo := dw (g (0x2000 + 16 * e)), hi := dw (g (0x2008 + 16 * e)), rel := 0 }
    sso := (List.range (bits n 47 40)).map fun e => dw (g (0x2080 + 8 * e))
    faultWord := BitVec.ofNat 256 (g 0x20C0 + g 0x20C8 * 2 ^ 64 + g 0x20D0 * 2 ^ 128 + g 0x20D8 * 2 ^ 192)
    faultWin := g 0x20E0
    replay := (List.range (bits n 55 48)).map fun e => parkedOf kept.replay[e]? e fun o => g (0x2100 + 48 * e + o)
    waddr0 := dw (g 0x2400) &&& 0x00FFFFFFFFFFFFF8, wctl0 := dw (g 0x2408) &&& 0xFF07
    waddr1 := dw (g 0x2410) &&& 0x00FFFFFFFFFFFFF8, wctl1 := dw (g 0x2418) &&& 0xFF07
    block := none, bell := none, wait := none, xf := none, examined := false
    sbuf := kept.sbuf.map SEntry.restored, early := [] }

/-! ## The core record (R298) -/

/-- The doubleword at offset `o` of a list of messages from a base. -/
def msgsDw (l : List Held) (o : Nat) : Nat :=
  match l[o / 64]? with
  | some x => bytesAt x.msg.bytes (o % 64)
  | none => 0

/-- The doubleword at offset `o` of the core record. Counts: low mailbox, high mailbox, in-core deque, a byte each; head
and tail of a ring: the entry numbers of the oldest message and of the next free entry, two bytes each, then the number
of messages held (log 17). -/
def Core.recDw (k : Core) (o : Nat) : Nat :=
  let ringDw (h n : Nat) : Nat := h + (h + n) % 64 * 2 ^ 16 + n * 2 ^ 32
  if o < 0x400 then msgsDw k.low o
  else if o < 0x600 then msgsDw k.high (o - 0x400)
  else if o < 0xE00 then msgsDw k.deque (o - 0x600)
  else if o = 0xE00 then k.low.length + k.high.length * 2 ^ 8 + k.deque.length * 2 ^ 16
  else if o = 0xE08 then ringDw k.lowHead k.lowRing.length
  else if o = 0xE10 then ringDw k.highHead k.highRing.length
  else if o = 0xE18 then k.dqHead + k.dqRing.length * 2 ^ 32
  else if o = 0xE20 then k.gen.toNat
  else if o = 0xE28 then pair32 k.nextWait k.backoff
  else if o = 0xE30 then k.spillb.toNat
  else 0

/-- Messages read back; the grant marks come from what was kept. -/
def heldOf (kept : List Held) (n base : Nat) (g : Nat → Nat) : List Held :=
  (List.range n).map fun i =>
    { msg := Msg.ofBytes (bytesOf g (base + 64 * i) 64), grant := ((kept[i]?).map (·.grant)).getD false }

/-- The core that a core record gives back. -/
def Core.ofRec (kept : Core) (g : Nat → Nat) : Core :=
  let n := g 0xE00
  { kept with
    low := heldOf kept.low (bits n 7 0) 0 g
    high := heldOf kept.high (bits n 15 8) 0x400 g
    deque := heldOf kept.deque (bits n 23 16) 0x600 g
    lowHead := bits (g 0xE08) 15 0, highHead := bits (g 0xE10) 15 0, dqHead := bits (g 0xE18) 15 0
    gen := BitVec.ofNat 32 (g 0xE20)
    nextWait := bits (g 0xE28) 31 0, backoff := bits (g 0xE28) 63 32
    spillb := dw (g 0xE30) }

/-! ## Facet and macro records (R298) -/

def MacState.code : MacState → Nat
  | .data => 0 | .loading => 1 | .stationary => 2

def macStateOf (n : Nat) : MacState := match n with | 0 => .data | 1 => .loading | _ => .stationary

/-- The stationary map entry (R296). -/
def Mac.entry (y : Mac) : Nat :=
  y.st.code * 2 ^ 62 + y.owner * 2 ^ 53 + y.bfmt * 2 ^ 50 + y.lb * 2 ^ 47 + y.kst * 2 ^ 38 + b2n y.resm * 2 ^ 37

/-- STGST (R296). -/
def Barrier.stgst (b : Barrier) : Nat :=
  b2n b.armed * 2 ^ 63 + b2n b.overrun * 2 ^ 62 + b.owner.getD 0 * 2 ^ 33 + b.count

/-- SSOWN (R296). -/
def Facet.ssown (x : Facet) : Nat := match x.sOwner with | some c => 2 ^ 63 + c | none => 0

def Facet.sreg (x : Facet) (i : Nat) : SReg := Tbl.get SReg.reset x.sregs i
def Facet.gen (x : Facet) (i : Nat) : BitVec 32 := Tbl.get 0 x.gens i

def Mac.scaleAt (y : Mac) (c b : Nat) : Byte := Tbl.get 0 y.scale (64 * c + b)
def Mac.accAt (y : Mac) (r c : Nat) : Acc := Tbl.get { a := 0, void := false } y.acc (256 * r + c)
def Mac.anchorAt (y : Mac) (r : Nat) : Int := Tbl.get 0 y.anchor r

/-- The doubleword at offset `o` of a macro record. -/
def Mac.recDw (y : Mac) (o : Nat) : Nat :=
  if o = 0 then y.entry
  else if 0x40 ≤ o && o < 0x60 then
    ofBytes ((List.range 4).flatMap fun i => toBytes (uint (y.anchorAt ((o - 0x40) / 2 + i)) 16) 2)
  else if 0x100 ≤ o && o < 0x4100 then
    ofBytes ((List.range 8).map fun i => Tbl.get 0 y.scale (o - 0x100 + i))
  else if 0x8000 ≤ o && o < 0x10000 then
    let e : Acc := Tbl.get { a := 0, void := false } y.acc ((o - 0x8000) / 8)
    uint e.a 48 + b2n e.void * 2 ^ 63
  else 0

/-- The macro that a macro record gives back. -/
def Mac.ofRec (kept : Mac) (g : Nat → Nat) : Mac :=
  let e := g 0
  { kept with
    st := macStateOf (bits e 63 62)
    owner := bits e 61 53, bfmt := bits e 52 50, lb := bits e 49 47, kst := bits e 46 38, resm := bit e 37
    anchor := (List.range 16).filterMap fun r =>
      let x := sint (g (0x40 + 8 * (r / 4)) / 2 ^ (16 * (r % 4))) 16
      if x = 0 then none else some (r, x)
    scale := (List.range 16384).filterMap fun i =>
      let x : Byte := BitVec.ofNat 8 (g (0x100 + 8 * (i / 8)) / 2 ^ (8 * (i % 8)))
      if x = 0 then none else some (i, x)
    acc := (List.range 4096).filterMap fun i =>
      let x := g (0x8000 + 8 * i)
      if x = 0 then none else some (i, { a := sint x 48, void := bit x 63 }) }

/-- The doubleword at offset `o` of the facet record of context `c`, without the memory images and macro records. -/
def Facet.recDw (x : Facet) (c o : Nat) : Nat :=
  if o < 0x200 then
    if o % 16 = 0 && (x.bar (o / 16)).owner = some c then (x.bar (o / 16)).stgst else 0
  else if o = 0x200 then if x.sOwner = some c then x.ssown else 0
  else if x.sOwner ≠ some c && (o < 0x800 || (0x1000 ≤ o && o < 0x9000)) then 0
  else if 0x400 ≤ o && o < 0x600 then
    let r := x.sreg ((o - 0x400) / 8)
    b2n r.valid * 2 ^ 63 + r.len * 2 ^ 60 + r.mask.toNat
  else if 0x600 ≤ o && o < 0x640 then pair32 (x.gen ((o - 0x600) / 4)).toNat (x.gen ((o - 0x600) / 4 + 1)).toNat
  else if 0x800 ≤ o && o < 0x1000 then
    let v := x.tag ((o - 0x800) / 8)
    if tagValid v && tagCtx v == c then v.toNat else 0
  else if 0x1000 ≤ o && o < 0x9000 then
    bits (x.sreg ((o - 0x1000) / 512)).bits.toNat (o % 512 * 8 + 63) (o % 512 * 8)
  else 0

end Sys2Proof.Machine
end

