-- ==== Sys2Proof/Machine/Deliver.lean ====
section
/-!
DEFINITION. Deliveries at their owners: the tokens of a queue in order, stage barriers, a delivery of a command or of a bulk
request performed, and those that must perform before a key slot is erased (R57, R85 to R88, R94, R103, R173, R325, R333).
-/

namespace Sys2Proof.Machine

/-! ## Queues and tokens -/

/-- A status word for an error: −(code + 256·B) (R88). -/
def failWord (code count : Nat) : Dword := BitVec.ofInt 64 (-((code + 256 * count : Nat) : Int))

/-- A command queue of a slot: CPQ, MXQ, or SSQ. -/
inductive Which where
  | cp | mx | ss
deriving DecidableEq, Repr

def Slot.queue (t : Slot) : Which → List Cmd
  | .cp => t.cpq | .mx => t.mxq | .ss => t.ssq

def Slot.setQueue (t : Slot) (w : Which) (l : List Cmd) : Slot :=
  match w with
  | .cp => { t with cpq := l }
  | .mx => { t with mxq := l }
  | .ss => { t with ssq := l }

/-- The entry the engine works on: the first that has not sent everything (R86). -/
def headIdx (l : List Cmd) : Option Nat := l.findIdx? (·.phase ≠ .finished)

/-- The tokens of a queue written in order: those of finished commands without outstanding deliveries, up to the first
that is not one; their entries free (R57, R86, R173). -/
def Slot.flush (t : Slot) (w : Which) : List Cmd → Slot
  | [] => t.setQueue w []
  | c :: rest =>
    if c.phase = .finished && c.out.isEmpty then (t.writeTok c.tok c.status).flush w rest else t.setQueue w (c :: rest)

/-- Entry `e` of a queue replaced, and the tokens that are due written. -/
def State.update (s : State) (u : Nat) (w : Which) (e : Nat) (c : Cmd) : State :=
  let t := s.slot u
  s.setSlot u (t.flush w (setAt (t.queue w) e c))

/-- A command that has sent everything, with its status. -/
def Cmd.finish (c : Cmd) (st : Dword) : Cmd := { c with phase := .finished, status := st, todo := [], wait := none }

/-- A command that ends with an error code and a byte count. -/
def Cmd.fail (c : Cmd) (code count : Nat) : Cmd := c.finish (failWord code count)

/-! ## Stage barriers (R94) -/

/-- Whether a command counts its deliveries, and against which barrier (R89, R92). -/
def Cmd.barrier (c : Cmd) : Option Nat :=
  let o := wOpc c.word
  if 1 ≤ o && o ≤ 4 && wf c.word 237 237 = 1 then some (wf c.word 236 232) else none

/-- A delivery of `n` bytes of context `c` acknowledged to a barrier of facet `f`. -/
def State.acknowledge (s : State) (f c b n : Nat) : State :=
  let x := s.facet f
  let y := x.bar b
  if y.armed then
    if y.owner ≠ some c then s
    else if n < y.count then s.setFacet f (x.setBar b { y with count := y.count - n })
    else
      let s1 := s.setFacet f (x.setBar b { y with armed := false, count := 0, overrun := y.overrun || y.count < n })
      s1.setSlot y.slot ((s1.slot y.slot).writeTok y.tok (dw y.total))
  else if y.owner = some c || y.owner = none then
    s.setFacet f (x.setBar b { y with overrun := true, owner := some c })
  else s

/-! ## Deliveries (R85, R87, R103) -/

/-- Whether two places have one owner: a vertex unit, a core, a facet's atomic unit (R31). -/
def sameOwner (a b : Nat) : Bool :=
  devOf a = devOf b && spaceOf a = spaceOf b
    && (match spaceOf a with
      | 0 => unitOf a = unitOf b
      | 1 => localCore a = localCore b
      | _ => spadFacet a = spadFacet b)

/-- Whether a delivery waits for an earlier one of its command: the writes of a CPYS to one owner keep element order
(R93); no other two deliveries have an order (R87, R317). -/
def Cmd.mustWait (c : Cmd) (k : Nat) (d : Deliv) : Bool :=
  wOpc c.word = 0x03 && (c.out.take k).any fun e => sameOwner e.place.pa d.place.pa

/-- The write of a delivery, with the poison of its bytes. -/
def State.writeDeliv (s : State) (d : Deliv) : State :=
  let s1 := s.write d.ctx d.place d.data
  { s1 with poison := d.bad.foldl (fun l i => markPoison l (d.place.pa + i) 1) s1.poison }

/-- Whether a byte of a command that comes after delivery `d` has been written already: fewer bytes are outstanding from `d` on
than were sent (R333). A TDOT, whose entry counts no bytes, is judged by no such order. -/
def Cmd.laterDone (c : Cmd) (d : Deliv) : Bool :=
  bits c.word.toNat 255 248 ≠ 0x16 && d.pos + ((c.out.filter (d.pos ≤ ·.pos)).map (·.data.length)).sum < c.pos

/-- The same for a delivery of a bulk request. -/
def BulkReq.laterDone (b : BulkReq) (x : Piece) : Bool := x.pos + ((b.out.filter (x.pos ≤ ·.pos)).map (·.n)).sum < b.pos

/-- A delivery of `n` bytes at an address has performed that token register `k` of slot `u` stands for: the slot's early loads
of these bytes may not be used once it has read the register (R87, R94; log 5). -/
def State.markAt (s : State) (u k pa n : Nat) : State :=
  if (s.slot u).early.isEmpty then s else s.setSlot u ((s.slot u).markEarly k pa n)

/-- A delivery of a command of slot `u` has performed: the command's token stands for it, and that of the STGA whose armed
barrier counts it (R87, R94). -/
def State.delivered (s : State) (u : Nat) (c : Cmd) (pa n : Nat) : State :=
  let s1 := s.markAt u c.tok pa n
  match c.barrier with
  | none => s1
  | some b =>
    let y := (s.facet (u / 256)).bar b
    if y.armed && y.owner == some (s.ctxOf u) then s1.markAt y.slot y.tok pa n else s1

/-- Delivery `k` of entry `e` of a queue performed at its owner: the write, what its tokens stand for, its barrier (R87, R94). -/
def State.performDeliv (s : State) (u e k : Nat) (w : Which) (c : Cmd) (d : Deliv) : State :=
  let s0 := s.delivered u c d.place.pa d.data.length
  let s1 := (s0.writeDeliv d).update u w e { c with out := dropAt c.out k }
  match c.barrier with
  | some b => s1.acknowledge (u / 256) (s.ctxOf u) b d.data.length
  | none => s1

/-! ## Deliveries of bulk requests (R85, R88, R320) -/

/-- The poisoned offsets among `n` bytes at a place. -/
def State.badOffsets (s : State) (pa n : Nat) : List Nat :=
  if s.poison.isEmpty then [] else (List.range n).filter fun i => s.poisoned (pa + i) 1

/-- A request answered with the status word of R88 and the bytes it has read: −9 where it completed and met poison
(R85). -/
def State.answerBulk (s : State) (b : BulkReq) (code : Nat) : State :=
  let st := if code ≠ 0 then failWord code b.pos
    else if b.bad.isEmpty && b.lost.isEmpty then dw b.pos else failWord 9 b.pos
  { s with bulkOut := s.bulkOut ++
      [{ to_ := b.from_, slot := b.slot, code := st, data := b.got.flatMap (·.2), bad := b.lost }] }

/-- Request `k` after something was done: it goes on, or it has ended: answered, and gone (R85, R88). -/
def State.moreBulk (s : State) (k : Nat) (b : BulkReq) : State :=
  if b.out.isEmpty && (b.ending ≠ 0 || b.len ≤ b.pos) then
    ({ s with bulks := dropAt s.bulks k } : State).answerBulk b b.ending
  else { s with bulks := setAt s.bulks k b }

/-- Delivery `j` of request `k` performed at its owner, as a copy delivery of the region's owner (R81, R85, R87). -/
def State.performPiece (s : State) (k j : Nat) (b : BulkReq) (x : Piece) : State :=
  let b1 := { b with out := dropAt b.out j }
  if b.wr then
    (s.writeDeliv
      { va := b.base + b.off + x.pos, ctx := b.owner, place := x.place, data := (b.data.drop x.pos).take x.n
        bad := (b.bad.filter fun i => x.pos ≤ i && i < x.pos + x.n).map (· - x.pos), pos := x.pos }).moreBulk k b1
  else
    let s1 := s.touch b.owner x.place.pa x.n
    s1.moreBulk k { b1 with
      got := Tbl.set b.got x.pos (s1.rd x.place x.n)
      lost := ((s1.badOffsets x.place.pa x.n).map (· + x.pos)).foldl (fun l i => insertNat i l) b.lost }

/-! ## Before a key slot is erased (R325, R333) -/

/-- The delivery of a command that must perform before key slot `n` is erased: one through the slot although a later byte of
the command has been written, which could not fail any more (R333); of a CPYS the first toward its owner, which comes before
it (R93). -/
def Cmd.keyed (c : Cmd) (n : Nat) : Option (Nat × Deliv) :=
  match c.out.find? fun d => d.place.enc = some n && c.laterDone d with
  | none => none
  | some d =>
    (c.out.zipIdx.find? fun x => if wOpc c.word = 0x03 then sameOwner x.1.place.pa d.place.pa else x.1 == d).map
      fun x => (x.2, x.1)

/-- The first such delivery of an engine: slot, queue, entry, delivery. -/
def State.keyedDeliv (s : State) (n : Nat) : Option (Nat × Which × (Cmd × Nat) × Nat × Deliv) :=
  s.slots.findSome? fun t => [Which.cp, Which.mx].findSome? fun w =>
    (t.2.queue w).zipIdx.findSome? fun x => (x.1.keyed n).map fun d => (t.1, w, x, d)

/-- The first such delivery of a bulk request. -/
def State.keyedPiece (s : State) (n : Nat) : Option ((BulkReq × Nat) × Piece × Nat) :=
  s.bulks.zipIdx.findSome? fun b =>
    (b.1.out.zipIdx.find? fun x => x.1.place.enc = some n && b.1.laterDone x.1).map fun x => (b, x)

/-- The deliveries outstanding of all commands and requests. -/
def State.outstanding (s : State) : Nat :=
  (s.slots.map fun t => ((t.2.cpq ++ t.2.mxq).map (·.out.length)).sum).sum + (s.bulks.map (·.out.length)).sum

/-- The deliveries performed, with fuel, that must perform before key slot `n` is erased: with the slot erased they would fail
after a later byte of their command was written, which R333 excludes (DEDUCED, log 64). -/
def State.drainKey (s : State) (n : Nat) : Nat → State
  | 0 => s
  | fuel + 1 =>
    match s.keyedDeliv n with
    | some (u, w, c, k, d) => (s.performDeliv u c.2 k w c.1 d).drainKey n fuel
    | none =>
      match s.keyedPiece n with
      | some (b, x, j) => (s.performPiece b.2 j b.1 x).drainKey n fuel
      | none => s

end Sys2Proof.Machine
end

