-- ==== Sys2Proof/Machine/ControlSpace.lean ====
section
/-!
DEFINITION. Control space: the registers and blocks of R294, who may reach them (R295), what a read returns and what a
write does (R77, R79, R80, R94, R95, R111, R117, R272, R296, R303, R332). CTLR and CTLW on control space, the apex
cores and the management port all go through these two operations.
-/

namespace Sys2Proof.Machine

/-- A register of control space (R294). -/
inductive CReg where
  | xinv
  | xstat
  | lqctl (q : Nat)
  | lqmask (q j : Nat)
  | record (c i : Nat)
  | region (n i : Nat)
  | logHead (a : LogAt)
  | logEntry (a : LogAt) (i j : Nat)
  | tag (f n : Nat)
  | mapEntry (f m : Nat)
  | retcfg (f : Nat)
  | retst (f : Nat)
  | ssown (f : Nat)
  | stgst (f b : Nat)
  | stgcan (f b : Nat)
  | live (u o : Nat)
  | watch (u i : Nat)
  | faultWord (u i : Nat)
deriving DecidableEq, Repr

/-- A doubleword of an error log at byte offset `o` of its block (R303). -/
def logReg (a : LogAt) (o : Nat) : Option CReg :=
  if o = 0 then some (.logHead a)
  else if 16 ≤ o && o < 528 then some (.logEntry a ((o - 16) / 16) (o / 8 % 2))
  else none

/-- A doubleword of a slot's live block at byte offset `o`. -/
def liveReg (u o : Nat) : Option CReg :=
  if o < 0x800 then some (.live u o)
  else if o < 0x820 then some (.watch u ((o - 0x800) / 8))
  else if 0x840 ≤ o && o < 0x868 then some (.faultWord u ((o - 0x840) / 8))
  else none

/-- A doubleword of facet block `f` at byte offset `o`. -/
def facetReg (f o : Nat) : Option CReg :=
  if o < 0x800 then some (.tag f (o / 8))
  else if o < 0x880 then some (.mapEntry f ((o - 0x800) / 8))
  else if o = 0x880 then some (.retcfg f)
  else if o = 0x888 then some (.retst f)
  else if o = 0x890 then some (.ssown f)
  else if 0xA00 ≤ o && o < 0xC00 then
    let b := (o - 0xA00) / 16
    some (if o % 16 = 0 then .stgst f b else .stgcan f b)
  else if 0x1000 ≤ o && o < 0x2000 then logReg (.facet f) (o - 0x1000)
  else if 0x100000 ≤ o && o < 0x200000 then
    liveReg (256 * f + (o - 0x100000) / 0x1000) (o % 0x1000)
  else none

/-- The register at an 8-byte aligned offset of SPACE 3; none where the offset is unassigned (R294). -/
def cregAt (o : Nat) : Option CReg :=
  if o = 0 then some .xinv
  else if o = 8 then some .xstat
  else if 0x10000 ≤ o && o < 0x18000 then
    let q := (o - 0x10000) / 512
    let j := o % 512 / 8
    if j = 0 then some (.lqctl q) else if j ≤ 40 then some (.lqmask q (j - 1)) else none
  else if 0x100000 ≤ o && o < 0x120000 then some (.record ((o - 0x100000) / 256) (o % 256 / 8))
  else if 0x200000 ≤ o && o < 0x220000 then some (.region ((o - 0x200000) / 32) (o % 32 / 8))
  else if 0x400000 ≤ o && o < 0x408000 then logReg (.stack ((o - 0x400000) / 4096)) (o % 4096)
  else if 0x500000 ≤ o && o < 0x501000 then logReg .device (o - 0x500000)
  else if 0x100000000 ≤ o && o < 0x100000000 + numFacets * 0x400000 then
    facetReg ((o - 0x100000000) / 0x400000) ((o - 0x100000000) % 0x400000)
  else none

/-- The facet whose block holds a register. -/
def CReg.facet : CReg → Option Nat
  | .tag f _ | .mapEntry f _ | .retcfg f | .retst f | .ssown f | .stgst f _ | .stgcan f _ => some f
  | .logHead (.facet f) | .logEntry (.facet f) _ _ => some f
  | .live u _ | .watch u _ | .faultWord u _ => some (u / 256)
  | _ => none

/-- Who accesses: the supervisor of a context on a slot, or an apex core. -/
inductive Who where
  | sup (c u : Nat)
  | apex
deriving DecidableEq, Repr

/-- Whether facet `f` lies in the set of context `c` while `c` is RUNNING. -/
def State.holds (s : State) (c f : Nat) : Bool := (s.ctx c).st = .running && (s.ctx c).set.contains f

/-- Whether R295 permits a read. -/
def State.mayRead (s : State) (w : Who) (r : CReg) : Bool :=
  match w with
  | .apex => true
  | .sup c _ =>
    match r with
    | .xstat | .lqctl _ | .lqmask _ _ | .region _ _ => true
    | .record d _ => d == c
    | r => match r.facet with
      | some f => s.holds c f
      | none => false

/-- Whether R295 permits a write of a value. -/
def State.mayWrite (s : State) (w : Who) (r : CReg) (x : Dword) : Bool :=
  match w with
  | .apex => true
  | .sup c u =>
    match r with
    | .xinv => bits x.toNat 8 0 == c
    | .lqctl _ | .lqmask _ _ | .region _ _ => true
    | .record d i => d == c && (i == 6 || i == 8)
    | .retcfg f | .ssown f => s.holds c f
    | .stgcan f b => s.holds c f && ((s.facet f).bar b).owner == some c
    | .logEntry (.facet f) i 0 =>
      s.holds c f && bits ((s.facet f).log.entry i).1.toNat 40 32 == c && !bit ((s.facet f).log.entry i).1.toNat 41
    | .live v _ | .watch v _ | .faultWord v _ => v == u
    | _ => false

/-! ## Reads -/

/-- The state of a macro in RETST (R117). -/
def Retention.code : Retention → Nat
  | .awake => 0 | .entering => 1 | .retained => 2 | .exiting => 3

/-- LQCTL (R272). -/
def LaunchQ.ctl (q : LaunchQ) : Nat :=
  b2n q.valid * 2 ^ 63 + b2n q.drain * 2 ^ 62 + q.held.length * 2 ^ 40 + q.cursor * 2 ^ 20 + b2n q.pri * 2 ^ 16 + q.ctx

/-- The code of a context's state (R296). -/
def CtxState.code : CtxState → Nat
  | .free => 0 | .running => 1 | .switchedOut => 2 | .killed => 3

/-- A doubleword of a context record (R296). -/
def Ctx.recordDw (x : Ctx) (i : Nat) : Nat :=
  match i with
  | 0 => x.kcode * 2 ^ 8 + x.st.code
  | 1 => x.ptbase.toNat
  | 2 => x.tvec.toNat
  | 3 => x.htab.toNat
  | 4 => x.dqsb.toNat
  | 5 => x.saveb.toNat
  | 6 => x.errh.toNat
  | 7 => x.pcount % 2 ^ 16 * 2 ^ 48 + b2n x.pnote * 2 ^ 33 + b2n x.memsave * 2 ^ 32 + x.slice
  | _ => 0

/-- A doubleword of a region descriptor (R79). -/
def Region.recDw (x : Region) (i : Nat) : Nat :=
  match i with
  | 0 => x.base
  | 1 => x.len
  | 2 => x.perm * 2 ^ 10 + b2n x.claimed * 2 ^ 9 + x.owner
  | _ => x.gen

/-- The watchpoint registers, in their order (R297). -/
def Slot.watchDw (t : Slot) (i : Nat) : Dword :=
  match i with
  | 0 => t.waddr0 | 1 => t.wctl0 | 2 => t.waddr1 | _ => t.wctl1

def Slot.setWatch (t : Slot) (i : Nat) (x : Dword) : Slot :=
  match i with
  | 0 => { t with waddr0 := x &&& 0x00FFFFFFFFFFFFF8 }
  | 1 => { t with wctl0 := x &&& 0xFF07 }
  | 2 => { t with waddr1 := x &&& 0x00FFFFFFFFFFFFF8 }
  | _ => { t with wctl1 := x &&& 0xFF07 }

/-- What a read of a register returns; a WO field reads zero (R7). -/
def State.cread (s : State) : CReg → Nat
  | .xinv | .stgcan _ _ => 0
  | .xstat => b2n !s.xinv.isEmpty
  | .lqctl q => (s.queue q).ctl
  | .lqmask q j => ((s.queue q).maskDw j).toNat
  | .record c i => (s.ctx c).recordDw i
  | .region n i => (s.region n).recDw i
  | .logHead a => (s.log a).next + (s.log a).lost * 2 ^ 32
  | .logEntry a i j => (if j = 0 then ((s.log a).entry i).1 else ((s.log a).entry i).2).toNat
  | .tag f n => ((s.facet f).tag n).toNat
  | .mapEntry f m => (s.mac f m).entry
  | .retcfg f => (s.facet f).idle.toNat
  | .retst f => ((List.range 16).map fun m => (s.mac f m).ret.code * 4 ^ m).foldl (· + ·) 0
  | .ssown f => (s.facet f).ssown
  | .stgst f b => ((s.facet f).bar b).stgst
  | .live u o => (s.slot u).lowDw o
  | .watch u i => ((s.slot u).watchDw i).toNat
  | .faultWord u i => if i < 4 then tileDw (s.slot u).faultWord.toNat i else (s.slot u).faultWin

/-! ## Writes -/

/-- Whether a walk or a cache entry is of the page that an invalidation names. -/
def xinvPage (v : Dword) (c page : Nat) : Bool := xinvCovers v c (page * 65536)

/-- The walks of a walker after an invalidation was written: those of the page that run are to be discarded, and those
queued start after it (R77). -/
def Walker.invalidate (w : Walker) (v : Dword) : Walker :=
  { w with running := w.running.map fun k => if xinvPage v k.ctx k.page then { k with drop := true } else k }

/-- A write of XINV: BUSY is set, and the write is queued behind those in progress (R77). -/
def State.writeXinv (s : State) (v : Dword) : State :=
  { s with
    xinv := s.xinv ++ [v &&& 0x00FFFFFFFFFFC1FF]
    walkers := s.walkers.map fun w => (w.1, w.2.invalidate v) }

/-- A FREE context that a queue naming it makes valid becomes SWITCHED-OUT with an empty saved state (R332). -/
def State.useContext (s : State) (c : Nat) : State :=
  if (s.ctx c).st = .free then s.setCtx c { s.ctx c with st := .switchedOut, fresh := true } else s

/-- The launches of runtime images that waited for queue `q` to be bound are sent, in their order (R16, R321 step 6). -/
def State.sendUnsent (s : State) (q : Nat) : State :=
  let go := s.unsent.filter (·.1 = q)
  if go.isEmpty then s
  else
    { s with
      unsent := s.unsent.filter (·.1 ≠ q)
      msgs := s.msgs ++ go.map fun x => Packet.own none false { msg := x.2, grant := false } (.queue q) }

/-- A write of LQCTL by an apex core (R272). Where VALID passes to 1 the launches that images hold for the queue are sent (R321).
R272 names no core for CURSOR where the mask is empty: DESIGN CHOICE, log 87: it is 0. -/
def State.writeLqctl (s : State) (q : Nat) (v : Dword) : State :=
  let x := s.queue q
  let on := bit v.toNat 63
  if x.valid then
    if on then s else s.setQueue q { x with valid := false, drain := !x.held.isEmpty }
  else
    let y : LaunchQ := { x with ctx := bits v.toNat 8 0, pri := bit v.toNat 16 }
    if on then
      ((s.setQueue q { y with valid := true, drain := false, cursor := 64 * (x.facets.headD 0) }).useContext y.ctx).sendUnsent q
    else s.setQueue q y

/-- A write of a mask doubleword by an apex core (R272). -/
def State.writeLqmask (s : State) (q j : Nat) (v : Dword) : State :=
  let x := s.queue q
  if x.valid then s else s.setQueue q { x with mask := Tbl.set x.mask j v }

/-- A pre-emption request: the cores of a RUNNING context halt at instruction boundaries (R281). -/
def State.requestPreempt (s : State) (c : Nat) : State :=
  if (s.ctx c).st = .running then s.setCtx c { s.ctx c with halt := true } else s

/-- A KILLED record set FREE, which erases its key slot (R296, R325), once the deliveries have performed that could not fail
any more. -/
def State.freeContext (s : State) (c : Nat) : State :=
  if (s.ctx c).st = .killed then
    let s1 := s.drainKey c s.outstanding
    { s1.setCtx c { s1.ctx c with st := .free, kcode := 0 } with keySlots := Tbl.set s1.keySlots c none }
  else s

/-- A write of CTL; FREE is for the apex only (R296). -/
def State.writeCtl (s : State) (apex : Bool) (c : Nat) (v : Dword) : State :=
  let s1 := if v.getLsbD 0 then s.requestPreempt c else s
  let s2 := if v.getLsbD 1 then s1.kill c 0 else s1
  if v.getLsbD 2 && apex then s2.freeContext c else s2

/-- A write of a context record: doublewords 1 to 5 and 7 do not change while the context is RUNNING (R296). -/
def State.writeRecord (s : State) (apex : Bool) (c i : Nat) (v : Dword) : State :=
  let x := s.ctx c
  let fixed := x.st = .running
  match i with
  | 1 => if fixed then s else s.setCtx c { x with ptbase := v }
  | 2 => if fixed then s else s.setCtx c { x with tvec := v }
  | 3 => if fixed then s else s.setCtx c { x with htab := v }
  | 4 => if fixed then s else s.setCtx c { x with dqsb := v }
  | 5 => if fixed then s else s.setCtx c { x with saveb := v }
  | 6 => s.setCtx c { x with errh := v &&& 0x8000000FFFFCFFFF }
  | 7 =>
    if fixed then s
    else s.setCtx c { x with pnote := v.getLsbD 33, memsave := v.getLsbD 32, slice := bits v.toNat 31 0 }
  | 8 => s.writeCtl apex c v
  | _ => s

/-- A write of BASE (R79, R80). R79 calls it 64 KiB aligned and does not say what another value does: it is stored as
written (DESIGN CHOICE, log 56). -/
def State.writeBase (s : State) (c : Option Nat) (n : Nat) (v : Dword) : State :=
  let x := s.region n
  match c with
  | none => s.setRegion n { x with base := bits v.toNat 55 0 }
  | some c => if x.claimed && x.owner = c then s.setRegion n { x with base := bits v.toNat 55 0 } else s

/-- A write of LEN: a creation in a free slot, a revocation, or the field (R79, R80). A value that is no multiple of
64 KiB is stored as written (DESIGN CHOICE, log 56). R80 says of the owner's revocation alone that it clears CLAIMED,
OWNER, PERM and BASE: an apex write of 0 keeps them, and to a slot whose LEN is 0 it leaves GEN (DEDUCED, log 35). -/
def State.writeLen (s : State) (c : Option Nat) (n : Nat) (v : Dword) : State :=
  let x := s.region n
  let created : Region := { x with len := v.toNat, gen := if x.len = 0 then nextGen x.gen else x.gen, claimed := true }
  match c with
  | none =>
    if v = 0 then
      s.setRegion n { x with len := 0, gen := if x.len = 0 then x.gen else nextGen x.gen }
    else s.setRegion n created
  | some c =>
    if x.claimed && x.owner = c then
      if v = 0 then
        s.setRegion n { base := 0, len := 0, perm := 0, claimed := false, owner := 0, gen := nextGen x.gen }
      else s.setRegion n created
    else s

/-- A write of doubleword 2: a claim (R80). -/
def State.writeClaim (s : State) (c : Option Nat) (n : Nat) (v : Dword) : State :=
  let x := s.region n
  let perm := bits v.toNat 11 10
  let owner := bits v.toNat 8 0
  match c with
  | none => s.setRegion n { x with perm := perm, owner := owner, claimed := true }
  | some c =>
    if owner ≠ c then s
    else if !x.claimed then s.setRegion n { x with perm := perm, owner := c, claimed := true }
    else if x.owner = c then s.setRegion n { x with perm := perm }
    else s

/-- A write of a region descriptor. -/
def State.writeRegion (s : State) (c : Option Nat) (n i : Nat) (v : Dword) : State :=
  match i with
  | 0 => s.writeBase c n v
  | 1 => s.writeLen c n v
  | 2 => s.writeClaim c n v
  | _ => s

/-- A write of RETCFG: the idle counts restart (R117). -/
def State.writeRetcfg (s : State) (f : Nat) (v : Dword) : State :=
  s.setFacet f { s.facet f with idle := v.setWidth 32 }

/-- Whether every SSQ of a facet is empty. -/
def State.streamsQuiet (s : State) (f : Nat) : Bool :=
  s.slots.all fun t => t.1 / 256 ≠ f || (t.2.ssq.isEmpty && t.2.bypass.isEmpty)

/-- The slot with the hold and the fault record of the stream unit at their reset values (R202). -/
def Slot.resetFault (t : Slot) : Slot := { t with hold := false, faultWord := 0, faultWin := 0 }

/-- A write of SSOWN: REL releases the unit when every SSQ of its owner is empty; the unit, the holds and the fault records
of its slots reset as at a kill (R202, R296). -/
def State.writeSsown (s : State) (f : Nat) (v : Dword) : State :=
  if bit v.toNat 62 && s.streamsQuiet f then
    let s1 := s.setFacet f (s.facet f).resetStreams
    { s1 with slots := s1.slots.map fun t => if t.1 / 256 = f then (t.1, t.2.resetFault) else t }
  else s

/-- A write of STGCAN: an armed barrier is cancelled, and its token receives −10 with the bytes counted (R95). -/
def State.writeStgcan (s : State) (f b : Nat) (v : Dword) : State :=
  let x := (s.facet f).bar b
  if v.getLsbD 0 && x.armed then
    let s1 := s.setFacet f ((s.facet f).setBar b { x with armed := false })
    s1.setSlot x.slot ((s1.slot x.slot).writeTok x.tok (failWord 10 (x.total - x.count)))
  else s

/-- A write of an error log entry's doubleword 0: VALID is W1C (R303). -/
def State.writeLog (s : State) (a : LogAt) (i : Nat) (v : Dword) : State :=
  if v.getLsbD 63 then
    let l := s.log a
    s.setLog a { l with entries := Tbl.set l.entries i ((l.entry i).1 &&& 0x7FFFFFFFFFFFFFFF, (l.entry i).2) }
  else s

/-- A write of a register by who may write it. A handler's write of its slot's stream fault record, which R295 admits with the
live block and for which no rule gives an effect, has none (DESIGN CHOICE, log 21). -/
def State.cwrite (s : State) (w : Who) (r : CReg) (x : Dword) : State :=
  let c : Option Nat := match w with | .sup c _ => some c | .apex => none
  match r with
  | .xinv => s.writeXinv x
  | .lqctl q => if c.isNone then s.writeLqctl q x else s
  | .lqmask q j => if c.isNone then s.writeLqmask q j x else s
  | .record d i => s.writeRecord c.isNone d i x
  | .region n i => s.writeRegion c n i x
  | .retcfg f => s.writeRetcfg f x
  | .ssown f => s.writeSsown f x
  | .stgcan f b => s.writeStgcan f b x
  | .logEntry a i j => if j = 0 then s.writeLog a i x else s
  | .live u o => s.setSlot u ((s.slot u).writeLow o x)
  | .watch u i => s.setSlot u ((s.slot u).setWatch i x)
  | .xstat | .logHead _ | .tag _ _ | .mapEntry _ _ | .retst _ | .stgst _ _ | .faultWord _ _ => s

/-- The register that an address names, none where R289 gives PROT for the address itself. -/
def State.creg (s : State) (ea : Nat) : Option CReg :=
  if spaceOf ea ≠ 3 || !(devOf ea = 0 || devOf ea = s.devId) then none else cregAt (offOf ea)

end Sys2Proof.Machine
end

