-- ==== Sys2Proof/Machine/SaveArea.lean ====
section
/-!
DEFINITION. The save area in memory: where its records lie, how they are written and read through the context's page
table, and the messages that join the saved mailbox images of a context that is switched out (R248, R250, R270, R297,
R298).
-/

namespace Sys2Proof.Machine

/-! ## Records (R297, R298) -/

/-- The pieces of a range by 64 KiB pages: address and length. -/
def pagePieces (va n : Nat) : List (Nat × Nat) :=
  (List.range ((va % 65536 + n + 65535) / 65536)).map fun i =>
    let lo := max va ((va / 65536 + i) * 65536)
    (lo, min (va + n) ((va / 65536 + i + 1) * 65536) - lo)

/-- SAVEB's array, as a virtual address; SAVEB is 64 KiB aligned. -/
def State.saveBase (s : State) (c : Nat) : Nat := (s.ctx c).saveb.toNat / 65536 * 65536
def State.coreRec (s : State) (c g : Nat) : Nat := s.saveBase c + 8192 * g
def State.facetRec (s : State) (c f : Nat) : Nat := s.saveBase c + 0x50000000 + 0x400000 * f
def State.slotRec (s : State) (c u : Nat) : Nat := s.saveBase c + 0x300000000 + 0x14000 * u

/-- The places of the 64 KiB pages that a range touches, none where one faults. -/
def State.spanPlaces (s : State) (f c : Nat) (k : Kind) (va n : Nat) : Option (List Place) :=
  (List.range ((va % 65536 + n + 65535) / 65536)).mapM fun i => s.xlateNow f c k ((va / 65536 + i) * 65536)

/-- The place of byte `o` of a range. -/
def spanAt (l : List Place) (va o : Nat) : Place :=
  let p := l.getD ((va % 65536 + o) / 65536) { pa := 0, enc := none }
  { p with pa := p.pa + (va % 65536 + o) % 65536 }

/-- The physical pieces of a range whose pages are translated. -/
def spanPieces (l : List Place) (va n : Nat) : List (Nat × Nat) :=
  (pagePieces va n).map fun p => ((spanAt l va (p.1 - va)).pa, p.2)

/-- The codes of every unit checked that an error has struck in a range, whatever its length (R84, R115). -/
def State.touchSpan (s : State) (c pa n : Nat) : State :=
  (s.latent.filter fun u => pa ≤ u.1 && u.1 < pa + n).foldl (fun s u => s.touchUnit (some c) u.1) s

/-- The macros of places awake for the device's own access (R116). -/
def State.wakePlaces (s : State) (c : Nat) (l : List Place) : State := l.foldl (fun s p => s.wakeNow c p.pa) s

/-- What the device meets when it walks for a range and reads it: the page table's codes, macros that sleep, and the codes of
the range (R84, R115, R116). -/
def State.touchRec (s : State) (f c va n : Nat) : State :=
  let s1 := s.walksTouch c ((pagePieces va n).map (·.1))
  match s1.spanPlaces f c .load va n with
  | some l =>
    let s2 := s1.wakePlaces c l
    if s2.latent.isEmpty then s2 else (spanPieces l va n).foldl (fun s p => s.touchSpan c p.1 p.2) s2
  | none => s1

/-- Whether a byte of a range of pages is poisoned. -/
def State.poisonedSpan (s : State) (pa n : Nat) : Bool := s.poison.any fun u => pa ≤ u && u < pa + n

/-- A record written: zero but for the doublewords that `g` gives. -/
def State.saveRec (s0 : State) (f c va n : Nat) (g : Nat → Nat) : Option State :=
  let s := s0.walksTouch c ((pagePieces va n).map (·.1))
  (s.spanPlaces f c .store va n).map fun l =>
    let s1 := (pagePieces va n).foldl (fun s p => s.zeroSpan (spanAt l va (p.1 - va)) p.2) (s.wakePlaces c l)
    (List.range (n / 8)).foldl (fun s i =>
      let x := g (8 * i)
      if x = 0 then s else s.wr (spanAt l va (8 * i)) (toBytes x 8)) s1

/-- The doublewords of a record that change written. -/
def State.saveDiff (s : State) (f c va n : Nat) (old new : Nat → Nat) : State :=
  match s.spanPlaces f c .store va n with
  | none => s
  | some l => (List.range (n / 8)).foldl (fun s i =>
      if old (8 * i) = new (8 * i) then s else s.write c (spanAt l va (8 * i)) (toBytes (new (8 * i)) 8)) s

/-- A record read back, with the state after its codes were checked; none where an access faults or meets poison. -/
def State.loadRec (s0 : State) (f c va n : Nat) : Option (State × (Nat → Nat)) :=
  let s := s0.touchRec f c va n
  match s.spanPlaces f c .load va n with
  | none => none
  | some l =>
    if (spanPieces l va n).any fun p => s.poisonedSpan p.1 p.2 then none
    else some (s, fun o => s.rdNat (spanAt l va o) 8)

/-- A record as it stands in memory, or as the device keeps it where its pages do not translate. -/
def State.recordAt (s : State) (f c va n : Nat) (own : Nat → Nat) : Nat → Nat :=
  match s.spanPlaces f c .load va n with
  | some l => fun o => s.rdNat (spanAt l va o) 8
  | none => own

/-! ## The saved mailbox images (R248, R270) -/

/-- A core as it starts for context `c` (R274, R278). -/
def State.freshCore (s : State) (c g : Nat) : Core :=
  { Core.reset with
    tvec := (s.ctx c).tvec, htab := (s.ctx c).htab, gen := BitVec.ofNat 32 (2 ^ 31 + c * 2 ^ 18 + g) }

/-- Whether the save area of a context holds records of facet `f`: those of the set that was saved (R299). -/
def Ctx.restores (x : Ctx) (f : Nat) : Bool := !x.fresh && x.set.contains f

/-- Whether the save area of a context holds the record of core `g`: it was saved, or a message has joined it. -/
def Ctx.listed (x : Ctx) (g : Nat) : Bool := x.restores (g / 64) || x.keptCores.any (·.1 = g)

/-- What the device keeps of core `g` of a context beyond its record. -/
def State.keptCore (s : State) (c g : Nat) : Core := Tbl.get (s.freshCore c g) (s.ctx c).keptCores g

/-- Core `g` of a context that is switched out, as its record shows it. -/
def State.savedCore (s : State) (c g : Nat) : Core :=
  let k := s.keptCore c g
  if (s.ctx c).listed g then Core.ofRec k (s.recordAt (g / 64) c (s.coreRec c g) 8192 k.recDw) else k

/-- A message joins the saved mailbox image of core `g`: the record is written as far as it changes, or whole where it is
the first of its core, and the facet stays in the context's set (R270, R299). -/
def State.joinImage (s : State) (g c : Nat) (pri : Bool) (x : Held) : State :=
  let f := g / 64
  let va := s.coreRec c g
  let s0 := s.touchRec f c va 8192
  let k := s0.savedCore c g
  let k1 := k.enqueue pri x
  let s1 := if (s.ctx c).listed g then s0.saveDiff f c va 8192 k.recDw k1.recDw
    else (s0.saveRec f c va 8192 k1.recDw).getD s0
  let s2 := if (k1.ring pri).length = (k.ring pri).length then s1
    else s1.ringPut f c (k.ringBase pri) (k.ringHead pri + (k.ring pri).length) x.msg
  s2.setCtx c { s2.ctx c with
    keptCores := Tbl.set (s2.ctx c).keptCores g k1, kept := insertNat f (s2.ctx c).kept }

/-- Whether core `g` of context `c` has room for a message: its mailbox and ring while the context runs, their saved
images while it is switched out (R248, R270). -/
def State.roomAt (s : State) (g c : Nat) (pri : Bool) : Bool :=
  match (s.ctx c).st with
  | .running => (s.core g).hasRoom pri
  | .switchedOut => (s.savedCore c g).hasRoom pri
  | .free | .killed => false

/-- A message accepted for core `g` of context `c`: into its mailbox or ring while the context runs, into the saved
mailbox images while it is switched out (R248, R270). -/
def State.acceptAt (s : State) (g c : Nat) (pri : Bool) (x : Held) : State :=
  match (s.ctx c).st with
  | .running => s.deliver g c pri x
  | .switchedOut => s.joinImage g c pri x
  | .free | .killed => s

/-- The address of the allowance in the saved record of slot `u` of a context: byte 0x111 (R297). -/
def State.allowAddr (s : State) (c u : Nat) : Nat := s.slotRec c u + 0x111

/-- A byte of allowance one higher, up to 32. -/
def State.countUnit (s0 : State) (c : Nat) (p : Place) : State :=
  let s := (s0.wakeNow c p.pa).touch c p.pa 1
  s.write c p [BitVec.ofNat 8 (min 32 (s.rdNat p 1 + 1))]

/-- A unit of send allowance into the saved record of slot `u`, whose byte of allowance stands at `va`; where the record's
page does not translate the device keeps the unit for the placement (log 17). -/
def State.returnSaved (s0 : State) (c u va : Nat) : State :=
  let s := s0.walkTouch c (va / 65536)
  match s.xlateNow (u / 256) c .store va with
  | some p => if (s.ctx c).restores (u / 256) then s.countUnit c p else s
  | none =>
    let t := Tbl.get Slot.reset (s.ctx c).keptSlots u
    s.setCtx c { s.ctx c with keptSlots := Tbl.set (s.ctx c).keptSlots u { t with allow := t.allow + 1 } }

/-- A unit of send allowance back to the slot that sent the message, up to 32 (R250); for a slot of a context that is
switched out it goes into the saved record (R330, R331). -/
def State.returnUnit (s : State) (src : Option Nat) (c : Option Nat) : State :=
  match src, c with
  | some u, some c =>
    if (s.facet (u / 256)).ctx = some c then s.setSlot u { s.slot u with allow := min 32 ((s.slot u).allow + 1) }
    else if (s.ctx c).st = .switchedOut then s.returnSaved c u (s.allowAddr c u)
    else s
  | _, _ => s

end Sys2Proof.Machine
end

