-- ==== Sys2Proof/Machine/Tasks.lean ====
section
/-!
DEFINITION. Messages and tasks: MVM, SEND, SPAWN, join records, SUSP and MIGR (R242 to R258, R264 to R267, R286).
-/

namespace Sys2Proof.Machine

/-- MVM (R251). -/
def execMvm (d a : Reg) (s : State) : Out :=
  let t := s.here
  if t.srcPend [a] then s.stall else .next (s.setHere (t.setM d.toNat (t.s a.toNat)).advance)

/-- The message in m0 to m7. -/
def Slot.message (t : Slot) : Msg :=
  { hdr := t.m.getD 0 0, args := Vector.ofFn fun i => t.m.getD (i.val + 1) 0 }

/-! ## Destinations (R245 to R247) -/

/-- What a destination word resolves to. -/
inductive Target where
  | ok (d : Dest)
  | trap (code : Nat)
  | wait (va : Nat)
deriving DecidableEq, Repr

/-- The receiver of an address on its own device (R246). -/
def ownReceiver (pa : Nat) : Dest :=
  if spaceOf pa = 1 then .core (localCore pa)
  else if spaceOf pa = 2 then .core (64 * spadFacet pa + bits (offOf pa) 17 12)
  else .unit (unitOf pa)

/-- The receiver of a translated address (R246); on another device the fabric carries it, with the address less its DEVICE
(R316). -/
def receiver (pa : Nat) : Dest := if devOf pa ≠ 0 then .far (devOf pa) (dw (pa % 2 ^ 52)) else ownReceiver pa

/-- The receiver on another device that a word names: a core or a launch queue in the named form, else the owner of an
address (R245, R246). -/
def farReceiver (x : Nat) : Dest :=
  if bit x 63 then (if bits x 62 60 = 0 then .core (bits x 17 0) else .queue (bits x 17 0)) else ownReceiver x

/-- A core of the own device outside the context's facet set takes PROT (R247). -/
def State.inSet (s : State) (d : Dest) : Target :=
  match d with
  | .core g => if coreIn (s.facetSet s.myCtx) g then .ok d else .trap causeProt
  | .unit _ | .queue _ | .far _ _ => .ok d

/-- Whether a DEVICE field names the own device (R245, R315). -/
def State.ownDevice (s : State) (d : Nat) : Bool := d == 0 || d == s.devId

/-- The named form of a destination word (R245). -/
def State.named (s : State) (x : Nat) (launches : Bool) : Target :=
  let kind := bits x 62 60
  let dev := bits x 59 48
  let n := bits x 17 0
  if bits x 47 18 ≠ 0 || 1 < kind then .trap causeProt
  else if kind = 0 then
    if numCores ≤ n then .trap causeProt
    else if s.ownDevice dev then s.inSet (.core n) else .ok (.far dev (dw x))
  else if !launches || numQueues ≤ n then .trap causeProt
  else if s.ownDevice dev then .ok (.queue n) else .ok (.far dev (dw x))

/-- Resolve of R252: `launches` says whether a launch queue is a destination (R245). -/
def State.resolve (s : State) (x : Nat) (launches : Bool) : Target :=
  if bit x 63 then s.named x launches
  else if bits x 62 56 ≠ 0 then .trap causeProt
  else match s.look .load false x with
    | .trap code => .trap code
    | .wait => .wait x
    | .ok p => s.inSet (receiver p.pa)

/-- Scope(t) of R252: the smallest scope that contains the local memory of the receiving core. -/
def destScope (g : Nat) (d : Dest) : Scope :=
  match d with
  | .core h =>
    if h = g then .core else if h / 64 = g / 64 then .facet else if h / 64 / 320 = g / 64 / 320 then .prism else .dev
  | .unit _ | .queue _ => .dev
  | .far _ _ => .sys

/-- Whether a destination is a launch queue that stands frozen: its VALID is 0, and the context that it names runs or is
switched out (R331, log 53). -/
def State.frozenAt (s : State) : Dest → Bool
  | .queue q =>
    !(s.queue q).valid && ((s.ctx (s.queue q).ctx).st == .running || (s.ctx (s.queue q).ctx).st == .switchedOut)
  | .core _ | .unit _ | .far _ _ => false

/-- A message transmitted by the running slot: a unit of its allowance goes with it (R250). -/
def State.transmit (s : State) (m : Msg) (d : Dest) : State :=
  let s1 := s.setHere { s.here with allow := s.here.allow - 1 }
  let p : Packet :=
    { src := some s.cur, away := none, ctx := some s.myCtx, pri := hdrPri m.hdr.toNat
      held := { msg := m, grant := false }, dest := d, via := none, frozen := s.frozenAt d }
  { s1 with msgs := s1.msgs ++ [p] }

/-- The header with PRI replaced. -/
def withPri (h : Dword) (pri : Bool) : Dword := dw (setBits h.toNat 18 18 (b2n pri))

/-- SEND and SENDH (R252). -/
def State.send (s : State) (d a : Reg) (pri : Bool) : Out :=
  let t := s.here
  let x := t.s a.toNat
  let m := t.message
  if t.srcPend [a] then s.stall
  else if t.isPend d.toNat then .next (s.clobber d.toNat)
  else if m.bad then .next (s.trap causeProt m.hdr)
  else match s.resolve x.toNat true with
    | .trap code => .next (s.trap code x)
    | .wait va => .next (s.waitOn va)
    | .ok r =>
      if t.allow = 0 then .next (s.setHere (t.setS d.toNat 1).advance)
      else if t.releaseHeld (destScope s.myCore r) s.myCore then s.stall
      else
        let s1 := s.transmit { m with hdr := withPri m.hdr pri } r
        .next (s1.setHere (s1.here.setS d.toNat 0).advance)

def execSend (d a : Reg) (s : State) : Out := s.send d a false
def execSendh (d a : Reg) (s : State) : Out := s.send d a true

/-- SPAWN (R254). -/
def execSpawn (d : Reg) (s : State) : Out :=
  let t := s.here
  let m := t.message
  if t.isPend d.toNat then .next (s.clobber d.toNat)
  else if m.bad || hdrPri m.hdr.toNat || hdrCont m.hdr.toNat then .next (s.trap causeProt m.hdr)
  else if (s.core s.myCore).dqFull then
    if d.toNat = 0 then .next (s.trap causeSpawnLimit 96) else .next (s.setHere (t.setS d.toNat 1).advance)
  else if t.releaseHeld .dev s.myCore then s.stall
  else
    let s1 := s.pushTop s.myCore s.myCtx { msg := m, grant := false }
    .next (s1.setHere (s1.here.setS d.toNat 0).advance)

/-! ## Join records (R264 to R267) -/

/-- The fields of a counter word. -/
def joinCount (w : Nat) : Nat := bits w 31 0
def joinParked (w : Nat) : Bool := bit w 35

/-- JINIT (R265). -/
def execJinit (a b : Reg) (s : State) : Out :=
  let t := s.here
  let x := t.s a.toNat
  let y := t.s b.toNat
  let va := x.toNat / 8 * 8
  let sc := bits x.toNat 2 0
  if t.srcPend [a, b] then s.stall
  else if 4 < sc then .next (s.trap causeProt x)
  else if 2 ^ 32 ≤ y.toNat then .next (s.trap causeProt y)
  else if t.fencedStore s.myCore then s.stall
  else match s.look .store true va with
    | .trap code => .next (s.trap code (dw va))
    | .wait => .next (s.waitOn va)
    | .ok p =>
      if spaceOf p.pa ≠ 1 || localCore p.pa ≠ s.myCore || 16384 < p.pa % 16384 + 72 then
        .next (s.trap causeProt (dw va))
      else if t.watched 1 va 8 then .next (s.trap causeWatch (dw va))
      else if s.writeHeld s.cur va p.pa 8 then s.stall
      else
        let s1 := s.write s.myCtx p (toBytes (y.toNat + sc * 2 ^ 32) 8)
        .next (s1.setHere ({ t with pendJoin := some (dw va) }.performed p.pa 8)).done

/-- ARRIVE, which releases at the scope of its reference, and ARRIVE.RLX (R266). -/
def State.arriveAt (s : State) (a : Reg) (rlx : Bool) : Out :=
  let t := s.here
  let x := t.s a.toNat
  let va := x.toNat / 8 * 8
  let sc := bits x.toNat 2 0
  if t.srcPend [a] then s.stall
  else if 4 < sc then .next (s.trap causeProt x)
  else match s.look .store false va with
    | .trap code => .next (s.trap code (dw va))
    | .wait => .next (s.waitOn va)
    | .ok p =>
      if spaceOf p.pa ≠ 1 then .next (s.trap causeProt (dw va))
      else if (!rlx && t.releaseHeld (scopeCode sc) s.myCore) || t.sbuf.any (·.mayOverlap p.pa 8)
          || t.replay.any (fun r => meets r.va r.data.length va 8) then s.stall
      else .next ((s.setHere (t.dropEarly (·.meets p.pa 8))).sendArrival s.myCtx s.cur p.pa).done

def execArrive (a : Reg) (s : State) : Out := s.arriveAt a false
def execArriveRlx (a : Reg) (s : State) : Out := s.arriveAt a true

/-- A message of context `c` for core `g` of this device: into its mailbox at once where there is room, else on its way
there (R267). -/
def State.enterBox (s : State) (g c : Nat) (m : Msg) : State :=
  let pri := hdrPri m.hdr.toNat
  let x : Held := { msg := m, grant := false }
  if (s.ctx c).st = .running && coreIn (s.ctx c).set g && (s.core g).hasRoom pri then s.deliver g c pri x
  else { s with msgs := s.msgs ++ [Packet.own (some c) pri x (.core g)] }

/-- Park (R267): the continuation is written at A + 8; with COUNT = 0 it enters the mailbox of the record's core at
once, else PARKED is set. A poisoned counter word counts as it stands (log 84). -/
def State.park (s : State) (c pa : Nat) (m : Msg) : State :=
  let s1 := (s.write c { pa := pa + 8, enc := none } m.bytes).touch c pa 8
  let w := s1.rdNat { pa := pa, enc := none } 8
  if joinCount w = 0 then s1.enterBox (localCore pa) c m
  else
    let s2 := s1.write c { pa := pa, enc := none } (toBytes (setBits w 35 35 1) 8)
    s2.setCtx c { s2.ctx c with parkedJoins := insertNat pa (s2.ctx c).parkedJoins }

/-! ## Continuations (R256 to R258, R286) -/

/-- The continuation of R256 that resumes at `pc`: the header's PRI and JOIN, S[25] to S[31], and the retained join
reference in doubleword 7 when JOIN = 1. -/
def Slot.continuation (t : Slot) (pc : Nat) : Msg :=
  let h := t.hdr.toNat
  { hdr := dw (pc / 4 % 2 ^ 32 * 2 ^ 32 + 2 ^ 21 + b2n (hdrJoin h) * 2 ^ 20 + b2n (hdrPri h) * 2 ^ 18)
    args := Vector.ofFn fun i => if i.val = 6 && hdrJoin h then t.joinRef else t.regs.getD (i.val + 25) 0 }

/-- Whether the waits of R101 and R257 hold SUSP or MIGR. -/
def Slot.convWaits (t : Slot) : Bool := !t.pend.isEmpty || t.sbuf.any (·.untranslated)

/-- Where the continuation of SUSP goes: the pending join record, or the top of the deque (R257). -/
inductive Resting where
  | record (p : Place)
  | deque
  | trap (code : Nat) (tval : Dword)
deriving DecidableEq, Repr

/-- The record of a pending JINIT, checked as JINIT checked it, else the deque when it has room (R254, R257). R257 names no
translation of the record at Park: DESIGN CHOICE, log 32: its address is translated again, and one that no longer leads to
the core's own local memory takes PAGE or PROT. -/
def State.resting (s : State) : Resting :=
  match s.here.pendJoin with
  | some va =>
    match s.xlateAgain s.myFacet s.myCtx .store true va.toNat with
    | .ok p => if spaceOf p.pa = 1 && localCore p.pa == s.myCore then .record p else .trap causeProt va
    | .prot => .trap causeProt va
    | .page | .miss => .trap causePage va
  | none => if (s.core s.myCore).dqFull then .trap causeSpawnLimit 96 else .deque

/-- The codes of the page table entries checked that the look at a pending join reads (R84). -/
def State.restTouch (s : State) : State :=
  match s.here.pendJoin with
  | some va => s.walkTouch s.myCtx (va.toNat / 65536)
  | none => s

/-- The continuation laid to rest and the slot freed (R257); the keys are released, which is nothing at task level. -/
def State.suspend (s : State) (m : Msg) (r : Resting) : State :=
  let c := s.myCtx
  let s1 := s.releaseKeys c s.here.keys
  let s2 := match r with
    | .record p => s1.park c p.pa m
    | .deque => s1.pushTop s.myCore c { msg := m, grant := false }
    | .trap _ _ => s1
  s2.setHere s2.here.ended

/-- SUSP at task level, with the resume address (R257). -/
def State.suspTask (s : State) (target : Dword) : Out :=
  let t := s.here
  if t.convWaits then s.stall
  else if !t.keys.isEmpty then .next (s.trap causeKeyHeld 0)
  else if 2 ^ 34 ≤ target.toNat then .next (s.trap causeProt target)
  else if t.releaseHeld .sys s.myCore then s.stall
  else match s.restTouch.resting with
    | .trap code tval => .next (s.restTouch.trap code tval)
    | r => .next (s.restTouch.suspend (t.continuation target.toNat) r)

/-- The slot with the held SSQ commands discarded (R199). -/
def Slot.dropHeld (t : Slot) : Slot :=
  if t.hold then { t with hold := false, ssq := [], pend := t.pend.filter fun n => !t.ssq.any (·.tok = n) } else t

/-- The conversion of a trapped task, once it has returned to task level: it waits as SUSP does, releases the keys and
resumes at EPC; a trap of its own still falls under R285 (R286). The held SSQ commands are discarded when the task turns
into the continuation, so that its waits do not wait for them and an abandoned conversion keeps them (R199). -/
def State.convert (s : State) : Out :=
  let t := s.here.dropHeld
  if t.convWaits then s.stall
  else if 2 ^ 34 ≤ t.epc.toNat then .next (s.kill s.myCtx causeProt)
  else if t.releaseHeld .sys s.myCore then s.stall
  else match s.restTouch.resting with
    | .trap code _ => .next (s.restTouch.kill s.myCtx code)
    | r => .next ((s.restTouch.setHere t).suspend (t.continuation t.epc.toNat) r)

/-- SUSP of a handler (R286): it returns to task level, the parked stores and commands walk again, and the conversion
goes on there. -/
def State.suspHandler (s : State) (o : BitVec 21) : Out :=
  let t := s.here
  if o ≠ 0 then .next (s.trap causeIllegal (wordOf (.susp o)))
  else if t.start then .next (s.trap causeProt (wordOf (.susp o)))
  else .next (((s.setHere { t with sup := false, leaving := false, conv := true }.rewalk).replay s.cur).rewalkCode s.cur)

/-- SUSP (R257, R286). -/
def execSusp (o : BitVec 21) (s : State) : Out :=
  if s.here.conv then s.convert
  else if s.here.sup then s.suspHandler o
  else s.suspTask (s.here.pc + off21 o)

/-- MIGR (R258): it waits for a unit of allowance, drops a pending JINIT and sends the continuation. -/
def execMigr (a : Reg) (o : BitVec 16) (s : State) : Out :=
  let t := s.here
  let x := t.s a.toNat
  let target := t.pc + off16 o
  if t.sup then .next (s.trap causeProt (wordOf (.migr a o)))
  else if t.convWaits then s.stall
  else if !t.keys.isEmpty then .next (s.trap causeKeyHeld 0)
  else match s.resolve x.toNat false with
    | .trap code => .next (s.trap code x)
    | .wait va => .next (s.waitOn va)
    | .ok r =>
      if 2 ^ 34 ≤ target.toNat then .next (s.trap causeProt target)
      else if t.allow = 0 || t.releaseHeld .sys s.myCore then s.stall
      else
        let s1 := s.transmit (t.continuation target.toNat) r
        .next (s1.setHere s1.here.ended)

end Sys2Proof.Machine
end

