-- ==== Sys2Proof/Machine/Mail.lean ====
section
/-!
DEFINITION. Launch queues, messages on their way, and what reaches the device from the fabric (R245 to R250, R272, R273,
R316 to R320, R332, R335).
-/

namespace Sys2Proof.Machine

/-! ## Launch queues (R272, R273) -/

/-- LQCTL: a write of a launch queue's control doubleword by an apex core. -/
def execLqctl (q : Nat) (v : Dword) (s : State) : Out := .next (s.writeLqctl q v)

/-- The global physical address of a queue's LQCTL (R294). -/
def lqctlAddr (q : Nat) : Nat := 3 * 2 ^ 48 + 0x10000 + 512 * q

/-- The core after `g` in ascending global core order among those of a facet set, wrapping to the lowest. -/
def nextCore (set : List Nat) (g : Nat) : Nat :=
  if g % 64 < 63 then g + 1
  else match set.find? (g / 64 < ·) with
    | some f => 64 * f
    | none => 64 * set.headD 0

/-- The receiver that a packet was sent to, with its device: the vertex unit that has forwarded it, else where it goes; on
another device the core, unit or queue that its word or address names there (R245, R246, R249). -/
def Packet.target (p : Packet) : Nat × Dest :=
  match p.via, p.dest with
  | some v, _ => (0, .unit v)
  | none, .far d w => (d, farReceiver w.toNat)
  | none, x => (0, x)

/-- Whether an earlier packet of the same sending slot, of this or another device, or of the loader, to the same receiver
at the same priority stands before packet `k` (R16, R249). -/
def Packet.behind (l : List Packet) (k : Nat) (p : Packet) : Bool :=
  (p.src.isSome || p.away.isSome || p.ctx.isNone)
    && (l.take k).any fun e =>
      e.src == p.src && e.away == p.away && e.ctx == p.ctx && e.target == p.target && e.pri == p.pri

/-- A packet that was accepted, or discarded on its way: it leaves the network and its unit returns. R250 returns a unit when the
message is accepted, and does not say what becomes of that of one which is discarded: DESIGN CHOICE, log 86: it returns. -/
def State.settlePacket (s : State) (k : Nat) (p : Packet) : State :=
  ({ s with msgs := dropAt s.msgs k } : State).returnUnit p.src p.ctx

/-- A launch arrives at queue `q`: discarded with a log entry, as is one that was sent while its queue stood frozen,
refused, or held (R273, R331). -/
def State.launchAt (s : State) (q k : Nat) (p : Packet) : State :=
  let x := s.queue q
  if !x.valid || x.facets.isEmpty || p.frozen then (s.settlePacket k p).logEvent .device 10 p.ctx 1 (lqctlAddr q) true
  else if 64 ≤ x.held.length then s
  else (s.setQueue q { x with held := x.held ++ [{ msg := p.held.msg, src := p.ctx }] }).settlePacket k p

/-- LAUNCH. -/
def execLaunch (k : Nat) (s : State) : Out :=
  match s.msgs[k]? with
  | none => .next s
  | some p =>
    match p.dest with
    | .queue q => .next (if Packet.behind s.msgs k p then s else s.launchAt q k p)
    | .core _ | .unit _ | .far _ _ => .next s

/-- A queue after it has forwarded its oldest launch. -/
def LaunchQ.forwarded (x : LaunchQ) : LaunchQ :=
  { x with held := x.held.tail, cursor := nextCore x.facets x.cursor, drain := x.drain && !x.held.tail.isEmpty }

/-- LAUNCH_FORWARD: the oldest launch goes to the core named by CURSOR, at the queue's priority, where there is room; the
launch of a killed context is discarded (R273). Where that core lies outside the facet set of the running context, whose queue
became valid after the placement, the launch waits, and those behind it (DEDUCED, log 37). -/
def execLaunchForward (q : Nat) (s : State) : Out :=
  let x := s.queue q
  match x.held with
  | [] => .next s
  | l :: _ =>
    let h : Held := { msg := { l.msg with hdr := withPri l.msg.hdr x.pri }, grant := false }
    match (s.ctx x.ctx).st with
    | .killed | .free => .next (s.setQueue q x.forwarded)
    | .switchedOut =>
      .next (if s.roomAt x.cursor x.ctx x.pri then (s.acceptAt x.cursor x.ctx x.pri h).setQueue q x.forwarded else s)
    | .running =>
      .next (if coreIn (s.ctx x.ctx).set x.cursor && s.roomAt x.cursor x.ctx x.pri then
        (s.acceptAt x.cursor x.ctx x.pri h).setQueue q x.forwarded else s)

/-! ## MESSAGE_ARRIVAL (R246 to R250) -/

/-- The address that a lost message's log entry carries: the spec states none for an event without an address (log 19). -/
def State.lostAddr (s : State) : Nat := Config.freePick s.tick (2 ^ 62)

/-- A message lost: KIND 8 in the device error log, reported to the context's error handler (R247, R318, R319). -/
def State.lose (s : State) (c : Option Nat) : State := s.logEvent .device 8 c 1 s.lostAddr true

/-- The facets among which vertex unit `v` chooses for context `c`: those of the prism of its stack, else all (R246). -/
def State.unitChoice (s : State) (c v : Nat) : List Nat :=
  let set := s.facetSet c
  let near := set.filter fun f => f / 320 = v / 32
  if near.isEmpty then set else near

/-- The core that a vertex unit's rotation for a context points at (R335). -/
def State.pointed (s : State) (c v : Nat) : Nat :=
  let l := s.unitChoice c v
  let g := Tbl.get (64 * l.headD 0) s.rotation (512 * v + c)
  if coreIn l g then g else 64 * l.headD 0

/-- A packet at a vertex unit goes on to the core of the rotation, which moves (R246, R335). For a context without a facet here
the rules name neither a core nor an outcome: DESIGN CHOICE, log 83: the packet waits until the context has one. -/
def State.forwardUnit (s : State) (k : Nat) (p : Packet) (v : Nat) : State :=
  let c := p.ctx.getD 0
  let g := s.pointed c v
  if (s.unitChoice c v).isEmpty then s
  else
    { s with
      msgs := setAt s.msgs k { p with dest := .core g, via := some v }
      rotation := Tbl.set s.rotation (512 * v + c) (nextCore (s.unitChoice c v) g) }

/-- Whether context `c` can take a message at core `g`: it runs there, or is switched out (R247, R270). -/
def State.takesAt (s : State) (g c : Nat) : Bool :=
  match (s.ctx c).st with
  | .running => coreIn (s.ctx c).set g
  | .switchedOut => true
  | .free | .killed => false

/-- A packet at a core: accepted, refused, or lost where its context cannot take it (R247, R248, R270). -/
def State.arriveCore (s : State) (k : Nat) (p : Packet) (g : Nat) : State :=
  let c := p.ctx.getD 0
  if !s.takesAt g c then (s.settlePacket k p).lose p.ctx
  else if s.roomAt g c p.pri then (s.acceptAt g c p.pri p.held).settlePacket k p
  else s

/-- A packet for another device: handed to the fabric, lost where the device was declared unreachable, waiting while no
route leads there (R314, R316, R318). The unit of the sending slot returns when that device has accepted it (R250). -/
def State.arriveFar (s : State) (k : Nat) (p : Packet) (d : Nat) : State :=
  if s.unreachable.contains d then (s.settlePacket k p).lose p.ctx
  else if s.unrouted d then s
  else
    { s with
      msgs := dropAt s.msgs k
      fabricOut := s.fabricOut ++ [p]
      owed := s.owed ++ [p] }

/-- Another device has accepted the message of entry `k` of those that the fabric carries: its unit returns (R250). -/
def State.acceptedFar (s : State) (k : Nat) : State :=
  match s.owed[k]? with
  | none => s
  | some p => ({ s with owed := dropAt s.owed k } : State).returnUnit p.src p.ctx

/-- MESSAGE_ARRIVAL. -/
def execMessageArrival (k : Nat) (s : State) : Out :=
  match s.msgs[k]? with
  | none => .next s
  | some p =>
    if Packet.behind s.msgs k p then .next s
    else match p.dest with
      | .core g => .next (s.arriveCore k p g)
      | .unit v => .next (s.forwardUnit k p v)
      | .far d _ => .next (s.arriveFar k p d)
      | .queue _ => .next s

/-! ## From the fabric (R247, R319, R320) -/

/-- Whether a destination on this device lies where the context may be reached: a core of its facet set (R247). -/
def State.reachesSet (s : State) (c : Nat) : Dest → Bool
  | .core g => coreIn (s.facetSet c) g
  | .unit _ | .queue _ => true
  | .far _ _ => false

/-- A packet that the fabric brings: discarded and logged when its sender may not carry its context, or its core lies
outside the context's set; else on its way in. A launch of an adapter has no context. -/
def State.fromFabric (s : State) (p : Inbound) : State :=
  if !(Tbl.get [] s.admission p.from_).contains p.ctx then s.lose (some p.ctx)
  else if !s.reachesSet p.ctx p.dest then s.lose (some p.ctx)
  else
    let own := match p.dest with
      | .queue _ => if s.peers.contains p.from_ then some p.ctx else none
      | .core _ | .unit _ | .far _ _ => some p.ctx
    let q : Packet :=
      { src := none, away := some (p.from_, p.slot), ctx := own, pri := p.pri, held := { msg := p.msg, grant := false }
        dest := p.dest, via := none, frozen := s.frozenAt p.dest }
    { s with msgs := s.msgs ++ [q] }

end Sys2Proof.Machine
end

