-- ==== Sys2Proof/Machine/Engine.lean ====
section
/-!
DEFINITION. What the engines share: when a command may go on, its reads and writes of memory, its faults, what ends
it at its owner, and what it sends (R59, R71, R74, R75, R81, R85 to R88, R94, R318, R333).
-/

namespace Sys2Proof.Machine

/-- Whether the engines of slot `u`'s facet work for its context: it runs and is not halted for a switch (R281). -/
def State.working (s : State) (u : Nat) : Bool :=
  match (s.facet (u / 256)).ctx with
  | some c => (s.ctx c).st = .running && !(s.ctx c).halt
  | none => false

/-! ## Fields (R89, R92, R95) -/

def cSH (w : Tile) : Bool := wf w 239 239 == 1
def cDH (w : Tile) : Bool := wf w 238 238 == 1
def cRows (w : Tile) : Nat := if cSH w || cDH w then 1 else max (wf w 223 208) 1
def cSPitch (w : Tile) : Nat := if cSH w || cDH w then 0 else wf w 207 184
def cDPitch (w : Tile) : Nat := if cSH w || cDH w then 0 else wf w 183 160
def cHoff (w : Tile) : Nat := wf w 223 184
def cCount (w : Tile) : Nat := wf w 159 128
def cDst (w : Tile) : Nat := wf w 127 64
def cSrc (w : Tile) : Nat := wf w 63 0
def gElen (w : Tile) : Nat := wf w 231 216
def gN (w : Tile) : Nat := wf w 215 192
def gIdx (w : Tile) : Nat := wf w 191 128

/-! ## Handles (R78, R81) -/

/-- The handle that a copy names, if it names one. -/
def copyHandle (w : Tile) : Option Nat :=
  if wOpc w = 0x01 && cSH w then some (cSrc w)
  else if (wOpc w = 0x01 || wOpc w = 0x04) && cDH w then some (cDst w)
  else none

def hDevice (h : Nat) : Nat := bits h 63 52
def hKind (h : Nat) : Nat := bits h 51 48
def hSlot (h : Nat) : Nat := bits h 31 20
def hGen (h : Nat) : Nat := bits h 19 0

/-- A region handle whose generation its slot no longer holds, or that is invalid (R78). -/
def State.staleRegion (s : State) (h : Nat) : Bool :=
  !(1 ≤ hKind h && hKind h ≤ 2) || bits h 47 32 ≠ 0 || hGen h = 0 || hGen h ≠ (s.region (hSlot h)).gen

/-- Whether a DEVICE field of a handle names this device (R78, R315). -/
def State.handleHere (s : State) (h : Nat) : Bool := hDevice h = 0 || hDevice h = s.devId

/-- Where the 256-byte granule of the region offset begins that byte `pos` of a transfer from offset `o` lies in (R81). -/
def granAt (o pos : Nat) : Nat := (o + pos) / 256 * 256 - o

/-- The same for a command. -/
def granStart (w : Tile) (pos : Nat) : Nat := granAt (cHoff w) pos

/-- Whether the granule of byte `pos` begins at a 256-byte boundary of the region offset that a transfer from offset `o` crosses:
the first granule of one that begins inside it has no boundary, hence no check (R81). -/
def granChecked (o pos : Nat) : Bool := o ≤ (o + pos) / 256 * 256

/-- Whether a command's region of this device was revoked and no byte of the 256-byte granule in progress has been moved
beyond its boundary: its outstanding deliveries are all that was sent of the granule (R81). -/
def State.revokedAhead (s : State) (c : Cmd) (pos : Nat) : Bool :=
  match copyHandle c.word with
  | none => false
  | some h =>
    s.handleHere h && s.staleRegion h && granChecked (cHoff c.word) pos && granStart c.word pos + (c.out.map (·.data.length)).sum = c.pos

/-! ## Reads of operands -/

/-- What stops a read or write of an engine. -/
inductive Stop where
  | none
  | prot
  | cut
  | wait (va : Nat)
  | sleep (pa : Nat)
deriving DecidableEq, Repr

/-- What a read comes to: the state after the codes were checked, the bytes read before it stopped, the offsets of the
poisoned ones, and what stopped it. -/
structure Fetched where
  s : State
  b : List Byte
  bad : List Nat
  stop : Stop
deriving DecidableEq, Repr

/-- Translation of an access of an engine, and whether the place can be reached and is awake. -/
def State.place (s : State) (f c : Nat) (k : Kind) (va : Nat) : Place × Stop :=
  match s.xlate f c k false va with
  | .ok p =>
    (p, if s.cutOff p.pa then .cut else if s.asleep p.pa then .sleep p.pa else .none)
  | .prot => ({ pa := 0, enc := none }, .prot)
  | .page | .miss => ({ pa := 0, enc := none }, .wait va)

/-- The `n` bytes at a virtual address, as facet `f` reads them for context `c`, granule by granule with fuel. An access
through a region handle is the region owner's: its context translates it, encrypts it, and owns it for the log and the
report (R81, R82; R84 leaves the last open: DESIGN CHOICE, log 58). -/
def State.fetchFrom (s : State) (f c : Nat) : Nat → Nat → Nat → Fetched
  | 0, _, _ => { s := s, b := [], bad := [], stop := .none }
  | fuel + 1, va, n =>
    if n = 0 then { s := s, b := [], bad := [], stop := .none }
    else
      let k := min n (64 - va % 64)
      match s.place f c .load va with
      | (p, .none) =>
        let s1 := s.touch c p.pa k
        let r := s1.fetchFrom f c fuel (va + k) (n - k)
        { s := r.s, b := s1.rd p k ++ r.b, bad := s1.badOffsets p.pa k ++ r.bad.map (· + k), stop := r.stop }
      | (_, e) => { s := s, b := [], bad := [], stop := e }

/-- The `n` bytes at a virtual address. -/
def State.fetchBytes (s : State) (f c va n : Nat) : Fetched := s.fetchFrom f c (n / 64 + 2) va n

/-- Several ranges of bytes read in order, until one stops: the bytes of each. -/
structure FetchedL where
  s : State
  rows : List (List Byte)
  bad : Bool
  stop : Stop
deriving DecidableEq, Repr

def State.fetchList (s : State) (f c : Nat) : List (Nat × Nat) → FetchedL
  | [] => { s := s, rows := [], bad := false, stop := .none }
  | (va, n) :: t =>
    let r := s.fetchBytes f c va n
    match r.stop with
    | .none =>
      let q := r.s.fetchList f c t
      { q with rows := r.b :: q.rows, bad := !r.bad.isEmpty || q.bad }
    | e => { s := r.s, rows := [], bad := !r.bad.isEmpty, stop := e }

/-! ## Queues -/

/-- The common checks of R59 for a queue's opcodes. -/
def Cmd.badCommon (c : Cmd) (ok : Nat → Bool) : Bool := !ok (wOpc c.word) || 5 ≤ wScope c.word

/-- A command that waits on translation: the facet's miss table takes the miss (R73, R74), and asks for no walk while the
slot's walks must wait for a store to a page table (R76). -/
def State.engWait (s : State) (u : Nat) (w : Which) (e : Nat) (c : Cmd) (ctx va : Nat) : State :=
  if (s.slot u).walkHeld (u / 4) then s
  else (s.missOn (u / 256) ctx va).update u w e { c with wait := some (va, ctx) }

/-- What a stopped access makes of a command with `count` bytes done: −4, −15, a wait on translation or on a macro. -/
def State.engStop (s : State) (u : Nat) (w : Which) (e : Nat) (c : Cmd) (ctx count : Nat) (stop : Stop) : State :=
  match stop with
  | .none => s
  | .prot => s.update u w e (c.fail 4 count)
  | .cut => s.update u w e (c.fail 15 count)
  | .wait va => s.engWait u w e c ctx va
  | .sleep pa => s.rouse ctx pa

/-! ## Deliveries (R85, R87, R103, R115) -/

/-- A delivery that fails at its owner ends its command there: what comes after it is not written, and the count is that of
the bytes before it (R88, R110, R318, R333). An earlier one that fails later lowers the count. -/
def Cmd.cutAt (c : Cmd) (k code : Nat) (d : Deliv) : Cmd :=
  { c.fail code d.pos with pos := d.pos, out := c.out.take k }

/-- A command whose region was revoked ends at the start of the granule in progress (R81, R88). -/
def Cmd.revoke (c : Cmd) (pos : Nat) : Cmd := { c.fail 6 (granStart c.word pos) with out := [] }

/-- The code of a delivery that fails at its owner, if it does: an erased key slot (R325), a device declared unreachable
(R318), a stationary macro (R110). One toward another device that has not been acknowledged although a later byte of its
command has been written counts as performed there before the device was lost, since no byte after a failing delivery is
written (R333; log 20). -/
def State.failsAt (s : State) (c : Cmd) (d : Deliv) : Option Nat :=
  if s.keyLost d.place then some 4
  else if devOf d.place.pa ≠ 0 && c.laterDone d then none
  else if s.cutOff d.place.pa then some 15
  else if s.stationaryAt d.place.pa then some 4
  else none

/-- Whether a delivery waits because an earlier one of its command would fail at its owner: no later byte is written after it
(R333). -/
def State.failsFirst (s : State) (c : Cmd) (k : Nat) : Bool := (c.out.take k).any fun d => (s.failsAt c d).isSome

/-- Delivery `k` of entry `e` of a queue performs at its owner, unless it must wait (R87). -/
def State.deliverOne (s : State) (u e k : Nat) (w : Which) : State :=
  match ((s.slot u).queue w)[e]? with
  | none => s
  | some c =>
    match c.out[k]? with
    | none => s
    | some d =>
      if c.mustWait k d || s.failsFirst c k then s
      else if s.revokedAhead c d.pos then s.update u w e (c.revoke d.pos)
      else match s.failsAt c d with
      | some code => s.update u w e (c.cutAt k code d)
      | none =>
        if s.asleep d.place.pa && !s.cutOff d.place.pa then s.rouse d.ctx d.place.pa
        else s.performDeliv u e k w c d

/-- DELIVERY. -/
def execDelivery (u e k : Nat) (mx : Bool) (s : State) : Out := .next (s.deliverOne u e k (if mx then .mx else .cp))

/-- The byte count that a command's error reports: none for TDOT, whose entry states no count (R88, R174). -/
def Cmd.sent (c : Cmd) : Nat := if wOpc c.word = 0x16 then 0 else c.pos

/-- A delivery of bytes to a virtual address sent: translation, a stationary macro, then it is on its way, and `upd` says
what else becomes of the command (R87, R110). -/
def State.sendDeliv (s : State) (u e : Nat) (w : Which) (c : Cmd) (ctx va : Nat) (data : List Byte) (bad : List Nat)
    (upd : Cmd → Cmd) : State :=
  match s.place (u / 256) ctx .store va with
  | (p, .none) | (p, .sleep _) =>
    if s.stationaryAt p.pa then s.update u w e (c.fail 4 c.sent)
    else s.update u w e (upd { c with
      pos := c.pos + data.length, wait := none, poisoned := c.poisoned || !bad.isEmpty
      out := c.out ++ [{ va := va, ctx := ctx, place := p, data := data, bad := bad, pos := c.sent }] })
  | (_, stop) => s.engStop u w e c ctx c.sent stop

end Sys2Proof.Machine
end

