-- ==== Sys2Proof/Machine/Copy.lean ====
section
/-!
DEFINITION. The copy engine's commands CPY, CPYF, CPYG, CPYS and STGA (R86 to R96, R333).
-/

namespace Sys2Proof.Machine

/-- The opcodes of CPQ (R58). -/
def copyOpc (o : Nat) : Bool := 1 ≤ o && o ≤ 5

/-- The bytes that a copy command moves (R89, R92). -/
def Cmd.total (c : Cmd) : Nat :=
  if wOpc c.word = 0x01 || wOpc c.word = 0x04 then cRows c.word * cCount c.word else gN c.word * gElen c.word

/-- Reserved operand bits of a copy command (R89, R92). R89 says of SH and SPITCH of a CPYF that they must be 0, and does not say
whether they then count as reserved operand bits, also where SH = DH = 1, for which R90 gives −8: DESIGN CHOICE, log 80: they
do, and the command ends with −1. -/
def copyReserved (w : Tile) : Bool :=
  match wOpc w with
  | 0x01 => wf w 231 224 ≠ 0 || ((cSH w || cDH w) && wf w 183 160 ≠ 0)
  | 0x04 => wf w 231 224 ≠ 0 || cSH w || (if cDH w then wf w 183 160 ≠ 0 else wf w 207 184 ≠ 0)
  | 0x05 => wf w 239 96 ≠ 0 || wf w 63 5 ≠ 0
  | _ => wf w 239 238 ≠ 0

/-- The limit checks of R90 and R92. -/
def copyLimit (w : Tile) : Bool :=
  match wOpc w with
  | 0x01 | 0x04 =>
    (cSH w && cDH w) || (match copyHandle w with | some h => hKind h ≠ 1 | none => false)
      || (1 < cRows w && cDPitch w < cCount w)
  | 0x05 => false
  | _ => gIdx w % 4 ≠ 0

/-- A handle that is stale whatever its slot holds: an invalid KIND, a reserved bit, GEN = 0 (R78). -/
def handleVoid (h : Nat) : Bool := !(1 ≤ hKind h && hKind h ≤ 2) || bits h 47 32 ≠ 0 || hGen h = 0

/-- What the head check of a region handle of another device comes to: −5 where the handle is stale by itself (R78), −15
where the device cannot be reached (R318), else that device's answer, whose table is its own (R90; log 7). -/
def State.remoteCheck (s : State) (h d : Nat) : Option Nat :=
  if handleVoid h then some 5
  else if s.unreachable.contains d then some 15
  else match Config.freePick s.tick 10 % 4 with
    | 0 => some 5
    | 1 => some 4
    | _ => none

/-- The checks of a handle at the head: stale, then the range and the direction (R81, R333). -/
def State.handleCheck (s : State) (w : Tile) : Option Nat :=
  match copyHandle w with
  | none => none
  | some h =>
    if !s.handleHere h then s.remoteCheck h (hDevice h)
    else if s.staleRegion h then some 5
    else
      let x := s.region (hSlot h)
      let want := if wOpc w = 0x01 && cSH w then 1 else 2
      if x.len < cHoff w + cCount w || x.perm / want % 2 = 0 then some 4 else none

/-- The checks at the head, in the order of R333, an STGA's barrier apart: the code of the first that fails. -/
def State.copyCheck (s : State) (c : Cmd) : Option Nat :=
  if c.badCommon copyOpc || copyReserved c.word then some 1
  else if copyLimit c.word then some 8
  else s.handleCheck c.word

/-- Whether a command that begins waits: its checks up to the handle pass, and the handle is another device's, to which no
route leads (R90, R314). -/
def State.handleWaits (s : State) (c : Cmd) : Bool :=
  match copyHandle c.word with
  | none => false
  | some h =>
    !s.handleHere h && !handleVoid h && !s.unreachable.contains (hDevice h) && s.unrouted (hDevice h)
      && !(c.badCommon copyOpc || copyReserved c.word) && !copyLimit c.word

/-- A command that begins: rejected, complete at once, or started (R86, R333). The region's base and owner are those that the
check finds; no rule says whether a later byte of the transfer would follow a BASE or an OWNER that is rewritten meanwhile
without a new generation: DESIGN CHOICE, log 65: it does not. -/
def State.beginCopy (s : State) (u e : Nat) (c : Cmd) : State :=
  if s.handleWaits c then s
  else match s.copyCheck c with
  | some code => s.update u .cp e (c.fail code 0)
  | none =>
    if c.total = 0 then s.update u .cp e (c.finish 0)
    else
      let x := s.region (match copyHandle c.word with | some h => hSlot h | none => 0)
      s.update u .cp e { c with phase := .started, pos := 0, rpos := 0, hbase := x.base, howner := x.owner }

/-- A command that has sent all its bytes: their number, or −9 when it met poison (R85, R88). -/
def Cmd.settle (c : Cmd) : Cmd :=
  if c.ending ≠ 0 && c.todo.isEmpty then c.fail c.ending c.pos
  else if c.pos < c.total || !c.todo.isEmpty then c
  else if c.poisoned then c.fail 9 c.total
  else c.finish (dw c.total)

/-! ## CPY and CPYF (R89 to R91) -/

/-- Position in a row, and the row, of byte `pos`. -/
def rowOf (w : Tile) (pos : Nat) : Nat := pos / cCount w
def colOf (w : Tile) (pos : Nat) : Nat := pos % cCount w

/-- Address and context of the source byte at a position; through a region handle the access is its owner's (R81,
log 58). -/
def State.copySrc (s : State) (u : Nat) (c : Cmd) : Nat × Nat :=
  let w := c.word
  if cSH w then (c.hbase + cHoff w + c.pos, c.howner)
  else (cSrc w + rowOf w c.pos * cSPitch w + colOf w c.pos, s.ctxOf u)

/-- Address and context of the destination byte at a position. -/
def State.copyDst (s : State) (u : Nat) (c : Cmd) : Nat × Nat :=
  let w := c.word
  if cDH w then (c.hbase + cHoff w + c.pos, c.howner)
  else (cDst w + rowOf w c.pos * cDPitch w + colOf w c.pos, s.ctxOf u)

/-- Whether the generation check before a 256-byte boundary of the region offset finds the region revoked (R81); that of
another device's region is that device's own matter (log 7). -/
def State.revokedAt (s : State) (c : Cmd) : Bool :=
  match copyHandle c.word with
  | none => false
  | some h =>
    (cHoff c.word + c.pos) % 256 = 0 &&
      (if s.handleHere h then s.staleRegion h else Config.freePick s.tick 12 % 2 = 1)

/-- Whether a command stands at a 256-byte boundary of its region offset with deliveries of the granule before it still
outstanding: the check comes after them, so that a revocation meets one granule (R81, log 11). -/
def Cmd.atBoundary (c : Cmd) : Bool :=
  (copyHandle c.word).isSome && (cHoff c.word + c.pos) % 256 = 0 && !c.out.isEmpty

/-- Bytes of the next delivery: to the end of its row, of its destination granule, and of the 256-byte granule of a region
(R81, R87, log 11). -/
def pieceLen (w : Tile) (pos dst : Nat) : Nat :=
  let n := min (cCount w - colOf w pos) (64 - dst % 64)
  if (copyHandle w).isSome then min n (256 - (cHoff w + pos) % 256) else n

/-- Bytes of the pattern from a column on (R89). -/
def patternBytes (w : Tile) (col n : Nat) : List Byte :=
  (List.range n).map fun i => BitVec.ofNat 8 (cSrc w / 2 ^ (8 * ((col + i) % 8)))

/-- Whether a handle of a command names another device. -/
def State.remoteHandle (s : State) (w : Tile) : Option Nat :=
  match copyHandle w with
  | some h => if s.handleHere h then none else some (hDevice h)
  | none => none

/-- Where the next bytes of a region of another device lie: that device's own matter (log 7). -/
def State.remotePlace (s : State) (c : Cmd) (d : Nat) : Place :=
  { pa := d * 2 ^ 52 + Config.freePick s.tick 11 % 2 ^ 33 * 64 + (cHoff c.word + c.pos) % 64, enc := none }

/-- What the owner of a region of another device answers for the next bytes of a command, where it can be asked: its checks
and its page table are its own (R81, R90; log 7): 0 that they go on, 1 that they fall under −4, else the address of a PAGE
fault, one more. -/
def State.remoteAnswer (s : State) (c : Cmd) : Nat :=
  match s.remoteHandle c.word with
  | none => 0
  | some d =>
    if s.unreachable.contains d || s.unrouted d then 0
    else match Config.freePick s.tick 13 % 3 with
      | 0 => 0
      | 1 => 1
      | _ => 2 + Config.freePick s.tick 14 % 2 ^ 56

/-- The offsets of the poisoned bytes in a read of another device's region: its owner says which (R85; log 7). -/
def State.remoteBad (s : State) (n : Nat) : List Nat :=
  (List.range n).filter fun i => Config.freePick s.tick 15 / 2 ^ i % 2 = 1

/-- A copy command parked on a PAGE fault that another device has reported: it is due at the slot (R75, R81). -/
def State.parkCopy (s : State) (u e : Nat) (c : Cmd) (va : Nat) : State :=
  let t := s.slot u
  s.setSlot u { t with
    cpq := setAt t.cpq e { c with phase := .parked, fault := some va, wait := none }, duePage := t.duePage ++ [va] }

/-- The bytes of the next delivery as the source holds them; a read of another device's region waits for a route (R314). -/
def State.copyRead (s : State) (u : Nat) (c : Cmd) (n : Nat) : Fetched :=
  if wOpc c.word = 0x04 then { s := s, b := patternBytes c.word (colOf c.word c.pos) n, bad := [], stop := .none }
  else match s.remoteHandle c.word, cSH c.word with
    | some d, true =>
      let pa := (s.remotePlace c d).pa
      { s := s, b := rdBytes s.mem pa n, bad := s.remoteBad n
        stop := if s.cutOff pa then .cut else if s.asleep pa then .sleep pa else .none }
    | _, _ => s.fetchBytes (u / 256) (s.copySrc u c).2 (s.copySrc u c).1 n

/-- A delivery to a region of another device sent, where the device can be reached. -/
def State.sendRemote (s : State) (u e : Nat) (c : Cmd) (d : Nat) (r : Fetched) : State :=
  if s.unreachable.contains d then r.s.update u .cp e (c.fail 15 c.pos)
  else r.s.update u .cp e (Cmd.settle { c with
    pos := c.pos + r.b.length, wait := none, poisoned := c.poisoned || !r.bad.isEmpty
    out := c.out ++ [{ va := (s.remotePlace c d).pa, ctx := s.ctxOf u, place := s.remotePlace c d, data := r.b,
                       bad := r.bad, pos := c.pos }] })

/-- The next delivery of a started CPY or CPYF: its source read, and the delivery sent. -/
def State.stepCopy (s : State) (u e : Nat) (c : Cmd) : State :=
  let far := if cDH c.word then s.remoteHandle c.word else none
  let dst := match far with
    | some d => ((s.remotePlace c d).pa, s.ctxOf u)
    | none => s.copyDst u c
  if c.atBoundary then s
  else if s.revokedAt c then s.update u .cp e (c.fail 6 c.pos)
  else if s.remoteAnswer c = 1 then s.update u .cp e (c.fail 4 c.pos)
  else if 2 ≤ s.remoteAnswer c then s.parkCopy u e c (s.remoteAnswer c - 2)
  else
    let r := s.copyRead u c (pieceLen c.word c.pos dst.1)
    match r.stop, far with
    | .none, some d => s.sendRemote u e c d r
    | .none, none => r.s.sendDeliv u e .cp c dst.2 dst.1 r.b r.bad Cmd.settle
    | stop, _ => r.s.engStop u .cp e c (s.copySrc u c).2 c.pos stop

/-! ## CPYG and CPYS (R92, R93) -/

/-- Bytes cut at the granules of their destination, with fuel for the granules (R87). -/
def cutPieces : Nat → Nat → List Byte → List Nat → List (Nat × List Byte × List Nat)
  | 0, _, _, _ => []
  | fuel + 1, va, data, bad =>
    let k := min data.length (64 - va % 64)
    if data.isEmpty then []
    else
      (va, data.take k, bad.filter (· < k))
        :: cutPieces fuel (va + k) (data.drop k) ((bad.filter (k ≤ ·)).map (· - k))

/-- The deliveries of an element whose first `m` bytes were read: those that lie wholly among them. -/
def wholePieces (dst elen m : Nat) (data : List Byte) (bad : List Nat) : List (Nat × List Byte × List Nat) :=
  (cutPieces (elen / 64 + 2) dst (data ++ List.replicate (elen - m) 0) bad).filter fun p => p.1 + p.2.1.length ≤ dst + m

/-- Where the chunk ends that byte `pos` lies in. -/
def chunkEnd (c : Cmd) : Nat := min c.total ((c.pos / (256 * gElen c.word) + 1) * (256 * gElen c.word))

/-- Element `rpos / ELEN` read: its index, its bytes, and the deliveries that they make. R92 does not say which element moves
where the bytes of the index are poisoned: DESIGN CHOICE, log 81: they are used as they stand, and leave the destination
clean. -/
def State.readElement (s : State) (u e : Nat) (c : Cmd) : State :=
  let w := c.word
  let ctx := s.ctxOf u
  let i := c.rpos / gElen w
  let ix := s.fetchBytes (u / 256) ctx (gIdx w + 4 * i) 4
  let ended (s : State) (code : Nat) (l : List (Nat × List Byte × List Nat)) : State :=
    s.update u .cp e (Cmd.settle { c with ending := code, todo := c.todo ++ l, wait := none })
  match ix.stop with
  | .prot => ended ix.s 4 []
  | .cut => ended ix.s 15 []
  | .wait va => ix.s.engWait u .cp e c ctx va
  | .sleep pa => ix.s.rouse ctx pa
  | .none =>
    let x := ofBytes ix.b
    let src := cSrc w + (if wOpc w = 0x02 then x else i) * gElen w
    let dst := cDst w + (if wOpc w = 0x02 then i else x) * gElen w
    let r := ix.s.fetchBytes (u / 256) ctx src (gElen w)
    match r.stop with
    | .prot => ended r.s 4 (wholePieces dst (gElen w) r.b.length r.b r.bad)
    | .cut => ended r.s 15 (wholePieces dst (gElen w) r.b.length r.b r.bad)
    | .wait va => r.s.engWait u .cp e c ctx va
    | .sleep pa => r.s.rouse ctx pa
    | .none =>
      r.s.update u .cp e { c with
        rpos := c.rpos + gElen w, wait := none, poisoned := c.poisoned || !ix.bad.isEmpty
        todo := c.todo ++ cutPieces (gElen w / 64 + 2) dst r.b r.bad }

/-- A started CPYG or CPYS goes on: the elements of its chunk are read, then their deliveries sent in order (R93). -/
def State.stepGather (s : State) (u e : Nat) (c : Cmd) : State :=
  if c.ending = 0 && c.rpos < chunkEnd c then s.readElement u e c
  else match c.todo with
    | [] => s.update u .cp e c.settle
    | (dst, data, bad) :: rest =>
      s.sendDeliv u e .cp c (s.ctxOf u) dst data bad fun c => Cmd.settle { c with todo := rest }

/-! ## STGA (R95) -/

/-- The barrier as an STGA of context `c` takes it over: an overrun left by another owner is cleared. -/
def Barrier.takenBy (b : Barrier) (c : Nat) : Barrier :=
  { b with owner := some c, overrun := b.overrun && b.owner == some c }

/-- STGA at the head of its queue. -/
def State.armStage (s : State) (u e : Nat) (c : Cmd) : State :=
  let x := s.facet (u / 256)
  let n := wf c.word 4 0
  let count := wf c.word 95 64
  let b := x.bar n
  match s.copyCheck c with
  | some code => s.update u .cp e (c.fail code 0)
  | none =>
    if b.armed then s.update u .cp e (c.fail 7 0)
    else if count = 0 then
      (s.setFacet (u / 256) (x.setBar n (b.takenBy (s.ctxOf u)))).update u .cp e (c.finish 0)
    else
      let s1 := s.setFacet (u / 256) (x.setBar n { b.takenBy (s.ctxOf u) with
        armed := true, count := count, total := count, slot := u, tok := c.tok })
      let t := s1.slot u
      s1.setSlot u (t.flush .cp (dropAt t.cpq e))

/-! ## The engine's turns -/

/-- A turn of the copy engine on the head of slot `u`'s CPQ, for the commands whose opcode `mine` accepts. -/
def State.copyTurn (s : State) (u : Nat) (mine : Nat → Bool) (go : State → Nat → Nat → Cmd → State) : State :=
  let l := (s.slot u).cpq
  match headIdx l with
  | none => s
  | some e =>
    match l[e]? with
    | none => s
    | some c => if s.working u && mine (wOpc c.word) && c.phase ≠ .parked then go s u e c else s

/-- A copy command begins, or goes on. -/
def State.runCopy (s : State) (u e : Nat) (c : Cmd) : State :=
  if c.phase = .queued then s.beginCopy u e c else s.stepCopy u e c

def State.runGather (s : State) (u e : Nat) (c : Cmd) : State :=
  if c.phase = .queued then s.beginCopy u e c else s.stepGather u e c

/-- CPY; a command with an opcode that is not the copy engine's is rejected here (R59). -/
def execCpy (u : Nat) (s : State) : Out := .next (s.copyTurn u (fun o => o = 1 || !copyOpc o) State.runCopy)
def execCpyg (u : Nat) (s : State) : Out := .next (s.copyTurn u (· = 2) State.runGather)
def execCpys (u : Nat) (s : State) : Out := .next (s.copyTurn u (· = 3) State.runGather)
def execCpyf (u : Nat) (s : State) : Out := .next (s.copyTurn u (· = 4) State.runCopy)
def execStga (u : Nat) (s : State) : Out := .next (s.copyTurn u (· = 5) State.armStage)

end Sys2Proof.Machine
end

