-- ==== Sys2Proof/Machine/Matrix.lean ====
section
/-!
DEFINITION. The matrix unit: TLW, TREL, TACZ, TACS, TMM, TMMB and TDOT (R145 to R151, R171 to R188).
-/

namespace Sys2Proof.Machine

/-! ## MXCFG (R64) and operand formats -/

def mxA (x : Dword) : Nat := bits x.toNat 2 0
def mxB (x : Dword) : Nat := bits x.toNat 5 3
def mxO (x : Dword) : Nat := bits x.toNat 8 6
def mxMix (x : Dword) : Bool := bit x.toNat 9
def mxAlen (x : Dword) : Nat := bits x.toNat 12 10
def mxBlen (x : Dword) : Nat := bits x.toNat 15 13
def mxOvf (x : Dword) : Bool := bit x.toNat 16

/-- The operand format of a code (R64). -/
def opFmt (n : Nat) : NFmt :=
  match n with
  | 0 => .int8 | 1 => .cone8 | 2 => .cone6 | _ => .f16

/-- Bytes of an operand element (R175, R181). -/
def opSize (n : Nat) : Nat := if n = 3 then 2 else 1

/-- The block length of a code (R64). -/
def blockLen (n : Nat) : Nat :=
  match n with
  | 0 => 8 | 1 => 16 | 2 => 32 | 3 => 64 | _ => 256

/-- The largest Kst of a format (R172). -/
def kmax (n : Nat) : Nat :=
  match n with
  | 2 => 341 | 3 => 128 | _ => 256

/-- The output format and element size of a code (R64, R179). -/
def outFmt (n : Nat) : NFmt :=
  match n with
  | 0 => .f16 | 1 => .f32 | 2 => .int32 | 3 => .int8 | _ => .cone8

def outSize (n : Nat) : Nat :=
  match n with
  | 0 => 2 | 1 => 4 | 2 => 4 | _ => 1

/-- Rounded-up quotient. -/
def ceilDiv (a b : Nat) : Nat := (a + b - 1) / b

/-- A value as the unit holds it, a mantissa and an exponent; none for a non-number (R145). -/
def operand (f : Nat) (ftz : Bool) (x : Nat) : Option (Int × Int) :=
  match nfDecode (opFmt f) ftz x with
  | .fin neg mag e => some (if neg then -(mag : Int) else mag, e)
  | .inf _ | .nan _ => none

/-- Floor of m·2^e (R149). -/
def floorScaled (m e : Int) : Int := if 0 ≤ e then m * 2 ^ e.toNat else m / 2 ^ (-e).toNat

/-- One term of R149: the floored product, none for a non-number. -/
def mxTerm (a b : Option (Int × Int)) (sa sb anchor : Int) : Option Int :=
  match a, b with
  | some x, some y => some (floorScaled (x.1 * y.1) (x.2 + y.2 + sa + sb - anchor))
  | _, _ => none

/-- The terms of one element together: their exact sum, and whether one of them is a non-number. -/
def mxSum (l : List (Option Int)) : Int × Bool :=
  l.foldl (fun r t => match t with | some x => (r.1 + x, r.2) | none => (r.1, true)) (0, false)

/-- A sum as an accumulator holds it, wrapped or clamped, and whether the clamp changed it (R149). -/
def mxNarrow (ovf : Bool) (u : Int) : Int × Bool :=
  if ovf then
    if u < -(2 ^ 47) then (-(2 ^ 47), true) else if 2 ^ 47 - 1 < u then (2 ^ 47 - 1, true) else (u, false)
  else (sint (uint u 48) 48, false)

/-- An element converted for output: A·2^anchor, or a non-number (R151). -/
def mxConvert (o : Nat) (fpctl : Dword) (a anchor : Int) (void : Bool) : Nat × Fl :=
  nfEncode (outFmt o) (fpRm fpctl) (fpFtz fpctl) (if void then .nan false else .fin (a < 0) a.natAbs anchor)

/-! ## Macros -/

/-- The opcodes of MXQ (R58). -/
def matrixOpc (o : Nat) : Bool := 0x10 ≤ o && o ≤ 0x16

def aMb (w : Tile) : Nat := wf w 239 236
def pMb (w : Tile) : Nat := wf w 187 184
def pGn (w : Tile) : Nat := wf w 183 180

/-- The macros of a group. -/
def mmGroup (w : Tile) : List Nat := (List.range (pGn w + 1)).map (pMb w + ·)

/-- The macros that a command has started on and not finished its effect on, a TLW apart, whose macro is LOADING: those of
a begun TMM or TMMB, which marks its progress 1, and that of a TACS until its deliveries have performed (R173). -/
def Cmd.holdsMacros (c : Cmd) : List Nat :=
  match wOpc c.word with
  | 0x12 | 0x13 => if (c.phase = .started || c.phase = .parked) && c.pos ≠ 0 then mmGroup c.word else []
  | 0x15 => if c.phase ≠ .queued && (c.phase ≠ .finished || !c.out.isEmpty) then [aMb c.word] else []
  | _ => []

/-- Whether an address lies in macro `m` of facet `f`. -/
def inMacro (f m pa : Nat) : Bool := devOf pa = 0 && spaceOf pa = 2 && spadFacet pa = f && macroOf pa = m

/-- Whether a write that has found its place is on its way to one that `p` accepts: a store or a lane of a slot, a delivery
of an engine, a held lane of a peer, a delivery of a bulk request. -/
def State.inbound (s : State) (p : Nat → Bool) : Bool :=
  (s.slots.any fun t =>
    (t.2.cpq ++ t.2.mxq).any (fun c => c.out.any fun d => p d.place.pa)
      || t.2.sbuf.any fun e => match e with
        | .store _ _ (some l) _ _ _ => p l.pa
        | .store _ _ none _ _ _ | .fence _ _ _ | .fenceX _ => false)
    || s.peerHeld.any (fun x => p x.place.pa)
    || s.bulks.any fun b => b.wr && b.out.any fun x => p x.place.pa

/-- Whether a write that has found its place is on its way to a macro: a TLW begins after it, so that no store that has left
its slot and no delivery meets a macro that turned stationary (R170, R176, R226, R333; log 31, log 33). -/
def State.inboundTo (s : State) (f m : Nat) : Bool := s.inbound (inMacro f m)

/-- The status code of a macro that a command cannot use (R174): −2, then −4. -/
def State.macroCheck (s : State) (f c m : Nat) : Option Nat :=
  let y := s.mac f m
  if y.st ≠ .stationary then some 2 else if y.owner ≠ c then some 4 else none

/-- MADDR translated: the macro, or what stops the command; `none` with no stop is −4 (R175). -/
def State.macroAt (s : State) (f c va : Nat) : Option Nat × Stop :=
  match s.xlate f c .store false va with
  | .ok p => (if spaceOf p.pa = 2 && devOf p.pa = 0 && spadFacet p.pa = f && va % 65536 = 0 then some (macroOf p.pa)
              else none, .none)
  | .prot => (none, .none)
  | .page | .miss => (none, .wait va)

def tMaddr (w : Tile) : Nat := wf w 127 64

/-- The macros that a command names by its fields (R173); TDOT names none. -/
def State.names (s : State) (u : Nat) (c : Cmd) : List Nat :=
  match wOpc c.word with
  | 0x10 => (s.macroAt (u / 256) (s.ctxOf u) (tMaddr c.word)).1.toList
  | 0x11 => (s.macroAt (u / 256) (s.ctxOf u) (wf c.word 63 0)).1.toList
  | 0x12 | 0x13 => mmGroup c.word
  | 0x14 | 0x15 => [aMb c.word]
  | _ => []

/-- Whether a command that waits for macros started before another, whose own start is `b`. -/
def Cmd.startedBefore (c : Cmd) (b : Option Nat) : Bool :=
  match c.start, b with
  | some x, some y => x < y
  | some _, none => true
  | none, _ => false

/-- Whether a command other than entry `e` of slot `u`'s MXQ that started earlier names macro `m` of the facet and has not
finished its effect: one that has begun it, or one that waits for its macros (R173). -/
def State.macroHeld (s : State) (u e m : Nat) : Bool :=
  let own := ((s.slot u).mxq[e]?).bind (·.start)
  s.slots.any fun t => t.1 / 256 = u / 256
    && t.2.mxq.zipIdx.any fun x => !(t.1 = u && x.2 = e)
      && (x.1.holdsMacros.contains m
        || (x.1.phase = .queued && x.1.startedBefore own && (s.names t.1 x.1).contains m))

/-- Whether a command that names macro `m` must not start: its own context's pre-empted TLW holds it, other than the command
itself (R173, R187). -/
def State.macroKept (s : State) (u m : Nat) (self : Bool) : Bool :=
  let y := s.mac (u / 256) m
  !self && y.st = .loading && y.resm && y.owner = s.ctxOf u

/-- Whether a command that has started and names macro `m` must wait: a TLW is in progress there, or another command that
started earlier has not finished its effect (R173). -/
def State.macroBusy (s : State) (u e m : Nat) (self : Bool) : Bool :=
  let y := s.mac (u / 256) m
  (!self && y.st = .loading && !y.resm) || s.macroHeld u e m

/-- Whether a command is the pre-empted TLW that holds macro `m` (R187). -/
def State.resumes (s : State) (u : Nat) (c : Cmd) (m : Nat) : Bool :=
  c.loads = some m && (s.mac (u / 256) m).resm && (s.mac (u / 256) m).owner = s.ctxOf u

/-- Whether an entry before entry `e` of an MXQ has not finished: a TLW begins at the head, where a pre-emption must find
it (R187). -/
def Slot.mxBehind (t : Slot) (e : Nat) : Bool := (t.mxq.take e).any (·.phase ≠ .finished)

/-- Whether a command that has started must wait with its effect (R173); a TLW waits besides for the writes on their way to its
macro. -/
def State.mxAwaits (s : State) (u e : Nat) (c : Cmd) : Bool :=
  (s.names u c).any fun m =>
    s.macroBusy u e m (s.resumes u c m)
      || (wOpc c.word = 0x10 && (s.inboundTo (u / 256) m || (s.slot u).mxBehind e))

/-- A command starts and waits for its macros: from then on it has its place in the start order (R173). -/
def State.await (s : State) (u e : Nat) (c : Cmd) : State :=
  if c.start.isSome then s else s.update u .mx e { c with start := some s.tick }

/-- A command that names `l` begins, where none of these macros is held against it and none is busy (R173). -/
def State.claim (s : State) (u e : Nat) (c : Cmd) (l : List Nat) (go : State) : State :=
  if l.any (s.macroKept u · false) then s
  else if l.any (s.macroBusy u e · false) then s.await u e c
  else go

/-- The errors that have struck a macro found, as the unit reads its weights (R115, R172). -/
def State.touchMacro (s : State) (c f m : Nat) : State :=
  let base := spadAddr f (65536 * m)
  (s.latent.filter fun u => base ≤ u.1 && u.1 < base + 65536).foldl (fun s u => s.touchUnit c u.1) s

/-! ## TLW (R175) -/

def tKld (w : Tile) : Nat := wf w 178 170
def tNcol (w : Tile) : Nat := wf w 169 161
def tKst (w : Tile) : Nat := wf w 160 152
def tPitch (w : Tile) : Nat := wf w 151 128
def tSrc (w : Tile) : Nat := wf w 63 0

/-- The tag entries of a macro cleared (R114). -/
def Facet.clearTags (x : Facet) (m : Nat) : Facet :=
  { x with tags := x.tags.map fun e => if e.1 / 16 = m then (e.1, tagDrop e.2) else e }

/-- The checks of a TLW that need no translation. -/
def tlwCheck (c : Cmd) : Option Nat :=
  let w := c.word
  if wf w 239 179 ≠ 0 || 3 < mxB c.mxcfg || 4 < mxBlen c.mxcfg then some 1
  else if tKst w = 0 || kmax (mxB c.mxcfg) < tKst w || tNcol w = 0 || 256 < tNcol w || tKst w < tKld w then some 8
  else none

/-- The macro that a resumed TLW was loading returned to DATA, since that TLW fails (R171, R175, R187). -/
def State.loadLost (s : State) (u : Nat) (c : Cmd) : State :=
  match c.loads with
  | some m =>
    let y := s.mac (u / 256) m
    if y.st = .loading && y.resm && y.owner = s.ctxOf u then s.wipeMacro (u / 256) m else s
  | none => s

/-- A TLW begins: its checks, then its macro is LOADING with its tags cleared and its accumulators zero. One that was resumed
and fails here leaves its macro in DATA. -/
def State.beginLoad (s : State) (u e : Nat) (c : Cmd) : State :=
  let f := u / 256
  let ctx := s.ctxOf u
  match tlwCheck c with
  | some code => (s.loadLost u c).update u .mx e (c.fail code 0)
  | none =>
    match s.macroAt f ctx (tMaddr c.word) with
    | (_, .wait va) => s.engWait u .mx e c ctx va
    | (none, _) => (s.loadLost u c).update u .mx e (c.fail 4 0)
    | (some m, _) =>
      let mine := s.resumes u c m
      if s.macroKept u m mine then s
      else if s.mxAwaits u e c then s.await u e c
      else
        let s1 := if mine then s else s.loadLost u c
        if (s1.mac f m).st ≠ .data && !mine then s1.update u .mx e (c.fail 11 0)
        else
          let x := if mine then s1.facet f else (s1.facet f).clearTags m
          let y : Mac := { (x.mac m).toData with st := .loading, owner := ctx, resm := mine }
          (s1.setFacet f (x.setMac m y)).update u .mx e { c with phase := .started, pos := m + 1, rpos := 0, wait := none }

/-- Bytes of a scale table read at once: entries of NCOL columns, `nb` blocks each. -/
def scaleRange (base n : Nat) : List (Nat × Nat) := if base = 0 then [] else [(base, n)]

/-- The weights of source row `k` as numbers, none above KLD. -/
def rowWeights (es : Nat) (rows : List (List Byte)) (ncol k c : Nat) : Nat :=
  if c < ncol then ofBytes (((rows.getD k []).drop (es * c)).take es) else 0

/-- The 256 weights of row `k` in the layout of R172. -/
def layoutRow (bfmt : Nat) (v : Nat → Nat) : List Byte :=
  match bfmt with
  | 3 => (List.range 256).flatMap fun c => toBytes (v c) 2
  | 2 => (List.range 64).flatMap fun i =>
      toBytes (v (4 * i) % 64 + v (4 * i + 1) % 64 * 2 ^ 6 + v (4 * i + 2) % 64 * 2 ^ 12 + v (4 * i + 3) % 64 * 2 ^ 18) 3
  | _ => (List.range 256).map fun c => BitVec.ofNat 8 (v c)

/-- A TLW completes: the weights in the macro, its scale store, and the state STATIONARY. -/
def State.finishLoad (s : State) (u e m : Nat) (c : Cmd) (rows : List (List Byte)) (scales : List Byte) : State :=
  let f := u / 256
  let w := c.word
  let b := mxB c.mxcfg
  let nb := ceilDiv (tKst w) (blockLen (mxBlen c.mxcfg))
  let bytes := (List.range (tKst w)).flatMap fun k =>
    layoutRow b fun col => if k < tKld w then rowWeights (opSize b) rows (tNcol w) k col else 0
  let base := spadAddr f (65536 * m)
  let s1 := s.zeroRange base 65536
  let s2 := { s1 with mem := wrBytes s1.mem base bytes }
  let scale : Tbl Byte := (List.range 16384).filterMap fun i =>
    let x := if i / 64 < tNcol w && i % 64 < nb then scales.getD (i / 64 * nb + i % 64) 0 else 0
    if x = 0 then none else some (i, x)
  let y := s2.mac f m
  (s2.setMac f m { y.toData with
    st := .stationary, owner := s.ctxOf u, bfmt := b, lb := mxBlen c.mxcfg, kst := tKst w
    scale := scale }).update u .mx e (c.finish (dw (tKld w * tNcol w)))

/-- A begun TLW reads its tile in order: the first failure ends it and zeroes the macro (R175). -/
def State.stepLoad (s : State) (u e : Nat) (c : Cmd) : State :=
  let f := u / 256
  let ctx := s.ctxOf u
  let w := c.word
  let es := opSize (mxB c.mxcfg)
  let nb := ceilDiv (tKst w) (blockLen (mxBlen c.mxcfg))
  match c.loads with
  | none => s
  | some m =>
    if (s.mac f m).ret ≠ .awake then s.rouse ctx (spadAddr f (65536 * m))
    else
      let n := (List.range (tKld w)).map fun k => (tSrc w + k * tPitch w, es * tNcol w)
      let r := s.fetchList f ctx (n ++ scaleRange c.scb.toNat (tNcol w * nb))
      let failed (s : State) (code : Nat) : State := (s.wipeMacro f m).update u .mx e (c.fail code 0)
      if r.bad then failed r.s 9
      else match r.stop with
        | .wait va => r.s.engWait u .mx e c ctx va
        | .sleep pa => r.s.rouse ctx pa
        | .prot => failed r.s 4
        | .cut => failed r.s 15
        | .none => r.s.finishLoad u e m c (r.rows.take (tKld w)) ((r.rows.drop (tKld w)).headD [])

def State.runTlw (s : State) (u e : Nat) (c : Cmd) : State :=
  if c.badCommon matrixOpc then (s.loadLost u c).update u .mx e (c.fail 1 0)
  else if c.phase = .queued then s.beginLoad u e c else s.stepLoad u e c

/-! ## TREL, TACZ (R177, R178) -/

def State.runTrel (s : State) (u e : Nat) (c : Cmd) : State :=
  let f := u / 256
  let ctx := s.ctxOf u
  if c.badCommon matrixOpc || wf c.word 239 64 ≠ 0 then s.update u .mx e (c.fail 1 0)
  else match s.macroAt f ctx (wf c.word 63 0) with
    | (_, .wait va) => s.engWait u .mx e c ctx va
    | (none, _) => s.update u .mx e (c.fail 4 0)
    | (some m, _) =>
      s.claim u e c [m] <| match s.macroCheck f ctx m with
        | some code => s.update u .mx e (c.fail code 0)
        | none => (s.setMac f m (s.mac f m).toData).update u .mx e (c.finish 0)

def aRow (w : Tile) : Nat := wf w 235 232
def aMn (w : Tile) : Nat := wf w 231 228

/-- Whether an accumulator row is one of those a TACZ or TACS names. -/
def inRows (w : Tile) (r : Nat) : Bool := aRow w ≤ r && r ≤ aRow w + aMn w

def State.runTacz (s : State) (u e : Nat) (c : Cmd) : State :=
  let f := u / 256
  let ctx := s.ctxOf u
  let w := c.word
  let m := aMb w
  if c.badCommon matrixOpc || wf w 217 0 ≠ 0 then s.update u .mx e (c.fail 1 0)
  else if 15 < aRow w + aMn w then s.update u .mx e (c.fail 8 0)
  else s.claim u e c [m] <| match s.macroCheck f ctx m with
    | some code => s.update u .mx e (c.fail code 0)
    | none =>
      let y := s.mac f m
      let a := sint (wf w 227 218) 10
      let anchors := (List.range 16).filterMap fun r =>
        let x := if inRows w r then a else y.anchorAt r
        if x = 0 then none else some (r, x)
      (s.setMac f m { y with acc := y.acc.filter fun (t : Nat × Acc) => !inRows w (t.1 / 256), anchor := anchors }).update
        u .mx e (c.finish 0)

/-! ## TACS (R179, R151) -/

def sC0 (w : Tile) : Nat := wf w 227 220
def sNcm (w : Tile) : Nat := wf w 219 212
def sDPitch (w : Tile) : Nat := wf w 87 64

/-- Element (r, col) of a macro converted for a TACS. -/
def tacsElem (y : Mac) (c : Cmd) (r col : Nat) : Nat × Fl :=
  mxConvert (mxO c.mxcfg) c.fpctl (y.accAt r col).a (y.anchorAt r) (y.accAt r col).void

/-- The rows of a TACS as bytes, with the flags that they raise. -/
def tacsRow (y : Mac) (c : Cmd) (i : Nat) : List Byte × Fl :=
  let l := (List.range (sNcm c.word + 1)).map fun j => tacsElem y c (aRow c.word + i) (sC0 c.word + j)
  (l.flatMap fun x => toBytes x.1 (outSize (mxO c.mxcfg)), l.foldl (fun f x => f.or x.2) Fl.none)

/-- A command whose deliveries are all read: finished once they are sent, its status already known. -/
def Cmd.drained (c : Cmd) : Cmd := if c.todo.isEmpty then c.finish c.status else c

/-- The next delivery of a TACS or TDOT sent. -/
def State.sendNext (s : State) (u e : Nat) (c : Cmd) : State :=
  match c.todo with
  | [] => s.update u .mx e c.drained
  | (dst, data, bad) :: rest =>
    s.sendDeliv u e .mx c (s.ctxOf u) dst data bad fun c => Cmd.drained { c with todo := rest }

/-- A TACS begins: it reads every element it names. -/
def State.beginTacs (s : State) (u e : Nat) (c : Cmd) : State :=
  let f := u / 256
  let w := c.word
  let m := aMb w
  let osz := outSize (mxO c.mxcfg)
  if c.badCommon matrixOpc || wf w 211 88 ≠ 0 || 4 < mxO c.mxcfg then s.update u .mx e (c.fail 1 0)
  else if 15 < aRow w + aMn w || 255 < sC0 w + sNcm w || (0 < aMn w && sDPitch w < (sNcm w + 1) * osz) then
    s.update u .mx e (c.fail 8 0)
  else s.claim u e c [m] <| match s.macroCheck f (s.ctxOf u) m with
    | some code => s.update u .mx e (c.fail code 0)
    | none =>
      let rows := (List.range (aMn w + 1)).map fun i => tacsRow (s.mac f m) c i
      let fl := rows.foldl (fun g r => g.or r.2) Fl.none
      let todo := rows.zipIdx.flatMap fun r => cutPieces (r.1.1.length / 64 + 2) (wf w 63 0 + r.2 * sDPitch w) r.1.1 []
      s.update u .mx e { c with
        phase := .started, pos := 0, todo := todo
        status := dw ((aMn w + 1) * (sNcm w + 1) * osz + 2 ^ 32 * fl.report) }

def State.runTacs (s : State) (u e : Nat) (c : Cmd) : State :=
  if c.phase = .queued then s.beginTacs u e c else s.sendNext u e c

/-! ## TMM and TMMB (R180 to R184) -/

def pNb (w : Tile) : Nat := wf w 239 224
def pRPitch (w : Tile) : Nat := wf w 223 208
def pTPitch (w : Tile) : Nat := wf w 207 188
def pArow (w : Tile) : Nat := wf w 179 176
def pMn (w : Tile) : Nat := wf w 175 172
def pRu (w : Tile) : Nat := match wf w 171 170 with | 0 => 0 | 1 => 32 | 2 => 64 | _ => 128
def pAsrc (w : Tile) : Bool := wf w 169 169 == 1
def pBit (w : Tile) : Nat := wf w 127 64
def pBase (w : Tile) : Nat := wf w 63 0

/-- Check 1 of R182, with the common checks. -/
def mmReserved (c : Cmd) : Bool :=
  let w := c.word
  c.badCommon matrixOpc || wf w 168 128 ≠ 0 || (wOpc w = 0x12 && (pNb w ≠ 0 || pBit w ≠ 0))
    || (pAsrc w && wf w 63 5 ≠ 0) || 3 < mxA c.mxcfg || 4 < mxAlen c.mxcfg

/-- Checks 2 and 3 of R182. -/
def mmLimit (w : Tile) : Bool :=
  15 < pMb w + pGn w || 15 < pArow w + pMn w
    || (pAsrc w && (pMn w ≠ 0 || wf w 171 170 ≠ 0 || pRPitch w ≠ 0 || pTPitch w ≠ 0))

/-- Checks 5 to 8 of R182 on the first macro of the group and the others. -/
def State.mmShape (s : State) (f : Nat) (c : Cmd) : Option Nat :=
  let w := c.word
  let y := s.mac f (pMb w)
  let es := opSize (mxA c.mxcfg)
  let k := (pGn w + 1) * y.kst
  if (mmGroup w).any fun m => (s.mac f m).bfmt ≠ y.bfmt || (s.mac f m).lb ≠ y.lb then some 3
  else if (mmGroup w).any fun m => (s.mac f m).kst ≠ y.kst then some 8
  else if !mxMix c.mxcfg && (mxA c.mxcfg ≠ y.bfmt || mxAlen c.mxcfg ≠ y.lb) then some 3
  else if pAsrc w && (256 < es * k || 31 < wf w 4 0 + ceilDiv (es * k) 32 - 1) then some 8
  else if !pAsrc w && wf w 171 170 ≠ 0 && es * y.kst % 32 ≠ 0 then some 8
  else if wOpc w = 0x13 && pBit w % 2 ≠ 0 then some 8
  else none

/-- The checks of R182 up to the table's entries: the first code, in their order. -/
def State.mmCheck (s : State) (f ctx : Nat) (c : Cmd) : Option Nat :=
  if mmReserved c then some 1
  else if mmLimit c.word then some 8
  else match (mmGroup c.word).findSome? (s.macroCheck f ctx) with
    | some code => some code
    | none => s.mmShape f c

/-- The entries of a table as (column block, K block) (R184). -/
def tableOf (b : List Byte) (n : Nat) : List (Nat × Nat) :=
  (List.range n).map fun i =>
    let x := ofBytes ((b.drop (2 * i)).take 2)
    (bits x 15 13, bits x 12 0)

/-- Whether element k of the command takes part for some column: all of them in a TMM. -/
def mmUses (tab : Option (List (Nat × Nat))) (k : Nat) : Bool :=
  match tab with
  | none => true
  | some l => l.any fun e => e.2 == k / 32

/-- Whether the term of element k and column c is one of the command's. -/
def mmHas (tab : Option (List (Nat × Nat))) (k c : Nat) : Bool :=
  match tab with
  | none => true
  | some l => l.contains (c / 32, k / 32)

/-- The elements (i, k) whose A operand is read, in order of (i, t, k′). -/
def mmElems (w : Tile) (kst : Nat) (tab : Option (List (Nat × Nat))) : List (Nat × Nat) :=
  (List.range (pMn w + 1)).flatMap fun i =>
    ((List.range ((pGn w + 1) * kst)).filter (mmUses tab)).map fun k => (i, k)

/-- The address of element (i, k) of A in the scratchpad (R181). -/
def mmAddr (w : Tile) (es kst i k : Nat) : Nat :=
  pBase w + k / kst * pTPitch w + i * pRPitch w + (es * (k % kst) + i * pRu w) % (es * kst)

/-- The operands of a product once read: A by (i, k), and the scales of A. -/
structure MmOps where
  a : List ((Nat × Nat) × Nat)
  sa : List ((Nat × Nat) × Int)
deriving DecidableEq, Repr

/-- An A operand that lies outside the facet's own scratchpad, once translated (R181). -/
def State.outsideSpad (s : State) (f c va : Nat) : Bool :=
  match s.xlate f c .load false va with
  | .ok p => spaceOf p.pa ≠ 2 || devOf p.pa ≠ 0 || spadFacet p.pa ≠ f
  | _ => false

/-- What reading operands comes to: a code that ends the command, something to wait for, or the bytes in order. -/
structure MmRead where
  s : State
  vals : List Nat
  code : Nat
  stop : Stop
deriving DecidableEq, Repr

/-- Operands read in order, each with its address, size, and whether it must lie in the own scratchpad. -/
def State.readOps (s : State) (f c : Nat) : List (Nat × Nat × Bool) → MmRead
  | [] => { s := s, vals := [], code := 0, stop := .none }
  | (va, n, own) :: t =>
    if own && (s.outsideSpad f c va || s.outsideSpad f c (va + n - 1)) then { s := s, vals := [], code := 4, stop := .none }
    else
      let r := s.fetchBytes f c va n
      match r.stop with
      | .prot => { s := r.s, vals := [], code := 4, stop := .none }
      | .cut => { s := r.s, vals := [], code := 15, stop := .none }
      | .wait va => { s := r.s, vals := [], code := 0, stop := .wait va }
      | .sleep pa => { s := r.s, vals := [], code := 0, stop := .sleep pa }
      | .none =>
        if !r.bad.isEmpty then { s := r.s, vals := [], code := 9, stop := .none }
        else
          let q := r.s.readOps f c t
          { q with vals := ofBytes r.b :: q.vals }

/-- A weight as the macro holds it (R172). -/
def weightAt (mem : List Host.Cell) (f m bfmt k c : Nat) : Nat :=
  let base := spadAddr f (65536 * m)
  match bfmt with
  | 3 => ofBytes (rdBytes mem (base + 512 * k + 2 * c) 2)
  | 2 =>
    let i := 6 * (256 * k + c)
    ofBytes (rdBytes mem (base + i / 8) 2) / 2 ^ (i % 8) % 64
  | _ => (memGet mem (base + 256 * k + c)).toNat

/-- Whether a weight that the command uses is poisoned: its bytes lie in a poisoned doubleword (R172, R85). -/
def State.badWeights (s : State) (f : Nat) (w : Tile) (y : Mac) (tab : Option (List (Nat × Nat))) : Bool :=
  if s.poison.isEmpty then false
  else (mmGroup w).zipIdx.any fun m =>
    (List.range y.kst).any fun k' => (List.range 256).any fun c =>
      mmHas tab (m.2 * y.kst + k') c &&
        (let base := spadAddr f (65536 * m.1)
         match y.bfmt with
         | 3 => s.poisoned (base + 512 * k' + 2 * c) 2
         | 2 => s.poisoned (base + 6 * (256 * k' + c) / 8) ((6 * (256 * k' + c) % 8 + 13) / 8)
         | _ => s.poisoned (base + 256 * k' + c) 1)

/-- The terms of element (i, c): of every k that the command takes for it (R183). -/
def State.mmTerms (s : State) (f : Nat) (c : Cmd) (tab : Option (List (Nat × Nat))) (y : Mac) (a : Nat → Nat → Nat)
    (sa : Nat → Nat → Int) (i col : Nat) : List (Option Int) :=
  let w := c.word
  let ftz := fpFtz c.fpctl
  ((List.range ((pGn w + 1) * y.kst)).filter (mmHas tab · col)).map fun k =>
    let m := pMb w + k / y.kst
    let z := s.mac f m
    mxTerm (operand (mxA c.mxcfg) ftz (a i k)) (operand y.bfmt ftz (weightAt s.mem f m y.bfmt (k % y.kst) col))
      (sa i k) (sint (z.scaleAt col (k % y.kst / blockLen y.lb)).toNat 8) (y.anchorAt (pArow w + i))

/-- R149 on the rows of the command, in one step: the macro after it, CL, VD. -/
def State.mmApply (s : State) (f : Nat) (c : Cmd) (tab : Option (List (Nat × Nat))) (a : Nat → Nat → Nat)
    (sa : Nat → Nat → Int) : Mac × Bool × Bool :=
  let w := c.word
  let y := s.mac f (pMb w)
  let elems := (List.range 4096).map fun j =>
    let old := y.accAt (j / 256) (j % 256)
    if pArow w ≤ j / 256 && j / 256 ≤ pArow w + pMn w then
      let t := mxSum (s.mmTerms f c tab y a sa (j / 256 - pArow w) (j % 256))
      let u := mxNarrow (mxOvf c.mxcfg) (old.a + t.1)
      (({ a := u.1, void := old.void || t.2 } : Acc), u.2, t.2)
    else (old, false, false)
  let acc : Tbl Acc := elems.zipIdx.filterMap fun x =>
    if x.1.1.a = 0 && !x.1.1.void then none else some (x.2, x.1.1)
  ({ y with acc := acc }, elems.any (·.2.1), elems.any (·.2.2))

/-- Elements of A and their scales read, the weights tested, then the product applied (R183). No rule orders these reads, nor
says which code ends the command where two fail: the elements of A come first, then the scales, then the weights (DESIGN
CHOICE, log 61). -/
def State.mmProduct (s : State) (u e : Nat) (c : Cmd) (tab : Option (List (Nat × Nat))) : State :=
  let f := u / 256
  let ctx := s.ctxOf u
  let w := c.word
  let y := s.mac f (pMb w)
  let es := opSize (mxA c.mxcfg)
  let la := blockLen (mxAlen c.mxcfg)
  let nba := ceilDiv ((pGn w + 1) * y.kst) la
  let el := mmElems w y.kst tab
  let fromA := if pAsrc w then [] else el.map fun x => (mmAddr w es y.kst x.1 x.2, es, true)
  let fromS := if c.sca = 0 then [] else el.map fun x => (c.sca.toNat + x.1 * nba + x.2 / la, 1, false)
  let r := s.readOps f ctx (fromA ++ fromS)
  match r.stop with
  | .wait va => r.s.engWait u .mx e c ctx va
  | .sleep pa => (r.s.rouse ctx pa).update u .mx e c
  | _ =>
    let s1 := (mmGroup w).foldl (fun s m => s.touchMacro ctx f m) r.s
    if r.code ≠ 0 then r.s.update u .mx e (c.fail r.code 0)
    else if s1.badWeights f w y tab then s1.update u .mx e (c.fail 9 0)
    else
      let key (i k : Nat) : Nat := i * ((pGn w + 1) * y.kst) + k
      let at_ (l : List Nat) (i k : Nat) : Nat := Tbl.get 0 ((el.map fun x => key x.1 x.2).zip l) (key i k)
      let a (i k : Nat) : Nat :=
        if pAsrc w then
          let b := es * k
          bits (c.vcap.getD (b / 32) 0).toNat (8 * (b % 32) + 8 * es - 1) (8 * (b % 32))
        else at_ (r.vals.take el.length) i k
      let sa (i k : Nat) : Int := if c.sca = 0 then 0 else sint (at_ (r.vals.drop fromA.length) i k) 8
      let z := s1.mmApply f c tab a sa
      (s1.setMac f (pMb w) z.1).update u .mx e (c.finish (dw (b2n z.2.1 + 2 * b2n z.2.2)))

/-- A begun TMM or TMMB reads its table, if it has one, and its operands. -/
def State.goMm (s : State) (u e : Nat) (c : Cmd) : State :=
  let f := u / 256
  let ctx := s.ctxOf u
  let w := c.word
  if wOpc w = 0x12 then s.mmProduct u e c none
  else
    let k := (pGn w + 1) * (s.mac f (pMb w)).kst
    let r := s.fetchBytes f ctx (pBit w) (2 * pNb w)
    if !r.bad.isEmpty then r.s.update u .mx e (c.fail 9 0)
    else match r.stop with
      | .wait va => r.s.engWait u .mx e c ctx va
      | .sleep pa => (r.s.rouse ctx pa).update u .mx e c
      | .prot => r.s.update u .mx e (c.fail 4 0)
      | .cut => r.s.update u .mx e (c.fail 15 0)
      | .none =>
        let tab := tableOf r.b (pNb w)
        if tab.any fun x => ceilDiv k 32 ≤ x.2 then r.s.update u .mx e (c.fail 8 0)
        else r.s.mmProduct u e c (some tab)

/-- TMM and TMMB: one that begins is checked and from then on holds its macros (R173, R182). -/
def State.runMm (s : State) (u e : Nat) (c : Cmd) : State :=
  if c.phase ≠ .queued then s.goMm u e c
  else s.claim u e c (if mmReserved c || mmLimit c.word then [] else mmGroup c.word) <|
    match s.mmCheck (u / 256) (s.ctxOf u) c with
    | some code => s.update u .mx e (c.fail code 0)
    | none => s.goMm u e { c with phase := .started, pos := 1 }

/-! ## TDOT (R185) -/

def dLen (w : Tile) : Nat := wf w 239 220
def dAnchor (w : Tile) : Int := sint (wf w 219 210) 10

/-- The checks of a TDOT (R64, R147). -/
def tdotCheck (c : Cmd) : Option Nat :=
  let x := c.mxcfg
  if c.badCommon matrixOpc || wf c.word 209 192 ≠ 0 || 3 < mxA x || 3 < mxB x || 4 < mxO x || 4 < mxAlen x || 4 < mxBlen x
  then some 1
  else if !mxMix x && (mxA x ≠ mxB x || mxAlen x ≠ mxBlen x) then some 3
  else none

/-- The scale byte of element `k` in a table that a TDOT names. -/
def tdotScale (base la k : Nat) : List (Nat × Nat) := if base = 0 then [] else [(base + k / la, 1)]

/-- What a TDOT reads for element `k`: x, its scale, y, its scale, as its pseudocode orders them. -/
def tdotReads (c : Cmd) (k : Nat) : List (Nat × Nat) :=
  let esA := opSize (mxA c.mxcfg)
  let esB := opSize (mxB c.mxcfg)
  (wf c.word 63 0 + esA * k, esA) :: tdotScale c.sca.toNat (blockLen (mxAlen c.mxcfg)) k
    ++ (wf c.word 127 64 + esB * k, esB) :: tdotScale c.scb.toNat (blockLen (mxBlen c.mxcfg)) k

/-- The ranges that a TDOT reads, in order. -/
def tdotRanges (c : Cmd) : List (Nat × Nat) := (List.range (dLen c.word)).flatMap (tdotReads c)

/-- The terms of a TDOT from the rows that its reads gave, `n` elements. -/
def tdotTerms (c : Cmd) : Nat → List (List Byte) → List (Option Int)
  | 0, _ => []
  | n + 1, rows =>
    let ftz := fpFtz c.fpctl
    let i := if c.sca = 0 then 0 else 1
    let j := if c.scb = 0 then 0 else 1
    let num (k : Nat) : Nat := ofBytes (rows.getD k [])
    mxTerm (operand (mxA c.mxcfg) ftz (num 0)) (operand (mxB c.mxcfg) ftz (num (i + 1)))
        (if c.sca = 0 then 0 else sint (num 1) 8) (if c.scb = 0 then 0 else sint (num (i + 2)) 8) (dAnchor c.word)
      :: tdotTerms c n (rows.drop (2 + i + j))

/-- The result and the status word of a TDOT from the rows that its reads gave. -/
def tdotResult (c : Cmd) (rows : List (List Byte)) : List Byte × Nat :=
  let t := mxSum (tdotTerms c (dLen c.word) rows)
  let z := mxNarrow (mxOvf c.mxcfg) t.1
  let r := mxConvert (mxO c.mxcfg) c.fpctl z.1 (dAnchor c.word) t.2
  let osz := outSize (mxO c.mxcfg)
  (toBytes r.1 osz, osz + 256 * b2n z.2 + 512 * b2n t.2 + 4096 * r.2.report)

/-- A TDOT begins: its operands are read in order, the first failure ending it, and its result made. -/
def State.beginTdot (s : State) (u e : Nat) (c : Cmd) : State :=
  let ctx := s.ctxOf u
  match tdotCheck c with
  | some code => s.update u .mx e (c.fail code 0)
  | none =>
    let r := s.fetchList (u / 256) ctx (tdotRanges c)
    if r.bad then r.s.update u .mx e (c.fail 9 0)
    else match r.stop with
      | .wait va => r.s.engWait u .mx e c ctx va
      | .sleep pa => r.s.rouse ctx pa
      | .prot => r.s.update u .mx e (c.fail 4 0)
      | .cut => r.s.update u .mx e (c.fail 15 0)
      | .none =>
        let z := tdotResult c r.rows
        r.s.update u .mx e { c with
          phase := .started, pos := 0, wait := none, status := dw z.2, todo := cutPieces 2 (wf c.word 191 128) z.1 [] }

def State.runTdot (s : State) (u e : Nat) (c : Cmd) : State :=
  if c.phase = .queued then s.beginTdot u e c else s.sendNext u e c

/-! ## The unit's turns -/

/-- Whether entry `e` of slot `u`'s MXQ has anything to do: it has not finished, and where it has started it does not wait for
its macros. -/
def State.mxReady (s : State) (u e : Nat) (c : Cmd) : Bool :=
  c.phase ≠ .finished && !(c.phase = .queued && c.start.isSome && s.mxAwaits u e c)

/-- Whether later commands of its MXQ may go on beside an entry: it has finished, or has started and waits on no walk
(R74, R173). -/
def Cmd.mxPassed (c : Cmd) : Bool :=
  c.phase = .finished || ((c.phase = .started || (c.phase = .queued && c.start.isSome)) && c.wait.isNone)

/-- The entry of slot `u`'s MXQ that the unit serves among those whose opcode `mine` accepts: the first that has anything to
do, where every earlier one has finished, or has started and waits on no walk (R74, R173). -/
def State.mxIdx (s : State) (u : Nat) (mine : Nat → Bool) : Option Nat :=
  let l := (s.slot u).mxq
  match l.zipIdx.find? fun x => mine (wOpc x.1.word) && s.mxReady u x.2 x.1 with
  | none => none
  | some x => if (l.take x.2).all Cmd.mxPassed then some x.2 else none

/-- A turn of the matrix unit on slot `u`'s MXQ. -/
def State.matrixTurn (s : State) (u : Nat) (mine : Nat → Bool) (go : State → Nat → Nat → Cmd → State) : State :=
  let l := (s.slot u).mxq
  match s.mxIdx u mine with
  | none => s
  | some e =>
    match l[e]? with
    | none => s
    | some c => if s.working u && mine (wOpc c.word) && c.phase ≠ .parked then go s u e c else s

/-- TLW; a command with an opcode that is not the matrix unit's is rejected here (R59). -/
def execTlw (u : Nat) (s : State) : Out := .next (s.matrixTurn u (fun o => o = 0x10 || !matrixOpc o) State.runTlw)
def execTrel (u : Nat) (s : State) : Out := .next (s.matrixTurn u (· = 0x11) State.runTrel)
def execTmm (u : Nat) (s : State) : Out := .next (s.matrixTurn u (· = 0x12) State.runMm)
def execTmmb (u : Nat) (s : State) : Out := .next (s.matrixTurn u (· = 0x13) State.runMm)
def execTacz (u : Nat) (s : State) : Out := .next (s.matrixTurn u (· = 0x14) State.runTacz)
def execTacs (u : Nat) (s : State) : Out := .next (s.matrixTurn u (· = 0x15) State.runTacs)
def execTdot (u : Nat) (s : State) : Out := .next (s.matrixTurn u (· = 0x16) State.runTdot)

end Sys2Proof.Machine
end

