-- ==== Sys2Proof/Machine/Shake.lean ====
section
/-!
DEFINITION. SHAKE128 and SHAKE256, as R322, R323 and ML-DSA-65 use them; the spec names the functions and FIPS 202 defines
them (log 9). A state is the list of its 25 lanes, lane (x, y) at x + 5·y; the constants are computed as they are defined.
-/

namespace Sys2Proof.Machine

/-- Lane (x, y) of a state, both counted modulo 5. -/
def laneAt (l : List Dword) (x y : Nat) : Dword := l.getD (x % 5 + 5 * (y % 5)) 0

/-- Every lane mixed with the parity of the column before it and that of the column behind it, turned by one bit. -/
def mixParity (l : List Dword) : List Dword :=
  let parity := (List.range 5).map fun x => (List.range 5).foldl (fun w y => w ^^^ laneAt l x y) 0
  l.mapIdx fun i w => w ^^^ parity.getD ((i + 4) % 5) 0 ^^^ (parity.getD ((i + 1) % 5) 0).rotateLeft 1

/-- Where the walk over the lanes stands, and the lanes placed so far. -/
structure LaneWalk where
  x : Nat
  y : Nat
  placed : List Dword

/-- Lane (x, y) turned by a triangular number and placed at the next stop of the walk. -/
def LaneWalk.go (l : List Dword) (w : LaneWalk) (t : Nat) : LaneWalk :=
  let x := w.y
  let y := (2 * w.x + 3 * w.y) % 5
  { x := x, y := y, placed := w.placed.set (x + 5 * y) ((laneAt l w.x w.y).rotateLeft ((t + 1) * (t + 2) / 2 % 64)) }

/-- The lanes but (0, 0) turned and moved along the walk that begins at (1, 0). -/
def moveLanes (l : List Dword) : List Dword :=
  ((List.range 24).foldl (LaneWalk.go l) { x := 1, y := 0, placed := l }).placed

/-- Every lane with the nonlinear step along its row. -/
def mixAlong (l : List Dword) : List Dword :=
  l.mapIdx fun i w => w ^^^ (laneAt l (i + 2) (i / 5) &&& ~~~laneAt l (i + 1) (i / 5))

/-- One step of the generator of the round constants' bits, modulo x^8 + x^6 + x^5 + x^4 + 1. -/
def genStep (g : Nat) : Nat := if g < 128 then 2 * g else (2 * g) ^^^ 0x171

/-- The constant of a round from its generator: seven of its bits, at the places one below a power of two. -/
def roundConst (g : Nat) : Nat :=
  ((List.range 7).map fun j => (genStep^[j] g) % 2 * 2 ^ (2 ^ j - 1)).sum

/-- The permutation, round by round; the generator steps seven times in each. -/
def permute : Nat → Nat → List Dword → List Dword
  | 0, _, l => l
  | n + 1, g, l =>
    let r := mixAlong (moveLanes (mixParity l))
    permute n (genStep^[7] g) (r.set 0 (laneAt r 0 0 ^^^ dw (roundConst g)))

/-- The bytes that fill a message of `n` bytes up to whole blocks of `rate`. -/
def shakePad (rate n : Nat) : List Byte :=
  match rate - 1 - n % rate with
  | 0 => [0x9F]
  | k + 1 => 0x1F :: List.replicate k 0 ++ [0x80]

/-- A block taken in: its lanes changed by its bytes, and the permutation. -/
def takeIn (l : List Dword) (block : List Byte) : List Dword :=
  permute 24 1 (l.mapIdx fun i w => w ^^^ dw (ofBytes ((block.drop (8 * i)).take 8)))

/-- The bytes that a state gives out, block by block. -/
def giveOut (rate : Nat) : Nat → List Dword → List Byte
  | 0, _ => []
  | n + 1, l => ((l.take (rate / 8)).flatMap fun w => toBytes w.toNat 8) ++ giveOut rate n (permute 24 1 l)

/-- `n` bytes of output for a message, in blocks of `rate` bytes: 168 makes SHAKE128, 136 SHAKE256. -/
def shake (rate n : Nat) (m : List Byte) : List Byte :=
  let full := m ++ shakePad rate m.length
  let last := (List.range (full.length / rate)).foldl (fun l k => takeIn l ((full.drop (rate * k)).take rate))
    (List.replicate 25 0)
  (giveOut rate ((n + rate - 1) / rate) last).take n

/-- SHAKE256 of a message, 64 bytes. -/
def shake256 (m : List Byte) : List Byte := shake 136 64 m

end Sys2Proof.Machine
end

