-- ==== Sys2Proof/Machine/MlDsa.lean ====
section
/-!
DEFINITION. Verification of an ML-DSA-65 signature (R3, R322, R329); the spec names the algorithm and FIPS 204 defines it
(log 9). A polynomial is the list of its 256 coefficients modulo q; products go by its values at the odd powers of a root.
-/

namespace Sys2Proof.Machine

/-- The modulus q. -/
def dsaQ : Nat := 8380417

/-- Powers of 1753, a root of unity of order 512 modulo q. -/
def zeta : Nat → Nat
  | 0 => 1
  | n + 1 => zeta n * 1753 % dsaQ

/-- A number of eight bits with its bits reversed. -/
def revBits (n : Nat) : Nat := ((List.range 8).map fun i => n / 2 ^ i % 2 * 2 ^ (7 - i)).sum

/-- The exponents of the points at which a polynomial is taken, in their order. -/
def points : List Nat := (List.range 256).map fun i => 2 * revBits i + 1

/-- The values of a polynomial at the points. -/
def values (f : List Nat) : List Nat :=
  points.map fun e => let r := zeta e; f.foldr (fun a v => (a + r * v) % dsaQ) 0

/-- The polynomial that has given values at the points; 8347681 is the inverse of 256. -/
def fromValues (g : List Nat) : List Nat :=
  let inv := points.map fun e => zeta (512 - e)
  ((List.range 256).foldl (fun (a : List Nat × List Nat) _ =>
    (a.1 ++ [a.2.sum % dsaQ * 8347681 % dsaQ], List.zipWith (fun x y => x * y % dsaQ) a.2 inv)) ([], g)).1

/-- Sum, difference and product of values, place by place. -/
def addV (f g : List Nat) : List Nat := List.zipWith (fun a b => (a + b) % dsaQ) f g
def subV (f g : List Nat) : List Nat := List.zipWith (fun a b => (a + dsaQ - b) % dsaQ) f g
def mulV (f g : List Nat) : List Nat := List.zipWith (fun a b => a * b % dsaQ) f g

/-- The 256 numbers of `b` bits that bytes hold, the first lowest. -/
def unpackBits (b : Nat) (l : List Byte) : List Nat :=
  let x := ofBytes l
  (List.range 256).map fun i => x / 2 ^ (b * i) % 2 ^ b

/-- Stretch `i` of `n` bytes. -/
def stretch (l : List Byte) (n i : Nat) : List Byte := (l.drop (n * i)).take n

/-- Numbers of 23 bits from bytes, three for each. -/
def threes : List Byte → List Nat
  | a :: b :: c :: t => (a.toNat + 2 ^ 8 * b.toNat + 2 ^ 16 * (c.toNat % 128)) :: threes t
  | _ => []

/-- Entry (r, c) of the matrix that a seed gives, as values: the numbers below q of a stream. Its 2,016 bytes fall short of
256 such numbers with a probability below 2^-256. -/
def matrixAt (seed : List Byte) (r c : Nat) : List Nat :=
  ((threes (shake 168 2016 (seed ++ [BitVec.ofNat 8 c, BitVec.ofNat 8 r]))).filter (· < dsaQ)).take 256

/-- The challenge from its stream: 49 coefficients of ±1, their signs the bits of `h`. -/
def challengeFrom (h : Nat) : List Byte → Nat → List Nat → List Nat
  | [], _, c => c
  | j :: t, i, c =>
    if 256 ≤ i then c
    else if i < j.toNat then challengeFrom h t i c
    else
      challengeFrom h t (i + 1)
        ((c.set i (c.getD j.toNat 0)).set j.toNat (if h / 2 ^ (i - 207) % 2 = 1 then dsaQ - 1 else 1))

/-- The challenge polynomial of a seed. -/
def challenge (seed : List Byte) : List Nat :=
  let l := shake 136 1088 seed
  challengeFrom (ofBytes (l.take 8)) (l.drop 8) 207 (List.replicate 256 0)

/-- Whether numbers rise strictly. -/
def rises : List Nat → Bool
  | a :: b :: t => a < b && rises (b :: t)
  | _ => true

/-- The places of the hints in each of the six polynomials, none where the 61 bytes are not in the one form allowed. -/
def hintsOf (y : List Byte) : Option (List (List Nat)) :=
  let n := y.map BitVec.toNat
  let ends := (List.range 6).map fun i => n.getD (55 + i) 0
  let part (i : Nat) : List Nat := (n.take (ends.getD i 0)).drop (if i = 0 then 0 else ends.getD (i - 1) 0)
  let ok (i : Nat) : Bool :=
    (i == 0 || ends.getD (i - 1) 0 ≤ ends.getD i 0) && ends.getD i 0 ≤ 55 && rises (part i)
  if (List.range 6).all ok && ((n.take 55).drop (ends.getD 5 0)).all (· == 0) then some ((List.range 6).map part) else none

/-- The high part of a coefficient, moved by one where a hint says so. -/
def highPart (hint : Bool) (r : Nat) : Nat :=
  let a := 523776
  let low : Int := if r % a ≤ a / 2 then (r % a : Nat) else (r % a : Nat) - (a : Int)
  let top := (r : Int) - low = dsaQ - 1
  let r1 : Nat := if top then 0 else (((r : Int) - low) / a).toNat
  let r0 : Int := if top then low - 1 else low
  if !hint then r1 else if 0 < r0 then (r1 + 1) % 16 else (r1 + 15) % 16

/-- High parts as bytes, two in each. -/
def packHigh : List Nat → List Byte
  | a :: b :: t => BitVec.ofNat 8 (a + 16 * b) :: packHigh t
  | _ => []

/-- The high parts that a signature leads to: A·z less the challenge times t1·2^13, and the hints. -/
def recovered (key : List Byte) (c : List Nat) (z : List (List Nat)) (hints : List (List Nat)) : List Byte :=
  let seed := key.take 32
  let zv := z.map values
  let cv := values c
  (List.range 6).flatMap fun r =>
    let t := (unpackBits 10 (stretch (key.drop 32) 320 r)).map (· * 2 ^ 13 % dsaQ)
    let az := zv.zipIdx.foldl (fun a x => addV a (mulV (matrixAt seed r x.2) x.1)) (List.replicate 256 0)
    let w := fromValues (subV az (mulV cv (values t)))
    packHigh (w.mapIdx fun i x => highPart ((hints.getD r []).contains i) x)

/-- Whether a signature of ML-DSA-65 over a message, with the empty context string, holds under a public key (FIPS 204). -/
def dsaVerify (key m sig : List Byte) : Bool :=
  let seed := sig.take 48
  let z := (List.range 5).map fun i => (unpackBits 20 (stretch (sig.drop 48) 640 i)).map fun x => (dsaQ + 2 ^ 19 - x) % dsaQ
  let short (x : Nat) : Bool := x < 524092 || dsaQ - x < 524092
  match hintsOf (sig.drop 3248) with
  | none => false
  | some h =>
    let mu := shake 136 64 (shake 136 64 key ++ [0, 0] ++ m)
    key.length == 1952 && sig.length == 3309 && z.all (·.all short)
      && shake 136 48 (mu ++ recovered key (challenge seed) z h) == seed

end Sys2Proof.Machine
end

