-- ==== Sys2Proof/Machine/Atomics.lean ====
section
/-!
DEFINITION. Atomics and fences (R226 to R236).
-/

namespace Sys2Proof.Machine

/-- Bytes of an atomic's size (R234). -/
def asizeBytes : ASize → Nat
  | .w => 4
  | .d => 8

/-- Result(old) of the integer atomics: the w forms sign-extend (R235). -/
def amoResult (n old : Nat) : Dword := if n = 4 then BitVec.ofInt 64 (sint old 32) else dw old

/-- The watchpoint of an atomic: it loads and stores (R297). -/
def Slot.watchedAmo (t : Slot) (va n : Nat) : Bool := t.watched 0 va n || t.watched 1 va n

/-- The order of an atomic includes a release (R226). -/
def orderReleases : Order → Bool
  | .rel | .ar => true
  | .rlx | .acq => false

/-- The access of an atomic at its place, as one access: the value read, and Op of it written, unless the doubleword is
poisoned; then S[d] receives Result of the value (R235). It acquires (R224 item 3). -/
def State.amoPerform (s : State) (d : Reg) (ad n : Nat) (p : Place) (op : Nat → Nat) (res : Nat → Dword) : State :=
  let s1 := s.touch s.myCtx p.pa n
  if s1.poisoned p.pa n then s1.trap causePoison (dw ad)
  else
    let old := s1.rdNat p n
    let s2 := s1.wr p (toBytes (op old) n)
    s2.setHere ((s2.here.dropEarly fun _ => true).setS d.toNat (res old)).advance

/-- An atomic whose request left toward a device that cannot be reached: PROT, performed or not (R318, log 20). -/
def State.amoCut (s : State) (ad n : Nat) (p : Place) (op : Nat → Nat) : State :=
  (if Config.freePick s.tick 1 % 2 = 1 then s.wr p (toBytes (op (s.rdNat p n)) n) else s).trap causeProt (dw ad)

/-- An atomic of `n` bytes: the scoreboard's checks, alignment, translation, stationary macros, the release, the access
(R235). `src` lists its sources, and `isCas` says that S[d] is one of them. -/
def State.amo (s : State) (d a b : Reg) (isCas : Bool) (c : Scope) (o : Order) (n : Nat) (op : Nat → Nat)
    (res : Nat → Dword) : Out :=
  let t := s.here
  let ad := (t.s a.toNat).toNat
  if t.srcPend (if isCas then [a, b, d] else [a, b]) then s.stall
  else if t.isPend d.toNat then .next (s.clobber d.toNat)
  else if ad % n ≠ 0 then .next (s.trap causeAlign (dw ad))
  else if t.fencedLoad s.myCore || t.fencedStore s.myCore then s.stall
  else match s.look .amo false ad with
    | .trap code => .next (s.trap code (dw ad))
    | .wait => .next (s.waitOn ad)
    | .ok p =>
      if s.stationaryAt p.pa then .next (s.trap causeStationary (dw ad))
      else if t.watchedAmo ad n then .next (s.trap causeWatch (dw ad))
      else if (orderReleases o && t.releaseHeld c s.myCore) || t.amoHeld s.myCore ad p.pa n
          || s.arrivalAhead s.cur p.pa n then s.stall
      else if s.cutOff p.pa then .next (s.amoCut ad n p op)
      else if s.asleep p.pa then .next (s.rouse s.myCtx p.pa)
      else .next (s.amoPerform d ad n p op res)

/-- An integer atomic of size w or d: Op of the old value, S[b] and, for cas, S[d], each of the size's width. -/
def State.amoInt (s : State) (d a b : Reg) (isCas : Bool) (c : Scope) (o : Order) (z : ASize)
    (op : Nat → Nat → Nat → Nat → Nat) : Out :=
  let n := asizeBytes z
  let m := 2 ^ (8 * n)
  s.amo d a b isCas c o n
    (fun old => op (8 * n) old ((s.here.s b.toNat).toNat % m) ((s.here.s d.toNat).toNat % m) % m) (amoResult n)

def execAmoAdd (d a b : Reg) (c : Scope) (o : Order) (z : ASize) (s : State) : Out :=
  s.amoInt d a b false c o z fun _ old v _ => old + v
def execAmoAnd (d a b : Reg) (c : Scope) (o : Order) (z : ASize) (s : State) : Out :=
  s.amoInt d a b false c o z fun _ old v _ => old &&& v
def execAmoOr (d a b : Reg) (c : Scope) (o : Order) (z : ASize) (s : State) : Out :=
  s.amoInt d a b false c o z fun _ old v _ => old ||| v
def execAmoXor (d a b : Reg) (c : Scope) (o : Order) (z : ASize) (s : State) : Out :=
  s.amoInt d a b false c o z fun _ old v _ => old ^^^ v
def execAmoMin (d a b : Reg) (c : Scope) (o : Order) (z : ASize) (s : State) : Out :=
  s.amoInt d a b false c o z fun w old v _ => if sint old w < sint v w then old else v
def execAmoMax (d a b : Reg) (c : Scope) (o : Order) (z : ASize) (s : State) : Out :=
  s.amoInt d a b false c o z fun w old v _ => if sint old w < sint v w then v else old
def execAmoMinZ (d a b : Reg) (c : Scope) (o : Order) (z : ASize) (s : State) : Out :=
  s.amoInt d a b false c o z fun _ old v _ => if old < v then old else v
def execAmoMaxZ (d a b : Reg) (c : Scope) (o : Order) (z : ASize) (s : State) : Out :=
  s.amoInt d a b false c o z fun _ old v _ => if old < v then v else old
def execAmoXchg (d a b : Reg) (c : Scope) (o : Order) (z : ASize) (s : State) : Out :=
  s.amoInt d a b false c o z fun _ _ v _ => v
def execAmoCas (d a b : Reg) (c : Scope) (o : Order) (z : ASize) (s : State) : Out :=
  s.amoInt d a b true c o z fun _ old v e => if old = e then v else old

/-- fadd.f32's sum: round to nearest even, subnormals in full, no flag (R236). -/
def faddBits (x y : Nat) : Nat :=
  (b32.finish .rne false (Val.add .rne (b32.decode false x) (b32.decode false y))).1

def execAmoFaddF32 (d a b : Reg) (c : Scope) (o : Order) (s : State) : Out :=
  s.amo d a b false c o 4 (fun old => faddBits old ((s.here.s b.toNat).toNat % 2 ^ 32)) dw

/-- xadd's sum in 128 bits (R235, R236). -/
def xaddBits (old : Nat) (v : Dword) : Nat := uint (sint old 128 + v.toInt) 128

def execAmoXadd (d a b : Reg) (c : Scope) (o : Order) (s : State) : Out :=
  s.amo d a b false c o 16 (fun old => xaddBits old (s.here.s b.toNat)) fun old => dw (old % 2 ^ 64)

/-! ## Fences (R230 to R233) -/

/-- A fence among the stores on their way; without one before it there is nothing to order. -/
def State.pushFence (s : State) (e : SEntry) : State := if s.here.sbuf.isEmpty then s else s.pushStore e

/-- The kind ll of a fence (R44). -/
def kindLl (k : BitVec 4) : Bool := k.getLsbD 0

/-- The early loads that a FENCE leaves no use: with ll those that a load has passed, with sl those that a store within
its scope should have come before (R232). -/
def State.fenceEarly (s : State) (k : BitVec 4) (x : Scope) : State :=
  if s.here.early.isEmpty then s
  else s.setHere (s.here.dropEarly fun e =>
    (kindLl k && e.passed) || (kindSl k && (s.here.sbuf.any (·.within x s.myCore) || e.past.any (inScope x s.myCore))))

/-- FENCE: sl and ss wait for the replay queue, and hold later accesses only (R231, R232). -/
def execFence (k : BitVec 4) (x : Scope) (s : State) : Out :=
  if (kindSl k || kindSs k) && !s.here.replay.isEmpty then s.stall
  else .next ((s.fenceEarly k x).pushFence (.fence s.tick k x)).done

/-- FENCE.X (R233). -/
def execFenceX (s : State) : Out :=
  if !s.here.replay.isEmpty then s.stall else .next (s.pushFence (.fenceX s.tick)).done

end Sys2Proof.Machine
end

