-- ==== Sys2Proof/Machine/Peers.lean ====
section
/-!
DEFINITION. What other devices and adapters do to this one: element accesses, arrivals, copy reads and deliveries of peers,
and the bulk copies and requests of peers and adapters through region handles (R81, R87, R90, R103, R170, R316 to R320).
-/

namespace Sys2Proof.Machine

/-! ## Traffic of peers (R316, R319) -/

/-- The value that an AMO writes, by its operation code of R45: `n` bytes wide, the old value, the operand and the
comparand (R235, R236). -/
def amoCode (op n old : Nat) (v c : Dword) : Nat :=
  let m := 2 ^ (8 * n)
  let x := v.toNat % m
  match op with
  | 0 => (old + x) % m
  | 1 => old &&& x
  | 2 => old ||| x
  | 3 => old ^^^ x
  | 4 => if sint old (8 * n) < sint x (8 * n) then old else x
  | 5 => if sint old (8 * n) < sint x (8 * n) then x else old
  | 6 => min old x
  | 7 => max old x
  | 8 => x
  | 9 => if old = c.toNat % m then x else old
  | 10 => faddBits old x
  | _ => xaddBits old v

/-- Bytes of an AMO by its size code, none where R45 assigns no such operation. -/
def amoCodeBytes (op size : Nat) : Option Nat :=
  if op ≤ 9 && size ≤ 1 then some (4 * 2 ^ size)
  else if op = 10 && size = 0 then some 4
  else if op = 11 && size = 2 then some 16
  else none

/-- Bytes that a peer's traffic reaches. -/
def PeerOp.size : PeerOp → Nat
  | .read n | .copyRead n => n
  | .hold _ d | .deliver d _ => d.length
  | .amo op z _ _ => (amoCodeBytes op z).getD 0
  | .commit | .cancel | .arrive => 8

/-- Whether traffic has a form that a device sends: within one granule, an AMO aligned (R87, R170, R235). -/
def Peer.formed (p : Peer) : Bool :=
  let n := p.op.size
  match p.op with
  | .commit | .cancel => true
  | .amo _ _ _ _ => 1 ≤ n && p.pa % 64 + n ≤ 64 && p.pa % n == 0
  | _ => 1 ≤ n && p.pa % 64 + n ≤ 64

/-- A reply on its way to slot `u` of another device (log 57). -/
def State.replyTo (s : State) (d u : Nat) (code : Dword) (b : List Byte) (bad : List Nat := []) : State :=
  { s with peerOut := s.peerOut ++ [{ to_ := d, slot := u, code := code, data := b, bad := bad }] }

/-- A read for a peer at a place: the bytes, or POISON (R85). -/
def State.peerRead (s0 : State) (p : Peer) (l : Place) (n : Nat) : State :=
  let s := s0.touch p.ctx l.pa n
  if s.poisoned l.pa n then s.replyTo p.from_ p.slot (dw causePoison) [] else s.replyTo p.from_ p.slot 0 (s.rd l n)

/-- A source read of a peer's copy: it completes with every byte, and says which of them are poisoned (R85). -/
def State.peerCopyRead (s0 : State) (p : Peer) (l : Place) (n : Nat) : State :=
  let s := s0.touch p.ctx l.pa n
  s.replyTo p.from_ p.slot 0 (s.rd l n) (s.badOffsets l.pa n)

/-- An AMO for a peer at a place as one access: the old bytes are its reply (R235). -/
def State.peerAmo (s0 : State) (p : Peer) (l : Place) (n op : Nat) (v e : Dword) : State :=
  let s := s0.touch p.ctx l.pa n
  if s.poisoned l.pa n then s.replyTo p.from_ p.slot (dw causePoison) []
  else (s.wr l (toBytes (amoCode op n (s.rdNat l n) v e) n)).replyTo p.from_ p.slot 0 (s.rd l n)

/-- Whether a held write is one of a slot's scatter that awaits its commit. -/
def PeerHeld.awaits (x : PeerHeld) (p : Peer) : Bool := x.from_ == p.from_ && x.slot == p.slot && !x.committed

/-- The writes of a scatter in ascending lane order, those of one lane as they came. -/
def insertLane (x : PeerHeld) : List PeerHeld → List PeerHeld
  | [] => [x]
  | y :: t => if x.lane < y.lane then x :: y :: t else y :: insertLane x t

/-- The commit of a slot's held writes: they stand behind those committed before, in ascending lane order (R170). -/
def State.commitPeer (s : State) (p : Peer) : State :=
  let l := (s.peerHeld.filter (·.awaits p)).foldl (fun l x => insertLane { x with committed := true } l) []
  { s with peerHeld := s.peerHeld.filter (!·.awaits p) ++ l }

/-- An admitted access of a peer at its place. A lane of a scatter is refused at a stationary macro and otherwise held
(R110, R170). -/
def State.peerAt (s : State) (p : Peer) (l : Place) : State :=
  let refused := s.stationaryAt l.pa
  match p.op with
  | .read n => s.peerRead p l n
  | .copyRead n => s.peerCopyRead p l n
  | .hold i b =>
    if refused then s.replyTo p.from_ p.slot (dw causeStationary) []
    else
      let x : PeerHeld :=
        { from_ := p.from_, slot := p.slot, ctx := p.ctx, lane := i, place := l, data := b, committed := false }
      { s with peerHeld := s.peerHeld ++ [x] }.replyTo p.from_ p.slot 0 []
  | .amo op z v e =>
    if refused then s.replyTo p.from_ p.slot (dw causeStationary) []
    else s.peerAmo p l ((amoCodeBytes op z).getD 0) op v e
  | .deliver b bad =>
    if refused then s.replyTo p.from_ p.slot 4 []
    else (s.writeDeliv { va := l.pa, ctx := p.ctx, place := l, data := b, bad := bad, pos := 0 }).replyTo p.from_ p.slot 0 []
  | .commit | .cancel | .arrive => s

/-- A committed write of a peer's scatter performs, after those of lower lanes, and of earlier scatters of its slot, at its
owner; the slot learns of it (R170, R228). Behind a key slot that has been erased it takes PROT (R325). -/
def State.performPeer (s : State) (k : Nat) : State :=
  match s.peerHeld[k]? with
  | none => s
  | some x =>
    let first := (s.peerHeld.take k).all fun y =>
      !(y.committed && y.from_ == x.from_ && y.slot == x.slot && sameOwner y.place.pa x.place.pa)
    if !x.committed || !first then s
    else if s.keyLost x.place then
      ({ s with peerHeld := dropAt s.peerHeld k } : State).replyTo x.from_ x.slot (dw causeProt) []
    else if s.asleep x.place.pa then s.rouse x.ctx x.place.pa
    else ({ s.write x.ctx x.place x.data with peerHeld := dropAt s.peerHeld k } : State).replyTo x.from_ x.slot 0 []

/-- Whether a peer's traffic is admitted: another device of the system, and a context that it may carry (R319). -/
def State.admits (s : State) (d c : Nat) : Bool := s.peers.contains d && (Tbl.get [] s.admission d).contains c

/-- Traffic of a peer that the fabric brings: discarded and logged as KIND 8 where the peer may not carry its context
(R319); a commit or cancel of its held writes; an arrival on its way to its record, whose address must be well-formed (R29)
and whose core R247 checks; an access answered with PROT where its address is ill-formed, in control space or behind an
empty key slot (R29, R83, R104), else performed. -/
def State.fromPeer (s : State) (p : Peer) : State :=
  let pa := normDev s.devId p.pa
  if !s.admits p.from_ p.ctx then s.lose (some p.ctx)
  else match p.op with
    | .commit => s.commitPeer p
    | .cancel => { s with peerHeld := s.peerHeld.filter (!·.awaits p) }
    | .arrive =>
      if devOf pa = 0 && !illFormed s.peers pa && spaceOf pa = 1 && coreIn (s.facetSet p.ctx) (localCore pa) then
        s.sendArrival p.ctx (numSlots + p.from_) pa
      else s.lose (some p.ctx)
    | _ =>
      if devOf pa ≠ 0 || illFormed s.peers pa || spaceOf pa = 3 || (p.enc && spaceOf pa = 0 && (s.keySlot p.ctx).isNone) then
        s.replyTo p.from_ p.slot (dw causeProt) []
      else (s.wakeNow p.ctx pa).peerAt p { pa := pa, enc := if p.enc && spaceOf pa == 0 then some p.ctx else none }

/-! ## Bulk requests of adapters and bulk copies of peers through region handles (R90, R316, R320) -/

/-- The check of a request at its issue, in the order of R333: the code of the first failure (R78, R81, R90). -/
def State.bulkCheck (s : State) (wr : Bool) (h o n : Nat) : Option Nat :=
  let x := s.region (hSlot h)
  if hKind h ≠ 1 then some 8
  else if !s.handleHere h || s.staleRegion h then some 5
  else if x.len < o + n || !bit x.perm (if wr then 1 else 0) then some 4
  else none

/-- A request checked at its issue, and answered or taken up; `n` bytes are checked, `len` are moved (R81). -/
def State.takeBulk (s : State) (b : BulkReq) (n : Nat) : State :=
  let x := s.region (hSlot b.handle.toNat)
  let b1 := { b with base := x.base, owner := x.owner }
  match s.bulkCheck b.wr b.handle.toNat b.off n with
  | some code => s.answerBulk b1 code
  | none => if b.len = 0 then s.answerBulk b1 0 else { s with bulks := s.bulks ++ [b1] }

/-- A request with nothing done. -/
def BulkReq.new (d u : Nat) (wr : Bool) (h : Dword) (o n : Nat) (data : List Byte) (bad : List Nat) : BulkReq :=
  { from_ := d, slot := u, wr := wr, handle := h, base := 0, owner := 0, off := o, len := n
    data := data, bad := bad, got := [], lost := [], pos := 0, out := [], ending := 0, fault := none }

/-- A bulk copy of a peer through a region handle of this device: under R319 for the context it carries, then the checks of
its owner (R90, R316). -/
def State.fromAsk (s : State) (b : BulkAsk) : State :=
  if !s.admits b.from_ b.ctx then s.lose (some b.ctx)
  else s.takeBulk (.new b.from_ b.slot b.wr b.handle b.off (if b.wr then b.data.length else b.n) b.data b.bad) b.n

/-- Whether a device of the fabric is an adapter: it has an admission set here and is none of the system's devices (R319,
R320). -/
def State.adapter (s : State) (d : Nat) : Bool := s.admission.any (·.1 = d) && !s.peers.contains d

/-- ADAPTER_BULK: a request of an adapter that the firmware has admitted (R319, R320). A request carries no context of its own:
the one admitted is the region's owner's, whose access it is (log 41). -/
def execAdapterBulk (d : Nat) (wr : Bool) (h : Dword) (o n : Nat) (data : List Byte) (s : State) : Out :=
  let len := if wr then data.length else n
  let c := (s.region (hSlot h.toNat)).owner
  if !s.adapter d then .next (s.lose none)
  else if !s.staleRegion h.toNat && !(Tbl.get [] s.admission d).contains c then .next (s.lose (some c))
  else .next (s.takeBulk (.new d 0 wr h o len data []) len)

/-- A request that meets a PAGE fault in its owner's page table at an address: a peer's copy parks there and its slot learns of
the fault (R75, R81; log 57); an adapter has no slot that could take it, and its request ends with −4 (log 41). -/
def State.faultBulk (s : State) (b : BulkReq) (va : Nat) : State × BulkReq :=
  if s.peers.contains b.from_ then
    (s.replyTo b.from_ b.slot (dw causePage) (toBytes va 8), { b with fault := some va })
  else (s, { b with ending := 4 })

/-- Whether a walk for a virtual address of a context ends in PAGE (R70). -/
def State.faultsAt (s : State) (c va : Nat) : Bool :=
  va < 2 ^ 56 && (match s.walkTable c (va / 65536) with | .fault => true | .leaf _ _ => false)

/-- The deliveries of a request from byte `b.pos` up to `lim`, cut at the granules of memory, with fuel: each is translated
in the owner's page table, and the first that fails ends the request after those before it, or parks it (R70, R75, R81, R87,
R88, R110, R318). -/
def State.cutBulk (s : State) (b : BulkReq) (lim : Nat) : Nat → State × BulkReq
  | 0 => (s, b)
  | fuel + 1 =>
    if lim ≤ b.pos then (s, b)
    else
      let va := b.base + b.off + b.pos
      let n := min (lim - b.pos) (64 - va % 64)
      let s1 := s.walkTouch b.owner (va / 65536)
      match s1.xlateNow 0 b.owner (if b.wr then .store else .load) va with
      | none => if s1.faultsAt b.owner va then s1.faultBulk b va else (s1, { b with ending := 4 })
      | some p =>
        if s1.cutOff p.pa then (s1, { b with ending := 15 })
        else if b.wr && s1.stationaryAt p.pa then (s1, { b with ending := 4 })
        else s1.cutBulk { b with pos := b.pos + n, out := b.out ++ [{ pos := b.pos, n := n, place := p }] } lim fuel

/-- The next 256-byte granule of the region offset opened, after the generation check at its boundary (R81; log 11). -/
def State.openBulk (s : State) (k : Nat) (b : BulkReq) : State :=
  if (b.off + b.pos) % 256 = 0 && s.staleRegion b.handle.toNat then s.moreBulk k { b with ending := 6 }
  else
    let r := s.cutBulk b (min b.len (b.pos + (256 - (b.off + b.pos) % 256))) 6
    r.1.moreBulk k r.2

/-- Whether the region of a request was revoked and nothing of the granule of byte `pos` has moved, whose boundary the request
crosses: its outstanding deliveries are all that was cut of the granule (R81). -/
def State.bulkRevoked (s : State) (b : BulkReq) (pos : Nat) : Bool :=
  s.staleRegion b.handle.toNat && granChecked b.off pos && granAt b.off pos + (b.out.map (·.n)).sum = b.pos

/-- The code of a delivery of a request that fails at its owner, if it does, as for a copy delivery (R110, R318, R325,
R333). -/
def State.pieceFails (s : State) (b : BulkReq) (x : Piece) : Option Nat :=
  if s.keyLost x.place then some 4
  else if devOf x.place.pa ≠ 0 && b.laterDone x then none
  else if s.cutOff x.place.pa then some 15
  else if b.wr && s.stationaryAt x.place.pa then some 4
  else none

/-- A request that ends at byte `pos` with a code, the deliveries before its `j`th still outstanding (R88). -/
def BulkReq.cutAt (b : BulkReq) (j pos code : Nat) : BulkReq :=
  { b with out := b.out.take j, pos := pos, ending := code, fault := none }

/-- Delivery `j` of request `k` performs at its owner as a copy delivery of the region's owner, unless the region has been
revoked before its granule moved, it fails, or an earlier one would (R81, R85, R87, R103, R115, R333). -/
def State.pieceBulk (s : State) (k j : Nat) (b : BulkReq) (x : Piece) : State :=
  if s.bulkRevoked b x.pos then s.moreBulk k (b.cutAt 0 (granAt b.off x.pos) 6)
  else if (b.out.take j).any fun y => (s.pieceFails b y).isSome then s
  else match s.pieceFails b x with
  | some code => s.moreBulk k (b.cutAt j x.pos code)
  | none =>
    if s.asleep x.place.pa && !s.cutOff x.place.pa then s.rouse b.owner x.place.pa
    else s.performPiece k j b x

/-- A turn of bulk request `k`: the outstanding deliveries of its granule perform in any order, then it goes on to the next,
unless it is parked (R75, R81, R87, R320). -/
def State.stepBulk (s : State) (k j : Nat) : State :=
  match s.bulks[k]? with
  | none => s
  | some b =>
    match b.out[j]? with
    | some x => s.pieceBulk k j b x
    | none => if b.out.isEmpty && b.fault.isNone then s.openBulk k b else s

/-- The parked bulk copy of slot `u` of device `d` walks again, as its ERET has it, or is dropped without an answer and
with what of it has not performed, as a handler that ends its task has it (R75, R286; log 57). -/
def State.againBulk (s : State) (d u : Nat) (go : Bool) : State :=
  let mine (b : BulkReq) : Bool := b.from_ == d && b.slot == u && b.fault.isSome
  if go then { s with bulks := s.bulks.map fun b => if mine b then { b with fault := none } else b }
  else { s with bulks := s.bulks.filter (!mine ·) }

end Sys2Proof.Machine
end

