-- ==== Sys2Proof/Machine/Apex.lean ====
section
/-!
DEFINITION. The apex firmware, the management port, power, and the fabric's declarations and adapters (R7, R16, R38,
R314 to R329).
-/

namespace Sys2Proof.Machine

/-! ## Power and reset (R321, R322, R327, R328) -/

/-- Whether an address keeps its contents across a reset of this device: its HBM, and the memories of other devices. -/
def survives (pa : Nat) : Bool := spaceOf pa = 0 || devOf pa ≠ 0

/-- The device after a reset, before it boots: what is in HBM, in the fuses and outside the device stays (R322, R328). -/
def State.powerCycle (s : State) : State :=
  { State.reset with
    schedule := s.schedule, tick := s.tick, cur := s.cur
    mem := s.mem.filter (survives ·.1)
    poison := s.poison.filter survives
    latent := s.latent.filter (survives ·.1)
    svn := s.svn, fabricOut := s.fabricOut, bulkOut := s.bulkOut, peerOut := s.peerOut, apexReports := s.apexReports
    mgmtOut := s.mgmtOut }

/-- A measurement register (R323). -/
def State.measured (s : State) (i : Nat) : List Byte := Tbl.get (List.replicate 64 0) s.meas i

/-- A measurement register extended by a digest (R323). -/
def State.extend (s : State) (i : Nat) (d : List Byte) : State :=
  { s with meas := Tbl.set s.meas i (shake256 (s.measured i ++ d)) }

/-- The bytes of a firmware image that its signature covers (R322). -/
def signedBytes (b : Boot) : List Byte := Config.bootHeader b.len b.svn b.load ++ b.body

/-- The three checks of the boot ROM (R322). -/
def bootAccepted (b : Boot) (fused : Nat) : Bool :=
  b.key.length == 1952 && b.sig.length == 3309 && shake256 b.key == Config.fusedDigest
    && dsaVerify b.key (shake256 (signedBytes b)) b.sig && fused ≤ b.svn

/-- Steps 1 to 3 of R321 for an accepted image: measurement, identity, routes and admission sets. A device that is alone on
its fabric has identity 0 (R315). -/
def State.boot (s : State) (b : Boot) : State :=
  let s1 : State := { s with
    power := .up
    devId := if b.others.isEmpty then 0 else b.identity
    peers := b.peers
    admission := b.admission.foldl (fun t x => Tbl.set t x.1 x.2) []
    routes := b.routes.foldl (fun t x => Tbl.set t x.1 x.2) []
    operators := b.operators }
  (s1.extend 0 (shake256 (signedBytes b))).extend 1 (Config.routesDigest b.routes b.admission)

/-- RESET: the boot ROM verifies the firmware, which boots; a refused image stops the device (R321, R322). -/
def execReset (b : Boot) (s : State) : Out :=
  let s1 := s.powerCycle
  .next (if bootAccepted b s.svn then s1.boot b else { s1 with power := .refused })

/-- RAIL_FAULT: the device resets as a thermal trip does (R327). -/
def execRailFault (s : State) : Out :=
  .next { s.powerCycle with mgmtOut := s.mgmtOut ++ [(327, [])] }

/-- THROTTLE: only timing changes (R328). -/
def execThrottle (s : State) : Out := .next { s with throttled := true }

/-- THROTTLE_END. -/
def execThrottleEnd (s : State) : Out := .next { s with throttled := false }

/-- TRIP: every core and engine stops, the trip is logged for the management port, and the device resets (R328). -/
def execTrip (s : State) : Out := .next { s.powerCycle with mgmtOut := s.mgmtOut ++ [(328, [])] }

/-! ## The management port (R324, R329) -/

/-- The state with an answer sent over the port. -/
def State.answer (s : State) (k : Nat) (b : List Byte) : State := { s with mgmtOut := s.mgmtOut ++ [(k, b)] }

/-- A request over the port: performed within a session; of a device that its boot ROM has stopped, the port alone answers,
that it is stopped (R321, R329; log 42). -/
def State.request (s : State) (f : State → State) : State :=
  if s.power = .refused then s.answer 321 [] else if s.session then f s else s

/-- SESSION: a host that answers a nonce by an enrolled operator key is admitted. -/
def execSession (nonce key sig : List Byte) (s : State) : Out :=
  .next (if s.power = .refused then s.answer 321 []
    else if s.operators.contains key && dsaVerify key nonce sig then { s with session := true } else s)

/-- A doubleword of control space read or written with the apex rights. -/
def State.mgmtControl (s : State) (wr : Bool) (a v : Dword) : State :=
  if a.toNat % 8 ≠ 0 then s
  else match s.creg a.toNat with
    | none => s
    | some r => if wr then s.cwrite .apex r v else s.answer a.toNat (toBytes (s.cread r) 8)

/-- MGMT_CONTROL_ACCESS. -/
def execMgmtControlAccess (wr : Bool) (a v : Dword) (s : State) : Out := .next (s.request (·.mgmtControl wr a v))

/-- Whether a range of global physical addresses lies in the device's HBM. -/
def State.hbmRange (s : State) (a n : Nat) : Bool := s.ownHbm a && offOf a + n ≤ 2 ^ 39

/-- The codes checked of the granules of a range of HBM that an access of an apex core reads, which no context owns: all, or
for a write those that it covers in part (R84). -/
def State.touchApex (s : State) (pa n : Nat) (part : Bool) : State :=
  (s.latent.filter fun u =>
    pa < u.1 + 64 && u.1 < pa + n && !(part && pa ≤ u.1 && u.1 + 64 ≤ pa + n)).foldl (fun s u => s.touchUnit none u.1) s

/-- One access of an apex core at the owner; an encrypted page shows its encrypted bytes. -/
def State.mgmtHbm (s : State) (wr : Bool) (a : Dword) (n : Nat) (data : List Byte) : State :=
  let p : Place := { pa := offOf a.toNat, enc := none }
  let len := if wr then data.length else n
  if !s.hbmRange a.toNat len then s
  else
    let s1 := s.touchApex p.pa len wr
    if wr then s1.wr p data else s1.answer a.toNat (s1.rd p n)

/-- MGMT_HBM_ACCESS. -/
def execMgmtHbmAccess (wr : Bool) (a : Dword) (n : Nat) (data : List Byte) (s : State) : Out :=
  .next (s.request (·.mgmtHbm wr a n data))

/-- The body of an attestation report (R324): nonce, identity, SVN, M0 to M15. -/
def State.reportBody (s : State) (nonce : List Byte) : List Byte :=
  nonce ++ toBytes s.devId 2 ++ toBytes s.svn 1 ++ (List.range 16).flatMap s.measured

/-- An attestation report: the body, its signature, the certificate (R324). -/
def State.attested (s : State) (nonce : List Byte) : List Byte :=
  s.reportBody nonce ++ Config.sign (s.reportBody nonce) ++ Config.certificate

/-- ATTESTATION over the management port. -/
def execAttestation (nonce : List Byte) (s : State) : Out :=
  .next (s.request fun s => if nonce.length = 32 then s.answer 324 (s.attested nonce) else s)

/-- ATTESTATION for a fabric adapter: the report goes back to it (R324). -/
def State.attestFor (s : State) (d : Nat) (nonce : List Byte) : State :=
  if s.adapter d && nonce.length = 32 then s.replyTo d 0 324 (s.attested nonce) else s

/-- SVN_RAISE: the fused SVN only rises, by a request of a session (R322). -/
def execSvnRaise (v : Nat) (s : State) : Out := .next (s.request fun s => { s with svn := max s.svn v })

/-! ## Runtime images (R14, R16, R321 step 5, R323) -/

/-- The place of a virtual address of context `c` for the loader, whatever the leaf permits; behind a key slot that is empty or
erased there is none (R325). -/
def State.loadPlaceOf (s : State) (c va : Nat) : Option Place :=
  match s.walkTable c (va / 65536) with
  | .fault => none
  | .leaf big leaf =>
    let pa := s.leafAddr big leaf.toNat va
    if spaceOf pa = 0 && devOf pa = 0 && !illFormed s.peers pa && !(leafE leaf.toNat && (s.keySlot c).isNone) then
      some { pa := pa, enc := if leafE leaf.toNat then some c else none }
    else none

/-- A section placed, granule by granule with fuel; a granule that the page table does not map, or that
lies behind an empty key slot, is passed over (log 44). -/
def State.placeSection (s : State) (c : Nat) : Nat → Nat → List Byte → State
  | 0, _, _ => s
  | fuel + 1, va, d =>
    let k := min d.length (64 - va % 64)
    if d.isEmpty then s
    else
      let s1 := s.walkTouch c (va / 65536)
      let s2 := match s1.loadPlaceOf c va with
        | some p => s1.write c p (d.take k)
        | none => s1
      s2.placeSection c fuel (va + k) (d.drop k)

/-- A launch of an image: the handler index, then the arguments (R16). -/
def launchMsg (l : List Dword) : Msg :=
  { hdr := dw ((l.getD 0 0).toNat % 2 ^ 16), args := Vector.ofFn fun i => l.getD (i.val + 1) 0 }

/-- A launch of an image: it is sent once its queue is bound, which step 6 of R321 does before it, at once where it is bound
already (R16; log 44). -/
def State.sendLaunch (s : State) (q : Nat) (m : Msg) : State :=
  if (s.queue q).valid then { s with msgs := s.msgs ++ [Packet.own none false { msg := m, grant := false } (.queue q)] }
  else { s with unsent := s.unsent ++ [(q, m)] }

/-- IMAGE_LOAD: the sections and the handler table placed, the measurement extended, the launches sent. -/
def execImageLoad (c : Nat) (img : Image) (s : State) : Out :=
  if (s.ctx c).st = .running then .next s
  else
    let s1 := img.sections.foldl (fun s x => s.placeSection c (x.2.length / 64 + 2) x.1 x.2) s
    let s2 := img.handlers.foldl (fun s x =>
      s.placeSection c 2 ((s.ctx c).htab + dw (8 * x.1)).toNat (toBytes x.2 8)) s1
    let s3 := s2.extend (2 + c % 14) (Config.imageDigest img)
    .next (img.launches.foldl (fun s l => s.sendLaunch l.1 (launchMsg l.2)) s3)

/-! ## Key slots (R82, R325) -/

/-- A key slot filled with keys drawn from the entropy source. -/
def State.fillKeys (s : State) (c : Nat) : State :=
  let k := Config.freshKeys s.tick
  { s with keySlots := Tbl.set s.keySlots c (some { k1 := k.1, k2 := k.2 }) }

/-- KEY_SLOT_LOAD: while the context is FREE or SWITCHED-OUT. -/
def execKeySlotLoad (c : Nat) (s : State) : Out :=
  .next (if (s.ctx c).st = .free || (s.ctx c).st = .switchedOut then s.fillKeys c else s)

/-- KEY_SLOT_REPLACE: while the context is SWITCHED-OUT. -/
def execKeySlotReplace (c : Nat) (s : State) : Out :=
  .next (if (s.ctx c).st = .switchedOut then s.fillKeys c else s)

/-! ## Writes of control registers, words without a meaning -/

/-- REGISTER_WRITE: a write by an apex core under the register's Access column (R7). -/
def execRegisterWrite (a v : Dword) (s : State) : Out :=
  if a.toNat % 8 ≠ 0 then .next s
  else match s.creg a.toNat with
    | none => .next s
    | some r => .next (s.cwrite .apex r v)

/-- ILLEGAL_WORD: the word reaches issue and takes ILLEGAL (R38). -/
def execIllegalWord (w : Word) (s : State) : Out := .next (s.trap causeIllegal (w.setWidth 64))

/-! ## The fabric (R314, R318) -/

/-- Whether a packet goes to device `d`. -/
def Packet.toward (p : Packet) (d : Nat) : Bool :=
  match p.dest with
  | .far e _ => e == d
  | .core _ | .unit _ | .queue _ => false

/-- Whether traffic for device `d` may wait (R318): a message, an arrival, an increment, a delivery, a store; or a slot runs a
task or an engine holds commands, whose element accesses and reads leave no trace where they wait (log 88). -/
def State.trafficFor (s : State) (d : Nat) : Bool :=
  s.msgs.any (·.toward d) || s.owed.any (·.toward d) || s.inbound (devOf · == d)
    || s.arrivals.any (devOf ·.pa == d) || s.incrs.any (devOf ·.pa == d)
    || s.bulks.any (fun b => b.out.any (devOf ·.place.pa == d))
    || s.slots.any fun t => t.2.busy || !t.2.cpq.isEmpty || !t.2.mxq.isEmpty || !t.2.ssq.isEmpty || !t.2.bypass.isEmpty

/-- A message that the fabric carries to a device declared unreachable: discarded, logged as KIND 8 and reported, its unit
returned (R318; log 86). -/
def State.discardOwed (s : State) (p : Packet) : State :=
  (({ s with owed := s.owed.erase p, fabricOut := s.fabricOut.erase p } : State).returnUnit p.src p.ctx).lose p.ctx

/-- UNREACHABLE: the declaration, where traffic for the device waits, reported to the firmware; the messages that the fabric
carries there are discarded, and all other traffic meets the declaration on its way (R318). That no route has carried a flit
for 10 ms is time, which the model does not hold (log 88). -/
def execUnreachable (d : Nat) (s : State) : Out :=
  if !s.trafficFor d then .next s
  else
    let s1 : State := { s with unreachable := insertNat d s.unreachable, apexReports := s.apexReports ++ [(318, d)] }
    .next ((s.owed.filter (·.toward d)).foldl State.discardOwed s1)

/-- ROUTE_WRITE: a new route, which ends a declaration (R318). -/
def execRouteWrite (d : Nat) (ports : List Nat) (s : State) : Out :=
  .next { s with routes := Tbl.set s.routes d ports, unreachable := s.unreachable.filter (· ≠ d) }

end Sys2Proof.Machine
end

