-- ==== Sys2Proof/Machine/Index.lean ====
section
/-!
DEFINITION. The proximity index: creation, deletion, status, inserts, walks and their answers (R203 to R220).
-/

namespace Sys2Proof.Machine

/-! ## Parameters (R204 to R206) -/

/-- The fields of a parameter block. -/
def pbNw (b : Vector Dword 4) : Nat := bits (b.getD 0 0).toNat 63 56
def pbHome (b : Vector Dword 4) : Nat := bits (b.getD 0 0).toNat 55 48
def pbWb (b : Vector Dword 4) : Nat := bits (b.getD 0 0).toNat 47 32
def pbMetric (b : Vector Dword 4) : Nat := bits (b.getD 0 0).toNat 31 24
def pbM (b : Vector Dword 4) : Nat := bits (b.getD 0 0).toNat 23 16
def pbD (b : Vector Dword 4) : Nat := bits (b.getD 0 0).toNat 15 0
def pbCap (b : Vector Dword 4) : Nat := bits (b.getD 1 0).toNat 31 0
def pbSbase (b : Vector Dword 4) : Nat := (b.getD 2 0).toNat
def pbWbase (b : Vector Dword 4) : Nat := (b.getD 3 0).toNat

/-- RS: bytes of a node record (R205). -/
def recordSize (d m : Nat) : Nat := 64 * ((d + 24 + 8 * m + 63) / 64)

/-- BM: bytes of a visited table (R206). -/
def tableSize (cap : Nat) : Nat := 64 * ((cap + 511) / 512)

/-- Bytes of the two areas. -/
def storageSize (b : Vector Dword 4) : Nat := pbCap b * recordSize (pbD b) (pbM b)
def workSize (b : Vector Dword 4) : Nat := (pbNw b + 1) * tableSize (pbCap b)

/-- The limit checks of IXNEW (R204, R209). -/
def blkBad (b : Vector Dword 4) : Bool :=
  !(1 ≤ pbNw b && pbNw b ≤ 64) || !(pbM b ≤ pbWb b && pbWb b ≤ 256) || 1 < pbMetric b
    || !(2 ≤ pbM b && pbM b ≤ 64) || !(4 ≤ pbD b && pbD b ≤ 1024 && pbD b % 4 = 0)
    || bits (b.getD 1 0).toNat 63 32 ≠ 0 || pbCap b = 0
    || pbSbase b % 65536 ≠ 0 || pbWbase b % 65536 ≠ 0
    || meets (pbSbase b) (storageSize b) (pbWbase b) (workSize b)
    || 2 ^ 39 < storageSize b + workSize b

/-! ## The two areas -/

/-- The `n` bytes of an area from byte `o`, granule by granule with fuel. -/
def State.areaRd (s : State) (pages : List Place) : Nat → Nat → Nat → List Byte
  | 0, _, _ => []
  | fuel + 1, o, n =>
    let k := min n (64 - o % 64)
    if n = 0 then [] else s.rd (areaPlace pages o) k ++ s.areaRd pages fuel (o + k) (n - k)

/-- The codes of an area's bytes checked, as a read by context `c` does, and whether one is poisoned. -/
def State.areaTouch (s : State) (c : Nat) (pages : List Place) : Nat → Nat → Nat → State × Bool
  | 0, _, _ => (s, false)
  | fuel + 1, o, n =>
    let k := min n (64 - o % 64)
    if n = 0 then (s, false)
    else
      let pa := (areaPlace pages o).pa
      let s1 := s.touch c pa k
      let r := s1.areaTouch c pages fuel (o + k) (n - k)
      (r.1, s1.poisoned pa k || r.2)

/-- Bytes of an area zeroed for context `c`. -/
def State.areaZero (s : State) (c : Nat) (pages : List Place) (o n : Nat) : State :=
  s.areaWr c pages (n / 64 + 2) o (List.replicate n 0)

/-! ## Node records (R205) -/

def IndexSlot.rs (x : IndexSlot) : Nat := recordSize x.d x.m

/-- A node as its record holds it. -/
structure Node where
  payload : Dword
  vec : List Byte
  stampX : Nat
  idsX : List Nat
  stampY : Nat
  idsY : List Nat
deriving DecidableEq, Repr

/-- A list of identities at byte `o` of a record: its stamp, and the identities below COUNT. Where another agent has written a
COUNT above M, the first M (R205, R219; DESIGN CHOICE, log 77). -/
def listAt (b : List Byte) (m o : Nat) : Nat × List Nat :=
  let w i := ofBytes ((b.drop (o + 4 * i)).take 4)
  (w 0, (List.range (min (w 1) m)).map fun i => w (2 + i))

/-- The node that the bytes of a record show. -/
def nodeOf (b : List Byte) (d m : Nat) : Node :=
  let x := listAt b m (8 + d)
  let y := listAt b m (16 + d + 4 * m)
  { payload := dw (ofBytes (b.take 8)), vec := (b.drop 8).take d, stampX := x.1, idsX := x.2, stampY := y.1, idsY := y.2 }

/-- Node `i` of an index. -/
def State.node (s : State) (x : IndexSlot) (i : Nat) : Node :=
  nodeOf (s.areaRd x.storage (x.rs / 64 + 2) (i * x.rs) x.rs) x.d x.m

/-- The record of node `i` read: its codes are checked; whether a byte is poisoned. The pseudocode reads VEC, the lists and
PAYLOAD at different moments, and no rule says how much of a record each reading takes: DESIGN CHOICE, log 76: the whole
record each time. -/
def State.touchNode (s : State) (x : IndexSlot) (i : Nat) : State × Bool :=
  s.areaTouch x.owner x.storage (x.rs / 64 + 2) (i * x.rs) x.rs

/-- The four bytes of a list entry. -/
def word4 (n : Nat) : List Byte := toBytes n 4

/-- A list as its record holds it. -/
def listBytes (stamp m : Nat) (ids : List Nat) : List Byte :=
  word4 stamp ++ word4 ids.length ++ (List.range m).flatMap fun i => word4 (ids.getD i 0)

/-- A new record (R214). -/
def newRecord (x : IndexSlot) (payload : Dword) (v : List Byte) (stamp : Nat) (ids : List Nat) : List Byte :=
  let b := toBytes payload.toNat 8 ++ v ++ listBytes stamp x.m ids ++ listBytes 0 x.m []
  b ++ List.replicate (x.rs - b.length) 0

/-! ## Distance and the window (R212, R213) -/

/-- Dist (R212). -/
def distance (metric : Nat) (q v : List Byte) : Int :=
  (q.zip v).foldl (fun a p =>
    let x := p.1.toInt
    let y := p.2.toInt
    if metric = 0 then a + (x - y) * (x - y) else a - x * y) 0

/-- Whether a key comes before another: by distance, then by identity (R212). -/
def keyLt (a b : Int × Nat) : Bool := a.1 < b.1 || (a.1 == b.1 && a.2 < b.2)

/-- A member inserted in key order. -/
def insertCand (e : Cand) : List Cand → List Cand
  | [] => [e]
  | y :: t => if keyLt (e.dist, e.id) (y.dist, y.id) then e :: y :: t else y :: insertCand e t

/-- Add(C, e) (R213): the member with the greatest key goes when there are more than W. -/
def addCand (w : Nat) (l : List Cand) (e : Cand) : List Cand := (insertCand e l).take w

/-- The member to expand marked so. -/
def markExp (id : Nat) (l : List Cand) : List Cand := l.map fun c => if c.id = id then { c with exp := true } else c

/-- ListAt (R213): none stands for RESTART. Of two lists with equal STAMPs, which only another agent's write can leave (R205,
R219), list Y (DESIGN CHOICE, log 77). -/
def Node.at (n : Node) (s : Nat) : Option (List Nat) :=
  if n.stampX ≤ s && (!(n.stampY ≤ s) || n.stampY < n.stampX) then some n.idsX
  else if n.stampY ≤ s then some n.idsY
  else none

/-- The current list, and whether it is list X (R205); list Y where the STAMPs are equal (DESIGN CHOICE, log 77). -/
def Node.current (n : Node) : List Nat × Bool :=
  if n.stampY < n.stampX then (n.idsX, true) else (n.idsY, false)

/-! ## Visited tables (R206) -/

def IndexSlot.bitPlace (x : IndexSlot) (w i : Nat) : Place := areaPlace x.work (w * tableSize x.cap + i / 8)

/-- Visited(j). -/
def State.visited (s : State) (x : IndexSlot) (w j : Nat) : Bool := bit (s.rdNat (x.bitPlace w j) 1) (j % 8)

/-- Visit(j). -/
def State.visit (s : State) (x : IndexSlot) (w j : Nat) : State :=
  let p := x.bitPlace w j
  s.wr p [BitVec.ofNat 8 (s.rdNat p 1 ||| 2 ^ (j % 8))]

/-- The bits of a walk cleared; what is poisoned of the table stays so (log 33). R206 clears the bits that the walk set and R215
the bits of the table; with them goes what another agent has stored there (R219): DESIGN CHOICE, log 75. -/
def State.clearVisited (s : State) (x : IndexSlot) (w : Nat) : State :=
  { s.areaZero x.owner x.work (w * tableSize x.cap) (tableSize x.cap) with poison := s.poison }

/-! ## The search (R213) -/

/-- A walk: its window, V, and whether it met poison. -/
structure Walking where
  s : State
  cands : List Cand
  vis : Nat
  bad : Bool
deriving DecidableEq, Repr

/-- The bit of node `j` read from table `tab`: its code is checked, and poison noted. -/
def Walking.look (a : Walking) (x : IndexSlot) (tab j : Nat) : Walking :=
  let pa := (x.bitPlace tab j).pa
  let s1 := a.s.touch x.owner pa 1
  { a with s := s1, bad := a.bad || s1.poisoned pa 1 }

/-- Node `j` visited and added to the window. -/
def Walking.take (a : Walking) (x : IndexSlot) (q : List Byte) (tab w j : Nat) : Walking :=
  let t := a.s.touchNode x j
  let s1 := t.1.visit x tab j
  { s := s1, vis := a.vis + 1, bad := a.bad || t.2
    cands := addCand w a.cands { dist := distance x.metric q (s1.node x j).vec, id := j, exp := false } }

/-- The start of a search at snapshot `snap`: node 0, when there is one. -/
def State.searchStart (s : State) (x : IndexSlot) (q : List Byte) (tab w snap : Nat) : Walking :=
  let a : Walking := { s := s, cands := [], vis := 0, bad := false }
  if snap = 0 then a else (a.look x tab 0).take x q tab w 0

/-- The neighbours of an expanded node. -/
def Walking.neighbours (a : Walking) (x : IndexSlot) (q : List Byte) (tab w snap : Nat) : List Nat → Walking
  | [] => a
  | j :: t =>
    if j < snap then
      let b := a.look x tab j
      if b.s.visited x tab j then b.neighbours x q tab w snap t else (b.take x q tab w j).neighbours x q tab w snap t
    else a.neighbours x q tab w snap t

/-- What one expansion comes to. -/
inductive Expand where
  | found
  | restart (a : Walking)
  | more (a : Walking)

/-- One node expansion (R213). -/
def Walking.expand (a : Walking) (x : IndexSlot) (q : List Byte) (tab w snap : Nat) : Expand :=
  match a.cands.find? (!·.exp) with
  | none => .found
  | some u =>
    let t := a.s.touchNode x u.id
    let b : Walking := { a with s := t.1, bad := a.bad || t.2 }
    match (t.1.node x u.id).at snap with
    | none => .restart b
    | some ids => .more (({ b with cands := markExp u.id a.cands } : Walking).neighbours x q tab w snap ids)

/-- A search to its end, with fuel for the expansions. R214 says that the search of an insert never restarts; where another
agent has overwritten STAMPs so that it would (R219), it ends with the window found so far (DESIGN CHOICE, log 77). -/
def Walking.search (x : IndexSlot) (q : List Byte) (tab w snap : Nat) : Nat → Walking → Walking
  | 0, a => a
  | fuel + 1, a =>
    match a.expand x q tab w snap with
    | .found => a
    | .restart b => b
    | .more b => Walking.search x q tab w snap fuel b

/-! ## Requests -/

/-- The function of an index instruction's word (R53): 0 IXNEW, 1 IXDEL, 2 STV, 3 LDN, 4 IXSTAT. -/
def IxReq.fn (r : IxReq) : Nat := bits r.word.toNat 10 0

/-- Whether two requests name the same handle (R207): equal KIND, SLOT and GEN, and each DEVICE this device's. -/
def State.sameHandle (s : State) (r q : IxReq) : Bool :=
  let a := r.a.toNat
  let b := q.a.toNat
  s.handleHere a && s.handleHere b && hKind a == hKind b && hSlot a == hSlot b && hGen a == hGen b

/-- Whether an earlier request of the slot that names the same handle stands before request `k` (R207). -/
def State.ixBehind (s : State) (l : List IxReq) (k : Nat) (r : IxReq) : Bool :=
  r.fn ≠ 0 && (l.take k).any fun e => e.fn ≠ 0 && s.sameHandle e r

/-- The check of a handle (R203): the code of the first failure. R78 does not list as stale a handle whose GEN is the current
generation of a slot that no index holds, as one never issued or one after the slot's deletion may be, and R203 has no owner
to compare: DESIGN CHOICE, log 79: −5. -/
def State.indexCheck (s : State) (c h : Nat) : Option Nat :=
  let x := s.index (ixSlot h)
  if !s.handleHere h then some 4
  else if bits h 51 48 = 1 then some 8
  else if bits h 51 48 ≠ 2 || bits h 47 32 ≠ 0 || bits h 19 0 = 0 || bits h 19 0 ≠ x.gen || !x.used then some 5
  else if x.owner ≠ c then some 4
  else none

/-- A request whose token is written: its entry frees (R57, R208). -/
def State.ixDone (s : State) (u k : Nat) (st : Dword) : State :=
  let t := s.slot u
  match t.ixq[k]? with
  | none => s
  | some r => s.setSlot u (({ t with ixq := dropAt t.ixq k } : Slot).writeTok r.tok st)

/-- A request replaced. -/
def State.ixSet (s : State) (u k : Nat) (r : IxReq) : State :=
  s.setSlot u { s.slot u with ixq := setAt (s.slot u).ixq k r }

/-- A turn on request `k` of slot `u`'s IXQ, where it is one that `fn` names, may begin, and is in a phase that `ph`
accepts. -/
def State.indexTurn (s : State) (u k fn : Nat) (ph : IxPhase → Bool) (go : IxReq → State) : State :=
  let l := (s.slot u).ixq
  match l[k]? with
  | none => s
  | some r =>
    if s.working u && r.fn == fn && ph r.phase && r.fault.isNone && !s.ixBehind l k r then go r else s

/-- The phases of a request that its unit has not begun. -/
def IxPhase.fresh : IxPhase → Bool
  | .queued | .withdrawn => true
  | .walking | .pushing | .tokenSaved | .inserting => false

/-! ## IXNEW, IXDEL, IXSTAT (R209 to R211) -/

/-- The pages of an area translated for reads and writes, in order: the places, or the address and whether it is a PAGE
fault (true) or a protection failure. -/
def State.areaPages (s : State) (f c : Nat) (base : Nat) : Nat → List Place × Option (Nat × Bool)
  | 0 => ([], none)
  | n + 1 =>
    match s.areaPages f c base n with
    | (l, some e) => (l, some e)
    | (l, none) =>
      let va := base + 65536 * n
      match s.xlateAgain f c .amo false va with
      | .ok p => if spaceOf p.pa = 0 && devOf p.pa = 0 then (l ++ [p], none) else (l, some (va, false))
      | .prot => (l, some (va, false))
      | .page | .miss => (l, some (va, true))

/-- A request parked on a PAGE fault (R75, R209). -/
def State.ixPark (s : State) (u k va : Nat) (r : IxReq) : State :=
  let s1 := s.ixSet u k { r with fault := some va }
  s1.setSlot u { s1.slot u with duePage := (s1.slot u).duePage ++ [va] }

/-- The lowest-numbered free slot of the index table. -/
def State.freeIndex (s : State) : Option Nat := (List.range 4096).find? fun n => !(s.index n).used

/-- The addresses of the pages of an area. -/
def areaAddrs (base n : Nat) : List Nat := (List.range ((n + 65535) / 65536)).map (base + 65536 * ·)

/-- IXNEW (R209). -/
def State.createIndex (s0 : State) (u k : Nat) (r : IxReq) : State :=
  let f := u / 256
  let c := s0.ctxOf u
  let b := r.blk
  if blkBad b then s0.ixDone u k (failWord 8 0)
  else
    let s := s0.walksTouch c (areaAddrs (pbSbase b) (storageSize b) ++ areaAddrs (pbWbase b) (workSize b))
    let st := s.areaPages f c (pbSbase b) ((storageSize b + 65535) / 65536)
    let wk := s.areaPages f c (pbWbase b) ((workSize b + 65535) / 65536)
    match st.2, wk.2 with
    | some (va, true), _ => s.ixPark u k va r
    | some (_, false), _ => s.ixDone u k (failWord 4 0)
    | none, some (va, true) => s.ixPark u k va r
    | none, some (_, false) => s.ixDone u k (failWord 4 0)
    | none, none =>
      match s.freeIndex with
      | none => s.ixDone u k (failWord 14 0)
      | some n =>
        let g := nextGen (s.index n).gen
        let x : IndexSlot :=
          { gen := g, used := true, owner := c, nw := pbNw b, home := pbHome b, wb := pbWb b, metric := pbMetric b
            m := pbM b, d := pbD b, cap := pbCap b, storage := st.1, work := wk.1, count := 0, walks := [], holds := []
            ins := false, rels := [] }
        ((s.areaZero c wk.1 0 (workSize b)).setIndex n x).ixDone u k (dw (2 * 2 ^ 48 + n * 2 ^ 20 + g))

/-- INDEX_CREATE. -/
def execIndexCreate (u k : Nat) (s : State) : Out := .next (s.indexTurn u k 0 IxPhase.fresh (s.createIndex u k))

/-- Whether a deletion by request `d` ends a request with −6 (R210): an STV or LDN of the index that is queued, or a walk
that has pushed nothing. -/
def State.revokes (s : State) (d r : IxReq) : Bool :=
  s.sameHandle d r && bits r.a.toNat 47 32 == 0 && (match r.phase with
    | .queued | .withdrawn => r.fn == 2 || r.fn == 3
    | .walking => true
    | .pushing => r.push == 0
    | .tokenSaved | .inserting => false)

/-- The requests of a slot that a deletion ends: the slot without them, their tokens written. -/
def State.revokeIn (s : State) (d : IxReq) (t : Slot) : Slot :=
  let gone := t.ixq.filter (s.revokes d)
  gone.foldl (fun t r => t.writeTok r.tok (failWord 6 0)) { t with ixq := t.ixq.filter (!s.revokes d ·) }

/-- IXDEL: it waits for the insert in progress (R210). -/
def State.dropIndex (s : State) (u k : Nat) (r : IxReq) : State :=
  let c := s.ctxOf u
  match s.indexCheck c r.a.toNat with
  | some code => s.ixDone u k (failWord code 0)
  | none =>
    if (s.index (ixSlot r.a.toNat)).ins then s
    else
      let s1 := (s.deleteIndex (ixSlot r.a.toNat)).ixDone u k 0
      { s1 with slots := s1.slots.map fun t =>
          if (s.facet (t.1 / 256)).ctx = some c then (t.1, s.revokeIn r t.2) else t }

/-- INDEX_DELETE. -/
def execIndexDelete (u k : Nat) (s : State) : Out := .next (s.indexTurn u k 1 IxPhase.fresh (s.dropIndex u k))

/-- IXSTAT (R211). -/
def State.statusOf (s : State) (u k : Nat) (r : IxReq) : State :=
  match s.indexCheck (s.ctxOf u) r.a.toNat with
  | some code => s.ixDone u k (failWord code 0)
  | none =>
    let x := s.index (ixSlot r.a.toNat)
    s.ixDone u k (dw (b2n x.ins * 2 ^ 47 + x.walks.length * 2 ^ 40 + x.home * 2 ^ 32 + x.count))

/-- INDEX_STATUS. -/
def execIndexStatus (u k : Nat) (s : State) : Out := .next (s.indexTurn u k 4 IxPhase.fresh (s.statusOf u k))

/-! ## STV (R214) -/

/-- The vector of a request at its translated address: the state after its codes were checked, the bytes, whether one is
poisoned. -/
def State.readVector (s : State) (c : Nat) (p : Place) (d : Nat) : State × List Byte × Bool :=
  let s1 := (List.range 18).foldl (fun s i =>
    if p.pa / 64 * 64 + 64 * i < p.pa + d then s.touch c (p.pa / 64 * 64 + 64 * i) 64 else s) s
  (s1, s1.rdLong 18 p d, (List.range d).any fun i => s1.poisoned (p.pa + i) 1)

/-- The first M of a node's neighbours with a new one (R214): by key, with their distances from the node. An identity at or
above COUNT, which only another agent's write can leave in a list (R219), is measured by the bytes that stand there (DESIGN
CHOICE, log 77). -/
def State.nearest (s : State) (x : IndexSlot) (v : List Byte) (ids : List Nat) (new : Int × Nat) :
    List (Int × Nat) :=
  let e := (ids.map fun i => (distance x.metric v (s.node x i).vec, i)) ++ [new]
  (e.mergeSort fun a b => !keyLt b a).take x.m

/-- A neighbour's list rewritten when the new node is among its nearest: what is written, at which byte (R214). -/
def State.relink (s : State) (x : IndexSlot) (n : Nat) (c : Cand) : Option (Nat × List Byte) :=
  let v := s.node x c.id
  let cur := v.current
  let f := s.nearest x v.vec cur.1 (c.dist, n)
  if f.any (·.2 = n) then
    some (c.id * x.rs + (if cur.2 then 16 + x.d + 4 * x.m else 8 + x.d), listBytes (n + 1) x.m (f.map (·.2)))
  else none

/-- Whether a neighbour's record, or a record that its list names, is poisoned. -/
def State.badLinks (s : State) (x : IndexSlot) (c : Cand) : State × Bool :=
  let t := s.touchNode x c.id
  (t.1.node x c.id).current.1.foldl (fun r i => let q := r.1.touchNode x i; (q.1, r.2 || q.2)) t

/-- An insert begins (R214): the search, every read, and the writes that are to be made: the record, then the neighbours'
lists. One that has met poison writes nothing: the visited table is as it was. -/
def State.insertNode (s : State) (u k i : Nat) (r : IxReq) (v : List Byte) : State :=
  let x := s.index i
  let n := x.count
  let a : Walking := Walking.search x v x.nw x.wb n (n + 1) (s.searchStart x v x.nw x.wb n)
  let near := a.cands.take x.m
  let l := near.foldl (fun q c => let t := q.1.badLinks x c; (t.1, q.2 || t.2)) (a.s, a.bad)
  if l.2 then ({ l.1 with mem := s.mem } : State).ixDone u k (failWord 9 0)
  else
    let s1 := l.1.clearVisited x x.nw
    let w := (n * x.rs, newRecord x r.z v (n + 1) (near.map (·.id))) :: near.filterMap (s1.relink x n)
    (s1.setIndex i { x with ins := true }).ixSet u k { r with phase := .inserting, writes := w }

/-- The writes of an insert that are left performed, and its commit (R214), which keeps the turn of its release (R217). -/
def State.commitInsert (s : State) (r : IxReq) : State :=
  let i := ixSlot r.a.toNat
  let s1 := s.insertWrites i r.writes
  let x := s1.index i
  s1.setIndex i { x with count := x.count + 1, ins := false, rels := Tbl.set x.rels x.count r.rel }

/-- An insert in progress goes on: its next write, or its commit, which gives the token the identity (R214). -/
def State.goInsert (s : State) (u k : Nat) (r : IxReq) : State :=
  let i := ixSlot r.a.toNat
  match r.writes with
  | [] => (s.commitInsert r).ixDone u k (dw (s.index i).count)
  | w :: rest => (s.insertWrites i [w]).ixSet u k { r with writes := rest }

/-- STV at the home unit begins (R203, R214). -/
def State.runInsert (s : State) (u k : Nat) (r : IxReq) : State :=
  let c := s.ctxOf u
  match s.indexCheck c r.a.toNat, r.pv with
  | some code, _ => s.ixDone u k (failWord code 0)
  | none, none => s
  | none, some p =>
    let i := ixSlot r.a.toNat
    let x := s.index i
    if 65536 < r.y.toNat % 65536 + x.d then s.ixDone u k (failWord 8 0)
    else if x.ins || !x.holds.isEmpty then s
    else if x.count = x.cap then s.ixDone u k (failWord 13 0)
    else if s.asleep p.pa then s.rouse c p.pa
    else
      let q := s.readVector c p x.d
      if q.2.2 then q.1.ixDone u k (failWord 9 0) else q.1.insertNode u k i r q.2.1

/-- INSERT. -/
def execInsert (u k : Nat) (s : State) : Out :=
  .next (s.indexTurn u k 2 (fun p => p.fresh || p == .inserting) fun r =>
    if r.phase = .inserting then s.goInsert u k r else s.runInsert u k r)

/-! ## LDN (R215) -/

/-- The limits of an LDN. -/
def ldnBad (x : IndexSlot) (r : IxReq) : Bool :=
  let k := ldnK r.z
  let w := ldnW r.z
  !(1 ≤ k && k ≤ 64) || !(k ≤ w && w ≤ 256) || bits r.z.toNat 63 32 ≠ 0 || 65536 < r.y.toNat % 65536 + x.d

/-- A walk slot given back, after its bits are cleared; a hold of the walk ends (R206, R215). -/
def State.leaveWalk (s : State) (i w : Nat) : State :=
  let s1 := s.clearVisited (s.index i) w
  let x := s1.index i
  s1.setIndex i { x with walks := x.walks.filter (· ≠ w), holds := x.holds.filter (· ≠ w) }

/-- The none record (R215). -/
def noneRec : IxRec := { lo := dw (0xFFFFFFFF * 2 ^ 32 + 0x7FFFFFFF), hi := 0, rel := 0 }

/-- The latest of the releases of the inserts with an identity below `snap`, which an LDN token acquires (R217). -/
def IndexSlot.relBelow (x : IndexSlot) (snap : Nat) : Nat :=
  x.rels.foldl (fun m e => if e.1 < snap then max m e.2 else m) 0

/-- The records of a walk that has answered, and whether a payload is poisoned. -/
def State.answers (s : State) (x : IndexSlot) (cands : List Cand) (k : Nat) : State × List IxRec × Bool :=
  let near := cands.take k
  let t := near.foldl (fun r c => let q := r.1.touchNode x c.id; (q.1, r.2 || q.2)) (s, false)
  let l := near.map fun c =>
    { lo := dw (c.id * 2 ^ 32 + uint c.dist 32), hi := (t.1.node x c.id).payload, rel := Tbl.get 0 x.rels c.id : IxRec }
  (t.1, l ++ List.replicate (k - l.length) noneRec, t.2)

/-- A walk as it stands, into its request: ended by poison, or walking on. -/
def State.ixWalk (u k i : Nat) (r : IxReq) (a : Walking) : State :=
  if a.bad then (a.s.leaveWalk i r.walkSlot).ixDone u k (failWord 9 0)
  else a.s.ixSet u k { r with phase := .walking, cands := a.cands, vis := a.vis }

/-- The acceptance of an LDN: a free walk slot, the query, the snapshot (R215). Which one, where several are free, the rule does
not say: DESIGN CHOICE, log 68: the lowest-numbered. -/
def State.accept (s : State) (u k : Nat) (r : IxReq) : State :=
  let c := s.ctxOf u
  match s.indexCheck c r.a.toNat, r.pv with
  | some code, _ => s.ixDone u k (failWord code 0)
  | none, none => s
  | none, some p =>
    let i := ixSlot r.a.toNat
    let x := s.index i
    if ldnBad x r then s.ixDone u k (failWord 8 0)
    else match (List.range x.nw).find? (!x.walks.contains ·) with
      | none => s
      | some w =>
        if s.asleep p.pa then s.rouse c p.pa
        else
          let q := s.readVector c p x.d
          if q.2.2 then q.1.ixDone u k (failWord 9 0)
          else
            let s1 := q.1.setIndex i { x with walks := insertNat w x.walks }
            let r1 := { r with query := q.2.1, walkSlot := w, snap := x.count, nr := 0 }
            State.ixWalk u k i r1 (s1.searchStart x q.2.1 w (ldnW r.z) x.count)

/-- A restart: the bits cleared, a new snapshot, and from the fifteenth on a hold of the inserts, which ends with its walk
(R215). -/
def State.restartWalk (s : State) (u k i : Nat) (r : IxReq) : State :=
  let s1 := s.clearVisited (s.index i) r.walkSlot
  let x := s1.index i
  let s2 := s1.setIndex i { x with holds := if 15 ≤ r.nr + 1 then insertNat r.walkSlot x.holds else x.holds }
  let r1 := { r with nr := r.nr + 1, snap := x.count }
  State.ixWalk u k i r1 (s2.searchStart x r.query r.walkSlot (ldnW r.z) x.count)

/-- The answer of a walk: its slot freed, its records ready to be pushed, with the releases that they and the token acquire. -/
def State.answerWalk (s : State) (u k i : Nat) (r : IxReq) : State :=
  let x := s.index i
  let q := s.answers x r.cands (ldnK r.z)
  let s1 := q.1.leaveWalk i r.walkSlot
  if q.2.2 then s1.ixDone u k (failWord 9 0)
  else s1.ixSet u k { r with phase := .pushing, push := 0, recs := q.2.1, rel := x.relBelow r.snap }

/-- A walk goes on by one expansion, a restart, or its answer. -/
def State.stepWalk (s : State) (u k : Nat) (r : IxReq) : State :=
  let i := ixSlot r.a.toNat
  let x := s.index i
  let a : Walking := { s := s, cands := r.cands, vis := r.vis, bad := false }
  match a.expand x r.query r.walkSlot (ldnW r.z) r.snap with
  | .found => s.answerWalk u k i r
  | .restart b => if b.bad then State.ixWalk u k i r b else b.s.restartWalk u k i r
  | .more b => State.ixWalk u k i r b

/-- ACCEPTANCE: an LDN is accepted; an accepted one walks on (R215, R219). -/
def execAcceptance (u k : Nat) (s : State) : Out :=
  .next (s.indexTurn u k 3 (fun p => p.fresh || p == .walking) fun r =>
    if r.phase = .walking then s.stepWalk u k r else s.accept u k r)

/-- The token word of an LDN (R215). -/
def ldnToken (r : IxReq) : Dword :=
  dw (r.snap + min r.vis (2 ^ 27 - 1) * 2 ^ 32 + min r.nr 15 * 2 ^ 59)

/-- One record pushed, while IXO holds fewer than 8; after the last the token is written (R215); reading it acquires
the releases of the inserts with an identity below SNAP (R217). -/
def State.pushRec (s : State) (u k : Nat) (r : IxReq) : State :=
  let t := s.slot u
  if 8 ≤ t.ixo.length then s
  else
    let s1 := s.setSlot u { t with ixo := t.ixo ++ [r.recs.getD r.push noneRec] }
    if r.push + 1 < ldnK r.z then s1.ixSet u k { r with push := r.push + 1 }
    else (s1.setSlot u ((s1.slot u).markOlder r.tok r.rel)).ixDone u k (ldnToken r)

/-- IXO_PUSH. -/
def execIxoPush (u k : Nat) (s : State) : Out := .next (s.indexTurn u k 3 (· == .pushing) (s.pushRec u k))

end Sys2Proof.Machine
end

