-- ==== Sys2Proof/Machine/Streams.lean ====
section
/-!
DEFINITION. The stream unit: the eight stream commands, the correlation check and the hold (R189 to R202).
-/

namespace Sys2Proof.Machine

/-! ## Generators (R192) -/

/-- Step of a generator. -/
def lfsrStep (x : BitVec 32) : BitVec 32 := if x.getLsbD 0 then (x >>> 1) ^^^ 0x80200003 else x >>> 1

/-- Draw: `n` bits from bit `i` on, each 1 where the state after its step is below `v`; and the state at the end. -/
def draw (v : Nat) : Nat → Nat → BitVec 32 → Nat × BitVec 32
  | 0, _, g => (0, g)
  | n + 1, i, g =>
    let g1 := lfsrStep g
    let r := draw v n (i + 1) g1
    ((if bits g1.toNat 11 0 < v then 2 ^ i else 0) + r.1, r.2)

/-- Ones of a number below bit `n`. -/
def onesBelow (x n : Nat) : Nat := (List.range n).countP (bit x ·)

/-! ## Fields (R193) -/

def stLen (w : Tile) : Nat := wf w 239 238
def stC (w : Tile) : Bool := wf w 237 237 == 1
def stD (w : Tile) : Nat := wf w 235 232
def stA (w : Tile) : Nat := wf w 231 228
def stB (w : Tile) : Nat := wf w 227 224
def stS (w : Tile) : Nat := wf w 223 220
def stG (w : Tile) : Nat := wf w 219 216
def stImm (w : Tile) : Nat := wf w 31 0

/-- Bits of a length code (R189). -/
def streamLen (n : Nat) : Nat := 64 * 4 ^ n

/-- The opcodes of SSQ (R58). -/
def streamOpc (o : Nat) : Bool := 0x20 ≤ o && o ≤ 0x27

/-- The fields that a command uses, as a mask over LEN, C, D, A, B, S, G, IMM (R193). -/
def stUses (o : Nat) : List Bool :=
  match o with
  | 0x20 => [false, false, false, false, false, false, true, true]
  | 0x21 => [true, false, true, false, false, false, true, true]
  | 0x22 | 0x23 => [true, true, true, true, true, false, false, false]
  | 0x24 => [true, true, true, true, true, true, false, false]
  | 0x25 => [true, false, true, true, false, false, false, false]
  | 0x26 => [true, false, true, true, false, false, true, false]
  | _ => [true, false, false, true, false, false, false, false]

/-- The values of those fields. -/
def stFields (w : Tile) : List Nat :=
  [stLen w, wf w 237 237, stD w, stA w, stB w, stS w, stG w, stImm w]

/-- Step 1 of R195: reserved bits, and fields that the command does not use. -/
def stReserved (c : Cmd) : Bool :=
  let w := c.word
  c.badCommon streamOpc || wf w 236 236 ≠ 0 || wf w 215 32 ≠ 0
    || ((stUses (wOpc w)).zip (stFields w)).any (fun x => !x.1 && x.2 ≠ 0)
    || (wOpc w = 0x21 && bits (stImm w) 31 13 ≠ 0)

/-! ## Operands (R190) -/

/-- The stream register that a window index names. -/
def stReg (c : Cmd) (i : Nat) : Nat := 16 * bits c.swin.toNat 1 0 + i

/-- The window indexes of a command's operands. -/
def stOperands (w : Tile) : List Nat :=
  match wOpc w with
  | 0x22 | 0x23 => [stA w, stB w]
  | 0x24 => [stA w, stB w, stS w]
  | 0x25 | 0x26 | 0x27 => [stA w]
  | _ => []

/-- Step 3 of R195. -/
def Facet.streamLimit (x : Facet) (c : Cmd) : Bool :=
  let w := c.word
  let o := wOpc w
  (o = 0x21 && 4096 < stImm w) || (o = 0x20 && stImm w = 0)
    || ((o = 0x21 || o = 0x26) && x.gen (stG w) = 0)
    || (stOperands w).any fun i =>
      let r := x.sreg (stReg c i)
      !r.valid || (o ≠ 0x26 && r.len ≠ stLen w)

/-- The pairs of operands that the correlation check compares (R197). -/
def stPairs (w : Tile) : List (Nat × Nat) :=
  match wOpc w with
  | 0x22 | 0x23 => [(stA w, stB w)]
  | 0x24 => [(stA w, stB w), (stA w, stS w), (stB w, stS w)]
  | _ => []

/-- XMASK: the pairwise intersections of the masks (R198). One register named twice meets its own mask. -/
def Facet.xmask (x : Facet) (c : Cmd) : BitVec 16 :=
  (stPairs c.word).foldl (fun m p => m ||| ((x.sreg (stReg c p.1)).mask &&& (x.sreg (stReg c p.2)).mask)) 0

/-- Step 4 of R195: the correlation check of R197. -/
def Facet.correlated (x : Facet) (c : Cmd) : Bool := !stC c.word && x.xmask c ≠ 0

/-! ## Effects (R196) -/

/-- A register written by a command: L bits, the bits above them 0, VALID, the length and the mask. -/
def Facet.writeStream (x : Facet) (c : Cmd) (r : Nat) (mask : BitVec 16) : Facet :=
  let y : SReg :=
    { bits := BitVec.ofNat 4096 (r % 2 ^ streamLen (stLen c.word)), valid := true, len := stLen c.word, mask := mask }
  { x with sregs := Tbl.set x.sregs (stReg c (stD c.word)) y }

/-- Ones among the L bits that a command writes. -/
def stOnes (c : Cmd) (r : Nat) : Nat := onesBelow r (streamLen (stLen c.word))

/-- A draw of a command from its generator into its destination. -/
def Facet.drawInto (x : Facet) (c : Cmd) (v : Nat) : Facet × Nat :=
  let d := draw v (streamLen (stLen c.word)) 0 (x.gen (stG c.word))
  ((({ x with gens := Tbl.set x.gens (stG c.word) d.2 } : Facet).writeStream c d.1 (1 <<< stG c.word)), stOnes c d.1)

/-- A bitwise command on its operands' bits. -/
def Facet.combine (x : Facet) (c : Cmd) (r : BitVec 4096) (mask : BitVec 16) : Facet × Nat :=
  (x.writeStream c r.toNat mask, stOnes c r.toNat)

/-- The operand at a window index. -/
def Facet.opd (x : Facet) (c : Cmd) (i : Nat) : SReg := x.sreg (stReg c i)

/-- The effect of a command that passed its checks, and its status (R196). -/
def Facet.streamEffect (x : Facet) (c : Cmd) : Facet × Nat :=
  let w := c.word
  let a := x.opd c (stA w)
  let b := x.opd c (stB w)
  let z := x.opd c (stS w)
  match wOpc w with
  | 0x20 => ({ x with gens := Tbl.set x.gens (stG w) (BitVec.ofNat 32 (stImm w)) }, 0)
  | 0x21 => x.drawInto c (stImm w)
  | 0x22 => x.combine c (a.bits &&& b.bits) (a.mask ||| b.mask)
  | 0x23 => x.combine c (a.bits ||| b.bits) (a.mask ||| b.mask)
  | 0x24 => x.combine c ((z.bits &&& a.bits) ||| (~~~z.bits &&& b.bits)) (a.mask ||| b.mask ||| z.mask)
  | 0x25 => x.combine c (~~~a.bits) a.mask
  | 0x26 =>
    let la := streamLen a.len
    x.drawInto c (onesBelow a.bits.toNat la * (4096 / la))
  | _ => (x, onesBelow a.bits.toNat (streamLen (stLen w)))

/-! ## Correlation faults (R198, R199) -/

/-- The fault word of R198. -/
def faultWordOf (x : Facet) (c : Cmd) : Dword :=
  let w := c.word
  dw ((x.xmask c).toNat * 2 ^ 48 + wOpc w * 2 ^ 32 + (if wOpc w = 0x24 then stReg c (stS w) else 0) * 2 ^ 24
    + stReg c (stB w) * 2 ^ 16 + stReg c (stA w) * 2 ^ 8 + wToken w)

/-- The slot whose command failed the correlation check: the SSQ is held, the fault record written, STREAM_CORR due. No rule
says what becomes of a STREAM_CORR of the slot that is still due, where an ERET has released the hold before it was taken
(R198, R336): DESIGN CHOICE, log 69: the later command replaces it, so that one trap is taken. -/
def Slot.correlate (t : Slot) (x : Facet) (c : Cmd) : Slot :=
  { t with
    hold := true, faultWord := c.word, faultWin := bits c.swin.toNat 1 0
    dueCorr := some (faultWordOf x c) }

/-- What a stream command comes to when it begins: the facet after it, its status word, whether it was correlated
(R195). -/
def Facet.stream (x : Facet) (ctx : Nat) (c : Cmd) : Facet × Dword × Bool :=
  if stReserved c then (x, failWord 1 0, false)
  else if x.sOwner ≠ none && x.sOwner ≠ some ctx then (x, failWord 4 0, false)
  else
    let x1 := { x with sOwner := some ctx }
    if x.streamLimit c then (x1, failWord 8 0, false)
    else if x.correlated c then (x1, failWord 12 0, true)
    else
      let r := x1.streamEffect c
      (r.1, dw r.2, false)

/-- A command performed whole: its token written, an SCNT's count pushed (R194, R200). A bypass command that fails R197 gives
−12 and no trap (R199); whether it also rewrites the fault record no rule says: DESIGN CHOICE, log 74: it does not. -/
def State.streamRun (s : State) (u : Nat) (c : Cmd) (bypass : Bool) : State :=
  let f := u / 256
  let r := (s.facet f).stream (s.ctxOf u) c
  let t := s.slot u
  let t1 := if bypass then { t with bypass := t.bypass.tail } else { t with ssq := t.ssq.tail }
  let t2 := t1.writeTok c.tok r.2.1
  let t3 := if r.2.2 && !bypass then t2.correlate (s.facet f) c else t2
  let t4 := if wOpc c.word = 0x27 && !r.2.1.msb then { t3 with sso := t3.sso ++ [r.2.1] } else t3
  (s.setFacet f r.1).setSlot u t4

/-- Whether the head of an SSQ must wait: an SCNT while SSO holds 8 elements (R200). -/
def Slot.scntWaits (t : Slot) (c : Cmd) : Bool := wOpc c.word == 0x27 && 8 ≤ t.sso.length

/-- A turn of the stream unit on slot `u`: a bypass command first, else the head of an SSQ that is not held. -/
def State.streamTurn (s : State) (u : Nat) (mine : Nat → Bool) : State :=
  let t := s.slot u
  if !s.working u then s
  else match t.bypass with
    | c :: _ => if mine (wOpc c.word) && !t.scntWaits c then s.streamRun u c true else s
    | [] =>
      if t.hold then s
      else match t.ssq with
        | c :: _ => if mine (wOpc c.word) && !t.scntWaits c then s.streamRun u c false else s
        | [] => s

/-- SSEED; a command with an opcode that is not the stream unit's is rejected here (R59). -/
def execSseed (u : Nat) (s : State) : Out := .next (s.streamTurn u fun o => o = 0x20 || !streamOpc o)
def execSgen (u : Nat) (s : State) : Out := .next (s.streamTurn u (· = 0x21))
def execSand (u : Nat) (s : State) : Out := .next (s.streamTurn u (· = 0x22))
def execSor (u : Nat) (s : State) : Out := .next (s.streamTurn u (· = 0x23))
def execSmux (u : Nat) (s : State) : Out := .next (s.streamTurn u (· = 0x24))
def execSnot (u : Nat) (s : State) : Out := .next (s.streamTurn u (· = 0x25))
def execSreg (u : Nat) (s : State) : Out := .next (s.streamTurn u (· = 0x26))
def execScnt (u : Nat) (s : State) : Out := .next (s.streamTurn u (· = 0x27))

end Sys2Proof.Machine
end

