-- ==== Sys2Proof/Machine/Sched.lean ====
section
/-!
DEFINITION. Dispatch, steals, keys, join records, and due traps (R253, R255, R259 to R268, R276 to R279, R336).
-/

namespace Sys2Proof.Machine

/-! ## DISPATCH (R253, R276) -/

/-- A message or record taken by slot `u`: it goes to key acquisition, or starts a task (R253). -/
def State.take (s : State) (u c : Nat) (x : Held) : State :=
  let keys := x.msg.keyList
  if !keys.isEmpty && !x.grant then
    { s with keyReqs := s.keyReqs ++ [{ core := u / 4, ctx := c, held := x, got := [], todo := keys }] }
  else s.startTask u x.msg

/-- The lowest-numbered free low slot of a core. -/
def State.freeLow (s : State) (g : Nat) : Option Nat := [4 * g, 4 * g + 1, 4 * g + 2].find? fun u => !(s.slot u).busy

/-- What core `g` of context `c` dispatches (R276). -/
def State.dispatchAt (s : State) (g c : Nat) : State :=
  let k := s.core g
  match (s.slot (4 * g + 3)).busy, k.high with
  | false, h :: _ => (s.takeBox g c true).take (4 * g + 3) c h
  | _, _ =>
    match s.freeLow g, k.low, k.deque.getLast? with
    | none, _, _ => s
    | some u, h :: _, _ => (s.takeBox g c false).take u c h
    | some u, [], some x => (s.popTop g c).take u c x
    | some _, [], none => s

/-- DISPATCH. -/
def execDispatch (g : Nat) (s : State) : Out :=
  .next (if s.working (4 * g) then s.dispatchAt g (s.ctxOf (4 * g)) else s)

/-! ## Stealing (R255, R277 to R279) -/

/-- The victim that a thief's generator state names among the other cores of its set (R278). -/
def victimOf (set : List Nat) (g : Nat) (state : BitVec 32) : Nat :=
  let i := state.toNat * (coresIn set - 1) / 2 ^ 32
  coreAt set (if i < posOf set g then i else i + 1)

/-- Whether a core sends a steal request: a free low slot, no low work, none outstanding, no wait, another core. -/
def State.mayRequest (s : State) (g : Nat) (set : List Nat) : Bool :=
  let k := s.core g
  (s.freeLow g).isSome && k.low.isEmpty && k.deque.isEmpty && k.stealing.isNone && k.backoff == 0 && 1 < coresIn set

/-- STEAL_REQUEST. -/
def execStealRequest (g : Nat) (s : State) : Out :=
  let set := (s.ctx (s.ctxOf (4 * g))).set
  if s.working (4 * g) && s.mayRequest g set then
    let k := s.core g
    let gen := lfsrStep k.gen
    let v := victimOf set g gen
    let s1 := s.setCore g { k with gen := gen, stealing := some v }
    .next (s1.setCore v { s1.core v with thieves := (s1.core v).thieves ++ [g] })
  else .next s

/-- The reply of a steal on its way to a thief. -/
def State.reply (s : State) (thief : Nat) (x : Option Held) : State :=
  s.setCore thief { s.core thief with reply := some x }

/-- Whether a record is split, and at which `mid`: a range task whose halves are not below 2^GRAIN (R255). -/
def Msg.splitAt (m : Msg) : Option Nat :=
  let h := m.hdr.toNat
  let lo := (m.arg 1).toNat
  let hi := (m.arg 2).toNat
  if hdrRange h && lo < hi && hdrGrain h < 63 && 2 ^ hdrGrain h ≤ (hi - lo) / 2 then some (lo + (hi - lo) / 2) else none

/-- The message with argument `i` replaced. -/
def Msg.setArg (m : Msg) (i : Nat) (x : Nat) : Msg := { m with args := m.args.setIfInBounds (i - 1) (dw x) }

/-- The bottom record handed over whole. -/
def State.giveWhole (s : State) (g thief : Nat) (x : Held) : State := (s.dropBottom g).reply thief (some x)

/-- A split: the victim keeps the lower half, the thief's half follows its increment when the record joins (R255). -/
def State.split (s0 : State) (g c thief mid : Nat) (x : Held) : State :=
  let s := s0.walkTouch c (x.msg.joinRef.toNat / 65536)
  let half : Held := { x with msg := x.msg.setArg 1 mid }
  let keep : Held := { x with msg := x.msg.setArg 2 mid }
  if hdrJoin x.msg.hdr.toNat then
    match s.joinCheck (g / 64) c x.msg.joinRef with
    | .trap _ _ => s.giveWhole g thief x
    | .ok p =>
      let s1 := s.setBottom g c keep
      { s1 with incrs := s1.incrs ++ [{ ctx := c, pa := p.pa, thief := thief, half := half }] }
  else (s0.setBottom g c keep).reply thief (some half)

/-- The victim serves a thief. -/
def State.serve (s : State) (g c thief : Nat) : State :=
  let r := s.bottom g c
  match r.2 with
  | none => r.1.reply thief none
  | some x =>
    match x.msg.splitAt with
    | none => r.1.giveWhole g thief x
    | some mid => r.1.split g c thief mid x

/-- STEAL: the oldest request that core `g` has received is served. -/
def execSteal (g : Nat) (s : State) : Out :=
  let k := s.core g
  match k.thieves with
  | [] => .next s
  | thief :: rest =>
    if s.working (4 * g) then .next ((s.setCore g { k with thieves := rest }).serve g (s.ctxOf (4 * g)) thief)
    else .next s

/-- STEAL_REPLY: a record is pushed on the thief's deque; an empty reply starts the wait, twice as long each time (R279). -/
def execStealReply (g : Nat) (s : State) : Out :=
  let k := s.core g
  match k.reply with
  | none => .next s
  | some (some x) =>
    .next ((s.setCore g { k with reply := none, stealing := none, nextWait := 64 }).pushTop g (s.ctxOf (4 * g)) x)
  | some none =>
    .next (s.setCore g
      { k with reply := none, stealing := none, backoff := k.nextWait, nextWait := min 4096 (2 * k.nextWait) })

/-- STEAL_WAIT_EXPIRY. -/
def execStealWaitExpiry (g : Nat) (s : State) : Out := .next (s.setCore g { s.core g with backoff := 0 })

/-! ## Keys (R259 to R263) -/

/-- The facet that is home to a key of a context (R259). -/
def keyHome (c key : Nat) : Nat := ((key ^^^ (c * 2 ^ 23)) * 0x9E3779B1) % 2 ^ 32 * 2560 / 2 ^ 32

/-- A message of the device for a core. -/
def State.post (s : State) (c g : Nat) (x : Held) : State :=
  { s with msgs := s.msgs ++ [Packet.own (some c) (hdrPri x.msg.hdr.toNat) x (.core g)] }

/-- A record that was granted the key it stood at: it travels on, or back to its core with a grant mark (R261). -/
def State.granted (s : State) (r : KeyReq) : State :=
  match r.todo with
  | [] => s
  | [_] => s.post r.ctx r.core { r.held with grant := true }
  | key :: next :: rest => { s with keyReqs := s.keyReqs ++ [{ r with got := r.got ++ [key], todo := next :: rest }] }

/-- Waiters with one more: high priority stands after the high ones and before the low ones (R261). -/
def addWaiter (l : List KeyReq) (r : KeyReq) : List KeyReq :=
  let hi (x : KeyReq) : Bool := hdrPri x.held.msg.hdr.toNat
  if hi r then l.takeWhile hi ++ r :: l.dropWhile hi else l ++ [r]

/-- A record whose request was refused: it gives up what it holds and returns without a grant mark (R262). -/
def State.refuseKey (s : State) (r : KeyReq) : State :=
  (s.releaseKeys r.ctx r.got).post r.ctx r.core { r.held with grant := false }

/-- A record at the home of its next key: granted, waiting, or refused. -/
def State.requestKey (s : State) (r : KeyReq) (key : Nat) : State :=
  let f := keyHome r.ctx key
  let x := s.facet f
  match x.keys.findIdx? fun e => e.ctx = r.ctx && e.key = key with
  | none =>
    if 512 ≤ x.keys.length then s.refuseKey r
    else
      (s.setFacet f { x with
        keys := x.keys ++ [{ ctx := r.ctx, key := key, holder := some r.core, waiters := [] }] }).granted r
  | some i =>
    match x.keys[i]? with
    | none => s
    | some e =>
      if e.holder.isNone && e.waiters.isEmpty then
        (s.setFacet f { x with keys := setAt x.keys i { e with holder := some r.core } }).granted r
      else s.setFacet f { x with keys := setAt x.keys i { e with waiters := addWaiter e.waiters r } }

/-- KEY_REQUEST. -/
def execKeyRequest (k : Nat) (s : State) : Out :=
  match s.keyReqs[k]? with
  | none => .next s
  | some r =>
    let s1 : State := { s with keyReqs := dropAt s.keyReqs k }
    match r.todo with
    | [] => .next (s1.post r.ctx r.core { r.held with grant := true })
    | key :: _ => .next (s1.requestKey r key)

/-- A key given up at its home: the next waiter receives it, or its entry is free (R260, R261). -/
def State.passKey (s : State) (c key : Nat) : State :=
  let f := keyHome c key
  let x := s.facet f
  match x.keys.findIdx? fun e => e.ctx = c && e.key = key with
  | none => s
  | some i =>
    match x.keys[i]? with
    | none => s
    | some e =>
      match e.waiters with
      | [] => s.setFacet f { x with keys := dropAt x.keys i }
      | w :: rest =>
        (s.setFacet f { x with keys := setAt x.keys i { e with holder := some w.core, waiters := rest } }).granted w

/-- KEY_RELEASE. -/
def execKeyRelease (k : Nat) (s : State) : Out :=
  match s.keyRels[k]? with
  | none => .next s
  | some r => .next (({ s with keyRels := dropAt s.keyRels k } : State).passKey r.ctx r.key)

/-! ## Join records (R264 to R267) -/

/-- The counter word of a record. -/
def State.joinWord (s : State) (pa : Nat) : Nat := s.rdNat { pa := pa, enc := none } 8

/-- A counter word written for context `c`. -/
def State.setJoinWord (s : State) (c pa w : Nat) : State := s.write c { pa := pa, enc := none } (toBytes w 8)

/-- The continuation parked in a record. -/
def State.parkedMsg (s : State) (pa : Nat) : Msg := Msg.ofBytes (s.rdLong 3 { pa := pa + 8, enc := none } 64)

/-- The parked continuation enters the owner's mailbox; that of another device's record goes with that device (log 7). -/
def State.release (s0 : State) (c pa : Nat) : State :=
  let s := s0.touch c (pa + 8) 64
  let m := s.parkedMsg pa
  let s1 := s.setCtx c { s.ctx c with parkedJoins := (s.ctx c).parkedJoins.filter (· ≠ pa) }
  if devOf pa = 0 then s1.enterBox (localCore pa) c m
  else { s1 with fabricOut := s1.fabricOut ++
      [Packet.own (some c) (hdrPri m.hdr.toNat) { msg := m, grant := false } (.far (devOf pa) (dw (pa % 2 ^ 52)))] }

/-- An arrival at a record (R267). The rules do not say what a poisoned counter word or continuation does here, nor at an
increment or a Park: DESIGN CHOICE, log 84: the bytes count as they stand, and the write of the word leaves it clean (R85). -/
def State.joinArrive (s0 : State) (c pa : Nat) : State :=
  let s := s0.touch c pa 8
  let w := s.joinWord pa
  if joinCount w = 0 then
    let s1 := s.setJoinWord c pa (setBits w 36 36 1)
    if devOf pa = 0 then s1.logEvent (.facet (localCore pa / 64)) 9 (some c) 1 pa true else s1
  else if joinCount w = 1 && joinParked w then
    (s.setJoinWord c pa (setBits (setBits w 31 0 0) 35 35 0)).release c pa
  else s.setJoinWord c pa (setBits w 31 0 (joinCount w - 1))

/-- Whether an arrival waits: behind an earlier one of its slot at the record (R266), while an increment is on its way to
the record, whose own half the count does not hold yet (R255, R305; log 62), for a route (R314), and, when it came from
a peer, for a context that is switched out (log 57). -/
def State.arrivalWaits (s : State) (k : Nat) (r : Arrival) : Bool :=
  (s.arrivals.take k).any (fun e => e.src = r.src && e.pa = r.pa) || s.incrs.any (·.pa = r.pa)
    || (s.unrouted (devOf r.pa) && !s.cutOff r.pa) || (devOf r.pa == 0 && (s.ctx r.ctx).st == .switchedOut)

/-- JOIN_ARRIVAL; one toward a device that was declared unreachable is lost (R316, R318). -/
def execJoinArrival (k : Nat) (s : State) : Out :=
  match s.arrivals[k]? with
  | none => .next s
  | some r =>
    let s1 : State := { s with arrivals := dropAt s.arrivals k }
    if s.arrivalWaits k r then .next s
    else if s.cutOff r.pa then .next (s1.lose (some r.ctx))
    else .next (s1.joinArrive r.ctx r.pa)

/-- An increment at a record (R267; log 84). -/
def State.joinIncrement (s0 : State) (c pa : Nat) : State :=
  let s := s0.touch c pa 8
  let w := s.joinWord pa
  if joinCount w = 2 ^ 32 - 1 then s.setJoinWord c pa (setBits w 36 36 1)
  else s.setJoinWord c pa (setBits w 31 0 (joinCount w + 1))

/-- INCREMENT: the thief's half goes to the thief once it has performed (R255). One toward a device that was declared
unreachable is lost as an arrival there is, and its half goes to the thief all the same (R318, log 62). R316 does not list
increments among what crosses the fabric: DEDUCED, log 85: one for a record of another device goes there, as the arrivals of
R266 do. -/
def execIncrement (k : Nat) (s : State) : Out :=
  match s.incrs[k]? with
  | none => .next s
  | some r =>
    let s1 : State := { s with incrs := dropAt s.incrs k }
    if s.cutOff r.pa then .next ((s1.lose (some r.ctx)).reply r.thief (some r.half))
    else if s.unrouted (devOf r.pa) then .next s
    else .next ((s1.joinIncrement r.ctx r.pa).reply r.thief (some r.half))

/-! ## TRAP_ENTRY (R283, R284, R336) -/

/-- TRAP_ENTRY: the first due trap of a slot is taken at its task-level boundary. -/
def execTrapEntry (u : Nat) (s : State) : Out :=
  if s.working u then .next ((s.takeDue u).getD s) else .next s

end Sys2Proof.Machine
end

