-- ==== Sys2Proof/Machine/Walks.lean ====
section
/-!
DEFINITION. Stores performing at their owners, the walkers, invalidations, and CODEPUB at the device (R73 to R77, R222,
R224, R237, R291).
-/

namespace Sys2Proof.Machine

/-! ## PERFORM (R222, R224) -/

/-- Whether an entry is a lane of the scatter of a turn at the owner of a place: an owner performs the lanes of one scatter
in ascending order (R170). -/
def SEntry.laneAt (seq pa : Nat) : SEntry → Bool
  | .store n _ (some p) _ .lane _ => n == seq && sameOwner p.pa pa
  | .store _ _ _ _ _ _ | .fence _ _ _ | .fenceX _ => false

/-- Whether store `k` of a slot waits: an earlier store that overlaps it, or may, since it awaits translation; a parked one
of its 64 KiB range; a fence that stands after an earlier store; an arrival on its way to the same word; for a lane, a
lower one of its scatter at its owner; for a release, any earlier store (R170, R224, R226, R232, R237, R266). -/
def State.performHeld (s : State) (u k seq va pa n : Nat) (kind : StoreKind) (sup : Bool) : Bool :=
  let t := s.slot u
  let before := (t.ahead sup).takeWhile (·.seq ≠ seq)
  (t.sbuf.take k).any (·.mayOverlap pa n)
    || (kind == .lane && (t.sbuf.take k).any (·.laneAt seq pa))
    || (kind != .lane && t.replay.any fun r => r.seq < seq && r.va / 65536 == va / 65536)
    || fenceHeld kindSs (u / 4) [] before || s.arrivalAhead u pa n
    || (kind == .release && (!t.replay.isEmpty || before.any (·.isStore)))

/-- A store that awaits translation looks again: what its walk left in the cache, or another walk (R73, R75). -/
def State.translateStore (s : State) (u k seq va : Nat) (d : List Byte) (kind : StoreKind) (sup : Bool) : State :=
  let t := s.slot u
  match s.xlate (u / 256) (s.ctxOf u) .store true va with
  | .ok p =>
    if s.stationaryAt p.pa then s.setSlot u (t.park k seq va d kind causeStationary)
    else s.setSlot u ({ t with sbuf := setAt t.sbuf k (.store seq va (some p) d kind sup) }.dropEarly (·.meets p.pa d.length))
  | .prot => s.setSlot u (t.park k seq va d kind causeProt)
  | .page => s.setSlot u (t.park k seq va d kind causePage)
  | .miss => s.missOn (u / 256) (s.ctxOf u) va

/-- A store performs at its owner. No macro turns stationary while a translated store is on its way to it, since the TLW or
the placement waits (log 31); the store would park there, also when its task has ended (R110, R132, R176). A lane toward a
device that was declared unreachable performs or is lost (R318, log 20). -/
def State.performAt (s : State) (u k seq va : Nat) (p : Place) (d : List Byte) (kind : StoreKind) : State :=
  let t := s.slot u
  let gone : Slot := ({ t with sbuf := dropAt t.sbuf k }.tidy).performed p.pa d.length
  if s.stationaryAt p.pa && kind != .lane then s.setSlot u (t.park k seq va d kind causeStationary)
  else if s.cutOff p.pa then
    (if Config.freePick s.tick 1 % 2 = 1 then s.write (s.ctxOf u) p d else s).setSlot u gone
  else if s.asleep p.pa then s.rouse (s.ctxOf u) p.pa
  else (s.write (s.ctxOf u) p d).setSlot u gone

/-- PERFORM. -/
def execPerform (u k : Nat) (s : State) : Out :=
  match (s.slot u).sbuf[k]? with
  | some (.store seq va (some p) d kind sup) =>
    .next (if s.performHeld u k seq va p.pa d.length kind sup then s else s.performAt u k seq va p d kind)
  | some (.store seq va none d kind sup) => .next (s.translateStore u k seq va d kind sup)
  | some (.fence _ _ _) | some (.fenceX _) | none => .next s

/-! ## WALK and WALK_RESULT (R73 to R75) -/

/-- WALK: the oldest queued walk starts when fewer than 64 run, and reads the table (R73, R76). -/
def execWalk (w : Nat) (s : State) : Out :=
  let x := s.walker w
  match x.queued with
  | [] => .next s
  | k :: rest =>
    if 64 ≤ x.running.length then .next s
    else .next ((s.walkTouch k.ctx k.page).setWalker w
      { running := x.running ++ [{ k with result := s.walkTable k.ctx k.page }], queued := rest })

/-- An untranslated store that a finished walk answers, by its position in the list. -/
def SEntry.awaits (page : Nat) : SEntry → Bool
  | .store _ va none _ _ _ => va / 65536 == page
  | _ => false

/-- The stores of slot `u` that waited for a page look at a leaf, in order, with fuel for their number. -/
def State.wakeStores (s : State) (u : Nat) (page : Nat) : Nat → State
  | 0 => s
  | fuel + 1 =>
    match (s.slot u).sbuf.findIdx? (SEntry.awaits page) with
    | none => s
    | some k =>
      match (s.slot u).sbuf[k]? with
      | some (.store seq va none d kind sup) => (s.translateStore u k seq va d kind sup).wakeStores u page fuel
      | _ => s

/-- The stores of a slot that waited for a page whose walk faulted, parked (R75). -/
def Slot.parkStores (t : Slot) (page : Nat) : Nat → Slot
  | 0 => t
  | fuel + 1 =>
    match t.sbuf.findIdx? (SEntry.awaits page) with
    | none => t
    | some k =>
      match t.sbuf[k]? with
      | some (.store seq va none d kind _) => (t.park k seq va d kind causePage).parkStores page fuel
      | _ => t

/-- The commands of a queue that wait for a page, parked on its PAGE fault (R75). -/
def parkCmds (l : List Cmd) (c page : Nat) : List Cmd :=
  l.map fun x =>
    match x.wait with
    | some (va, d) => if d = c && va / 65536 = page then { x with phase := .parked, fault := some va, wait := none } else x
    | none => x

/-- The addresses of the commands that a fault parks. -/
def parkedAt (l : List Cmd) (c page : Nat) : List Nat :=
  l.filterMap fun x =>
    match x.wait with
    | some (va, d) => if d = c && va / 65536 = page then some va else none
    | none => none

/-- The commands of a queue that wait for a page go on. -/
def wakeCmds (l : List Cmd) (c page : Nat) : List Cmd :=
  l.map fun x =>
    match x.wait with
    | some (va, d) => if d = c && va / 65536 = page then { x with wait := none } else x
    | none => x

/-- What a walk that ends in a fault does to a slot of a facet that asked: its instruction, its stores and its commands
that wait for the page (R73, R75). -/
def Slot.walkFault (t : Slot) (own c page : Nat) : Slot :=
  let t1 := if own = c then
      { t with xf := if t.wait = some page then some { page := page, cause := causePage } else t.xf
               wait := if t.wait = some page then none else t.wait }.parkStores page t.sbuf.length
    else t
  { t1 with
    cpq := parkCmds t1.cpq c page, mxq := parkCmds t1.mxq c page
    duePage := t1.duePage ++ parkedAt t1.cpq c page ++ parkedAt t1.mxq c page }

/-- What a walk that ends in a leaf, or whose result is discarded, does to a slot: its waiters look again. -/
def Slot.walkWake (t : Slot) (c page : Nat) : Slot :=
  { t with
    wait := if t.wait = some page then none else t.wait
    cpq := wakeCmds t.cpq c page, mxq := wakeCmds t.mxq c page }

/-- The slots of a facet changed. -/
def State.facetSlots (s : State) (f : Nat) (h : Slot → Slot) : State :=
  { s with slots := s.slots.map fun t => if t.1 / 256 = f then (t.1, h t.2) else t }

/-- The stores of a facet that waited for a page, translated. -/
def State.wakeFacet (s : State) (f page : Nat) : State :=
  (s.slots.filter (·.1 / 256 = f)).foldl (fun s t => s.wakeStores t.1 page t.2.sbuf.length) s

/-- The result of a walk reaches a facet that asked: its miss entry frees, its cache is filled, or the fault is
delivered, also to an access that joined the walk after it had read the table (R73, log 51). -/
def State.walkReaches (s : State) (k : Walk) (f : Nat) : State :=
  let x := s.facet f
  let x1 := { x with miss := x.miss.filter (· ≠ { ctx := k.ctx, page := k.page }) }
  if k.drop then (s.setFacet f x1).facetSlots f (·.walkWake k.ctx k.page)
  else match k.result with
    | .fault => (s.setFacet f x1).facetSlots f (·.walkFault (x.ctx.getD 512) k.ctx k.page)
    | .leaf big leaf =>
      let e : TlbEntry :=
        { ctx := k.ctx, big := big, page := k.page * 65536 / (if big then 2 ^ 21 else 2 ^ 16), leaf := leaf }
      let s1 := (s.setFacet f (x1.fill s.tick e)).facetSlots f (·.walkWake k.ctx k.page)
      if x.ctx = some k.ctx then s1.wakeFacet f k.page else s1

/-- WALK_RESULT. -/
def execWalkResult (w k : Nat) (s : State) : Out :=
  let x := s.walker w
  match x.running[k]? with
  | none => .next s
  | some r =>
    .next (r.facets.foldl (fun s f => s.walkReaches r f) (s.setWalker w { x with running := dropAt x.running k }))

/-! ## Invalidations (R77) -/

/-- XINV. -/
def execXinv (v : Dword) (s : State) : Out := .next (s.writeXinv v)

/-- Whether a cache entry is of the page that an invalidation names: an entry whose range meets the page's. -/
def TlbEntry.named (e : TlbEntry) (v : Dword) : Bool :=
  let n := if bit v.toNat 14 then 2 ^ 21 else 2 ^ 16
  let m := if e.big then 2 ^ 21 else 2 ^ 16
  e.ctx == bits v.toNat 8 0
    && (bit v.toNat 15 || meets (e.page * m) m (bits v.toNat 55 16 * 65536 / n * n) n)

/-- Whether a slot still has an access that was translated through the page and has not performed: a store, a delivery,
an index request with its vector. -/
def Slot.oldAccess (t : Slot) (own : Nat) (v : Dword) : Bool :=
  t.sbuf.any (fun e => match e with
    | .store _ va (some _) _ _ _ => xinvCovers v own va
    | _ => false)
    || t.cpq.any (fun c => c.out.any fun d => xinvCovers v d.ctx d.va)
    || t.mxq.any (fun c => c.out.any fun d => xinvCovers v d.ctx d.va)
    || t.ixq.any fun r => (r.phase == .queued || r.phase == .withdrawn) && r.pv.isSome && xinvCovers v own r.y.toNat

/-- Whether an invalidation must still wait: a walk to be discarded that runs, an access through the old mapping. -/
def State.xinvWaits (s : State) (v : Dword) : Bool :=
  let c := bits v.toNat 8 0
  s.walkers.any (fun w => w.2.running.any fun k => k.drop && xinvPage v k.ctx k.page)
    || s.slots.any (fun t => t.2.oldAccess (s.ctxOf t.1) v)
    || s.arrivals.any (·.ctx = c) || s.incrs.any (·.ctx = c)
    || s.bulks.any fun b => b.out.any fun x => xinvCovers v b.owner (b.base + b.off + x.pos)

/-- INVALIDATION_DONE: the oldest invalidation completes; BUSY returns to 0 with the last (R77). -/
def execInvalidationDone (s : State) : Out :=
  match s.xinv with
  | [] => .next s
  | v :: rest =>
    if s.xinvWaits v then .next s
    else .next
      { s with
        xinv := rest
        facets := s.facets.map fun x => (x.1, { x.2 with tlb := x.2.tlb.filter (!·.named v) })
        slots := s.slots.map fun t => (t.1, t.2.dropEarly fun e => xinvCovers v (s.ctxOf t.1) e.va) }

/-! ## CODEPUB at the device (R291) -/

/-- The physical pieces of a range translated for fetch, or what stopped it: the address and whether it is a PAGE
fault. -/
def State.codePieces (s : State) (f c : Nat) : List (Nat × Nat) → List (Nat × Nat) × Option (Nat × Bool)
  | [] => ([], none)
  | (va, n) :: t =>
    match s.xlateAgain f c .fetch true va with
    | .ok p =>
      let r := s.codePieces f c t
      ((p.pa, n) :: r.1, r.2)
    | .prot => ([], some (va, false))
    | .page | .miss => ([], some (va, true))

/-- Every instruction cache without the lines that hold a byte of the pieces. -/
def State.dropLines (s : State) (l : List (Nat × Nat)) : State :=
  { s with cores := s.cores.map fun k =>
      (k.1, { k.2 with icache := k.2.icache.filter fun x => !l.any fun p => meets p.1 p.2 x.pa 64 }) }

/-- A CODEPUB request that is done: its token receives its status. -/
def State.codeDone (s : State) (k : Nat) (r : CodeReq) (st : Dword) : State :=
  let s1 : State := { s with codeReqs := dropAt s.codeReqs k }
  s1.setSlot r.slot ((s1.slot r.slot).writeTok r.tok st)

/-- A CODEPUB request performed, or parked on PAGE. -/
def State.codeRun (s0 : State) (k : Nat) (r : CodeReq) : State :=
  if r.n = 0 then s0.codeDone k r 0
  else if 2 ^ 32 < r.n then s0.codeDone k r (failWord 8 0)
  else
    let s := s0.walksTouch r.ctx ((pagePieces r.va r.n).map (·.1))
    let q := s.codePieces (r.slot / 256) r.ctx (pagePieces r.va r.n)
    match q.2 with
    | some (_, false) => s.codeDone k r (failWord 4 0)
    | some (va, true) =>
      let s1 : State := { s with codeReqs := setAt s.codeReqs k { r with parked := true } }
      s1.setSlot r.slot { s1.slot r.slot with duePage := (s1.slot r.slot).duePage ++ [va] }
    | none => (s.dropLines q.1).codeDone k r (dw r.n)

/-- CODEPUB_REQUEST. -/
def execCodepubRequest (k : Nat) (s : State) : Out :=
  match s.codeReqs[k]? with
  | none => .next s
  | some r =>
    .next (if r.parked || (s.ctx r.ctx).st ≠ .running || (s.slot r.slot).codeHeld (r.slot / 4) r.seq (fun _ => true) then s
      else s.codeRun k r)

end Sys2Proof.Machine
end

