-- ==== Sys2Proof/Machine/Contexts.lean ====
section
/-!
DEFINITION. Pre-emption, switch-out, placement, slices, kills (R102, R187, R202, R220, R239, R270, R274, R275, R281,
R296 to R302, R332, R335).
-/

namespace Sys2Proof.Machine

/-- PREEMPT (R281, R296). -/
def execPreempt (c : Nat) (s : State) : Out := .next (s.requestPreempt c)

/-- KILL: a write of CTL.KILL (R302). -/
def execKill (c : Nat) (s : State) : Out := .next (s.kill c 0)

/-- FREE (R296, R325). -/
def execFree (c : Nat) (s : State) : Out := .next (s.freeContext c)

/-! ## Work and slices (R275) -/

/-- Whether a core holds messages or records. -/
def Core.holds (k : Core) : Bool :=
  !k.low.isEmpty || !k.high.isEmpty || !k.lowRing.isEmpty || !k.highRing.isEmpty || !k.deque.isEmpty || !k.dqRing.isEmpty

/-- Whether a slot holds commands or requests of its engines. -/
def Slot.commands (t : Slot) : Bool :=
  !t.cpq.isEmpty || !t.mxq.isEmpty || !t.ssq.isEmpty || !t.bypass.isEmpty || !t.ixq.isEmpty

/-- Whether a task of context `c` runs on its facets. -/
def State.tasksRun (s : State) (c : Nat) : Bool :=
  s.slots.any fun t => (s.facet (t.1 / 256)).ctx = some c && t.2.busy

/-- Whether the cores and slots of a running context hold work. -/
def State.localWork (s : State) (c : Nat) : Bool :=
  s.cores.any (fun k => (s.facet (k.1 / 64)).ctx = some c && k.2.holds)
    || s.slots.any (fun t => (s.facet (t.1 / 256)).ctx = some c && t.2.commands)

/-- Whether the continuation of a join record still waits there: its PARKED bit is 1 in the local memory, or in its saved
image, which a context with MEMSAVE = 0 does not have (R267, R275, R300). -/
def State.parkedLive (s : State) (c pa : Nat) : Bool :=
  match (s.ctx c).st with
  | .running => joinParked (s.joinWord pa)
  | .switchedOut =>
    let g := localCore pa
    (s.ctx c).memsave &&
      (match s.xlateNow (g / 64) c .load (s.facetRec c (g / 64) + 0x210000 + 16384 * (g % 64) + pa % 16384) with
        | some p => joinParked (s.rdNat p 8)
        | none => true)
  | .free | .killed => false

/-- Whether a message on its way is work of context `c`: a continuation, or a record that returns from key acquisition
(R261, R275). -/
def Packet.isWork (p : Packet) (c : Nat) : Bool :=
  p.ctx == some c && (p.held.grant || hdrCont p.held.msg.hdr.toNat
    || (p.src.isNone && p.away.isNone && !p.held.msg.keyList.isEmpty))

/-- Whether a context has continuations in join records or on their way, or records in key acquisition or among a key's
waiters. -/
def State.awayWork (s : State) (c : Nat) : Bool :=
  (s.ctx c).parkedJoins.any (s.parkedLive c) || s.msgs.any (·.isWork c) || s.keyReqs.any (·.ctx = c)
    || s.facets.any fun x => x.2.keys.any fun e => e.ctx = c && !e.waiters.isEmpty

/-- Whether the saved state of a context holds work: messages, deque records, commands. -/
def State.savedWork (s : State) (c : Nat) : Bool :=
  (s.ctx c).keptCores.any (fun k => (s.savedCore c k.1).holds) || (s.ctx c).keptSlots.any (·.2.commands)

/-- Whether a queue with VALID 1 names a context. -/
def State.queueNamed (s : State) (c : Nat) : Bool := s.queues.any fun q => q.2.valid && q.2.ctx = c

/-- An eligible context (R275). The list of work is closed: a task that ran at the save is none of it; such a context is
placed when its facets are free (log 22). -/
def State.eligible (s : State) (c : Nat) : Bool :=
  let x := s.ctx c
  x.st == .switchedOut && s.queueNamed c && (s.savedWork c || s.awayWork c)

/-- An idle context (R275). -/
def State.idle (s : State) (c : Nat) : Bool :=
  (s.ctx c).st == .running && !s.tasksRun c && !s.localWork c && !s.awayWork c

/-- The contexts in ascending order after `c`, wrapping past 511. -/
def after (c : Nat) : List Nat := (List.range 511).map fun i => (c + 1 + i) % 512

/-- The running contexts whose sets meet a facet set, pre-empted. -/
def State.preemptMeeting (s : State) (set : List Nat) : State :=
  { s with ctxs := s.ctxs.map fun x =>
      if x.2.st = .running && overlaps x.2.set set then (x.1, { x.2 with halt := true }) else x }

/-- The context that the expiry of a running context's slice takes: the first eligible one after it whose set meets its own
(R275). -/
def State.nextAfter (s : State) (c : Nat) : Option Nat :=
  (after c).find? fun d => s.eligible d && overlaps (s.facetSet d) (s.ctx c).set

/-- Whether a context other than `d` that an expiry took and that is not yet placed has a set that meets the set of `d`. -/
def State.promised (s : State) (d : Nat) : Bool :=
  s.ctxs.any fun e => e.1 ≠ d && e.2.chosen && s.eligible e.1 && overlaps (s.facetSet e.1) (s.facetSet d)

/-- SLICE_EXPIRY: the slice of a running context has passed, or it is idle; the next eligible context is chosen (R275). Where an
earlier expiry has chosen a context for some of the same facets, this one waits until that context is placed: the rule does
not say what two such expiries do (DESIGN CHOICE, log 22). -/
def execSliceExpiry (c : Nat) (s : State) : Out :=
  let x := s.ctx c
  if x.st ≠ .running || x.halt || (x.slice = 0 && !s.idle c) then .next s
  else match s.nextAfter c with
    | none => .next s
    | some d =>
      if s.promised d then .next s
      else
        let s1 := s.preemptMeeting (s.facetSet d)
        .next (s1.setCtx d { s1.ctx d with chosen := true })

/-! ## Settling (R102, R187, R202, R220, R239, R281) -/

/-- A store that awaits translation looks at the table at once: it has its place, or parks while there is room (R75). -/
def State.settleXlate (s0 : State) (u c k seq va : Nat) (d : List Byte) (kind : StoreKind) (sup : Bool) : State :=
  let s := s0.walkTouch c (va / 65536)
  let t := s.slot u
  match s.xlateAgain (u / 256) c .store true va with
  | .ok p =>
    if s.stationaryAt p.pa then s.setSlot u (t.park k seq va d kind causeStationary)
    else s.setSlot u { t with sbuf := setAt t.sbuf k (.store seq va (some p) d kind sup) }
  | .prot => s.setSlot u (t.park k seq va d kind causeProt)
  | .page | .miss => s.setSlot u (t.park k seq va d kind causePage)

/-- The stores of slot `u` that await translation, by their turns, looked up in order. -/
def State.settleLooks (s : State) (u c : Nat) : List Nat → State
  | [] => s
  | n :: rest =>
    match (s.slot u).sbuf.findIdx? fun e => e.untranslated && e.seq == n with
    | none => s.settleLooks u c rest
    | some k =>
      match (s.slot u).sbuf[k]? with
      | some (.store seq va none d kind sup) => (s.settleXlate u c k seq va d kind sup).settleLooks u c rest
      | _ => s.settleLooks u c rest

/-- Whether entry `k` of the stores on their way can perform now, or park. -/
def State.settles (s : State) (u k : Nat) : SEntry → Bool
  | .store seq va (some p) d kind sup =>
    !s.performHeld u k seq va p.pa d.length kind sup
      && !(s.stationaryAt p.pa && kind != .lane && (s.slot u).replayFull)
      && (s.cutOff p.pa || !s.unrouted (devOf p.pa))
  | .store _ _ none _ _ _ | .fence _ _ _ | .fenceX _ => false

/-- The stores of slot `u` perform one after another, as far as nothing holds them back, with fuel for their number; what a
parked store, a release or a FENCE holds back stays, with the fences (R239). -/
def State.settlePerform (s : State) (u c : Nat) : Nat → State
  | 0 => s
  | fuel + 1 =>
    match (s.slot u).sbuf.zipIdx.find? fun x => s.settles u x.2 x.1 with
    | some (.store seq va (some p) d kind _, k) =>
      ((s.wakeNow c p.pa).performAt u k seq va p d kind).settlePerform u c fuel
    | _ => s

/-- Every store of slot `u` that has left it and is not parked or held back performs (R239). -/
def State.settleStores (s : State) (u c : Nat) : State :=
  let l := (s.slot u).sbuf
  (s.settleLooks u c ((l.filter (·.untranslated)).map (·.seq))).settlePerform u c l.length

/-- Whether a delivery on its way can reach its owner. -/
def State.moves (s : State) (d : Deliv) : Bool := s.cutOff d.place.pa || !s.unrouted (devOf d.place.pa)

/-- The oldest outstanding delivery of a queue that can reach its owner performs (R102). -/
def State.settleDeliv (s : State) (u : Nat) (w : Which) : State :=
  match ((s.slot u).queue w).findIdx? fun c => c.out.any s.moves with
  | none => s
  | some e =>
    match ((s.slot u).queue w)[e]? with
    | none => s
    | some c =>
      match c.out.zipIdx.find? fun x => s.moves x.1 with
      | none => s
      | some (d, k) => (s.wakeNow d.ctx d.place.pa).deliverOne u e k w

/-- Every delivery that slot `u`'s queue has sent performs. -/
def State.settleQueue (s : State) (u : Nat) (w : Which) : Nat → State
  | 0 => s
  | fuel + 1 => (s.settleDeliv u w).settleQueue u w fuel

/-- Deliveries outstanding in a queue. -/
def delivs (l : List Cmd) : Nat := (l.map (·.out.length)).sum

/-- The macros that the begun TLWs of a slot hold. -/
def Slot.loading (t : Slot) : List Nat := t.mxq.filterMap fun c => if c.phase = .finished then none else c.loads

/-- A started TLW, TMM, TMMB or TDOT is abandoned and starts again whole, one that is parked once its page is walked again;
no command waits on a walk (R74, R187). -/
def Cmd.settled (c : Cmd) : Cmd :=
  let c1 := { c with wait := none, start := none }
  let again : Phase := if c.phase = .started then .queued else c.phase
  if c.phase = .finished then c1
  else match wOpc c.word with
    | 0x10 => { c1 with phase := again, rpos := if c.pos = 0 then 0 else 1 }
    | 0x12 | 0x13 | 0x16 => { c1 with phase := again, pos := 0, todo := [], status := 0 }
    | _ => c1

/-- A request that its home unit has not begun is withdrawn (R220). -/
def IxReq.settled (r : IxReq) : IxReq :=
  if r.phase = .queued && (r.fn = 2 || r.fn = 3) then { r with phase := .withdrawn } else r

/-- An insert of slot `u` that has begun completes, and its token value is saved (R220). -/
def State.settleInsert (s : State) (u k : Nat) : State :=
  match (s.slot u).ixq[k]? with
  | some r =>
    if r.phase = .inserting then
      (s.commitInsert r).ixSet u k
        { r with phase := .tokenSaved, saved := dw (s.index (ixSlot r.a.toNat)).count, writes := [] }
    else s
  | none => s

/-- A request of slot `u` that completes at the save, `s1` the state in which it has: its token's value is kept with it, and
the token stays pending until the restore (R220). -/
def State.keepToken (s s1 : State) (u k : Nat) (r : IxReq) : State :=
  let t := s1.slot u
  if (s.slot u).ixq.length ≤ t.ixq.length then s1
  else
    let t1 := (t.setPhys r.tok ((s.slot u).phys r.tok)).addPend r.tok
    s1.setSlot u { t1 with
      ixq := t.ixq.take k ++ { r with phase := .tokenSaved, saved := t.phys r.tok } :: t.ixq.drop k }

/-- An IXNEW, IXDEL or IXSTAT of slot `u` that was sent completes, or parks on PAGE (R207, R209 to R211, R220). One that
follows a request of its handle which has not completed goes back with that one (R207; log 67). -/
def State.settleRequest (s : State) (u k : Nat) : State :=
  match (s.slot u).ixq[k]? with
  | none => s
  | some r =>
    let before := ((s.slot u).ixq.take k).filter (·.phase ≠ .tokenSaved)
    if !r.phase.fresh || r.fault.isSome || s.ixBehind before before.length r then s
    else match r.fn with
      | 0 => s.keepToken (s.createIndex u k r) u k r
      | 1 => s.keepToken (s.dropIndex u k r) u k r
      | 4 => s.keepToken (s.statusOf u k r) u k r
      | _ => s

/-- The requests of slot `u` in order. -/
def State.settleRequests (s : State) (u : Nat) : State :=
  (List.range (s.slot u).ixq.length).foldl (fun s k => s.settleRequest u k) s

/-- One slot settled. -/
def State.settleSlot (s : State) (c u : Nat) : State :=
  let s1 := s.settleStores u c
  let s2 := s1.settleQueue u .cp (delivs (s1.slot u).cpq)
  let s3 := s2.settleQueue u .mx (delivs (s2.slot u).mxq)
  let s4 := (List.range (s3.slot u).ixq.length).foldl (fun s k => s.settleInsert u k) s3
  let t := s4.slot u
  let s5 := t.loading.foldl (fun s m => s.setMac (u / 256) m { s.mac (u / 256) m with resm := true }) s4
  s5.setSlot u { t with
    cpq := t.cpq.map Cmd.settled, mxq := t.mxq.map Cmd.settled, ixq := t.ixq.map IxReq.settled
    early := [], bell := none, wait := none, xf := none, examined := false, block := none }

/-- Increments and then arrivals of a context perform (R255, R281 step 3); a thief's half joins its deque. -/
def State.settleJoins (s : State) (c : Nat) : State :=
  let inc := s.incrs.filter (·.ctx = c)
  let s1 : State := { s with incrs := s.incrs.filter (·.ctx ≠ c) }
  let s2 := inc.foldl (fun s r =>
    (if s.cutOff r.pa then s.lose (some c) else s.joinIncrement c r.pa).pushTop r.thief c r.half) s1
  let arr := s2.arrivals.filter fun r => r.ctx = c && (s2.cutOff r.pa || !s2.unrouted (devOf r.pa))
  let s3 : State := { s2 with
    arrivals := s2.arrivals.filter fun r => !(r.ctx = c && (s2.cutOff r.pa || !s2.unrouted (devOf r.pa))) }
  arr.foldl (fun s r => if s.cutOff r.pa then s.lose (some c) else s.joinArrive c r.pa) s3

/-- The steals of a core end: a record on its way reaches its thief, a request without one is given up. -/
def State.settleCore (s : State) (c g : Nat) : State :=
  let k := s.core g
  let s1 := s.setCore g { k with reply := none, stealing := none, thieves := [] }
  match k.reply with
  | some (some x) => s1.pushTop g c x
  | _ => s1

/-- The CODEPUB requests of a context complete, or park; the stores that one follows have performed (R291, R292, log 38). -/
def State.settleCode (s : State) (c : Nat) : Nat → State
  | 0 => s
  | fuel + 1 =>
    match s.codeReqs.findIdx? fun r => r.ctx = c && !r.parked with
    | none => s
    | some k =>
      match s.codeReqs[k]? with
      | some r => (s.codeRun k r).settleCode c fuel
      | none => s

/-- The holds of the indexes of a context end (R220). -/
def State.endHolds (s : State) (c : Nat) : State :=
  { s with indexes := s.indexes.map fun i => if i.2.owner = c then (i.1, { i.2 with holds := [] }) else i }

/-- The slots and cores of a facet set that the state lists. -/
def State.slotsIn (s : State) (set : List Nat) : List Nat := (s.slots.filter fun t => set.contains (t.1 / 256)).map (·.1)
def State.coresOf (s : State) (set : List Nat) : List Nat := (s.cores.filter fun k => set.contains (k.1 / 64)).map (·.1)

/-- Step 1 of R299. -/
def State.settle (s : State) (c : Nat) : State :=
  let set := (s.ctx c).set
  let s1 := s.settleJoins c
  let s2 := (s1.coresOf set).foldl (fun s g => s.settleCore c g) s1
  let s3 := (s2.slotsIn set).foldl (fun s u => s.settleSlot c u) s2
  let s4 := (s3.slotsIn set).foldl (fun s u => s.settleRequests u) s3
  (s4.settleCode c s4.codeReqs.length).endHolds c

/-! ## The save area (R297, R298) -/

/-- 64 KiB of SRAM copied into a page of the save area; a sleeping macro wakes, and the codes of the SRAM are checked
(R116). -/
def State.copyOut (s0 : State) (c src : Nat) (p : Place) : State :=
  let s := ((s0.wakeNow c src).wakeNow c p.pa).touchSpan c src 65536
  match p.enc with
  | none =>
    let cells := s.mem.filter fun x => src ≤ x.1 && x.1 < src + 65536
    let s1 := s.zeroRange p.pa 65536
    { s1 with mem := cells.foldl (fun m x => memSet m (p.pa + (x.1 - src)) x.2) s1.mem }
  | some _ =>
    (List.range 1024).foldl (fun s i => s.wr { p with pa := p.pa + 64 * i } (rdBytes s.mem (src + 64 * i) 64)) s

/-- A page of the save area copied into 64 KiB of SRAM. -/
def State.copyIn (s : State) (p : Place) (dst : Nat) : State :=
  match p.enc with
  | none =>
    let cells := s.mem.filter fun x => p.pa ≤ x.1 && x.1 < p.pa + 65536
    let s1 := s.zeroRange dst 65536
    { s1 with mem := cells.foldl (fun m x => memSet m (dst + (x.1 - p.pa)) x.2) s1.mem }
  | some _ =>
    (List.range 1024).foldl (fun s i =>
      s.wr { pa := dst + 64 * i, enc := none } (s.rd { p with pa := p.pa + 64 * i } 64)) (s.zeroRange dst 65536)

/-- One image of a facet restored from its page, none where the access faults or meets poison (R297); sleeping macros wake
(R116). -/
def State.loadImage (s0 : State) (f c va dst : Nat) : Option State :=
  let s := s0.walkTouch c (va / 65536)
  match s.xlateNow f c .load va with
  | none => none
  | some p =>
    let s1 := ((s.wakeNow c p.pa).wakeNow c dst).touchSpan c p.pa 65536
    if s1.poisonedSpan p.pa 65536 then none else some (s1.copyIn p dst)

/-- The 32 pages of SRAM images in a facet record: page `i` of the record, and its SRAM (R298). -/
def imagePages (f : Nat) : List (Nat × Nat) :=
  (List.range 16).map (fun m => (0x110000 + 65536 * m, spadAddr f (65536 * m)))
    ++ (List.range 16).map fun j => (0x210000 + 65536 * j, localAddr (64 * f) (65536 * j))

/-- Whether a context owns a macro that is LOADING or STATIONARY. -/
def Mac.of (y : Mac) (c : Nat) : Bool := y.st ≠ .data && y.owner = c

/-- Whether another context's pre-empted TLW holds a macro (R171, R187). -/
def Mac.heldFrom (y : Mac) (c : Nat) : Bool := y.st = .loading && y.resm && y.owner ≠ c

/-- Whether an image is saved and restored: all with MEMSAVE = 1, else the context's macros that are not in DATA (R300). A
macro that another context's TLW holds is neither (log 30). -/
def State.keepsImage (s : State) (c f i : Nat) : Bool :=
  !(i < 16 && (s.mac f i).heldFrom c) && ((s.ctx c).memsave || (i < 16 && (s.mac f i).of c))

/-- The images of a facet written. -/
def State.saveImages (s : State) (c f : Nat) : Option State :=
  ((imagePages f).zipIdx).foldlM (fun s p =>
    if s.keepsImage c f p.2 then
      let s1 := s.walkTouch c ((s.facetRec c f + p.1.1) / 65536)
      (s1.xlateNow f c .store (s.facetRec c f + p.1.1)).map fun q => s1.copyOut c p.1.2 q
    else some s) s

/-- A facet record written. -/
def State.saveFacet (s : State) (c f : Nat) : Option State := do
  let base := s.facetRec c f
  let x := s.facet f
  let s1 ← s.saveRec f c base 65536 (x.recDw c)
  let s2 ← (List.range 16).foldlM (fun s m =>
    let y := x.mac m
    s.saveRec f c (base + 0x10000 + 65536 * m) 65536 (if y.of c then y.recDw else fun _ => 0)) s1
  s2.saveImages c f

/-- Step 2 of R299, with the images of step 4: every record of the set. -/
def State.saveAll (s : State) (c : Nat) : Option State := do
  let set := (s.ctx c).set
  let s1 ← set.foldlM (fun s f => (List.range 64).foldlM (fun s i =>
    s.saveRec f c (s.coreRec c (64 * f + i)) 8192 (s.core (64 * f + i)).recDw) s) s
  let s2 ← set.foldlM (fun s f => s.saveFacet c f) s1
  set.foldlM (fun s f => (List.range 256).foldlM (fun s i =>
    s.saveRec f c (s.slotRec c (256 * f + i)) 0x14000 (s.slot (256 * f + i)).recDw) s) s2

/-! ## SWITCH_OUT (R299, R300) -/

/-- Whether the saved records of a facet are not empty (R299). -/
def State.keptFacet (s : State) (c f : Nat) : Bool :=
  let x := s.facet f
  s.slots.any (fun t => t.1 / 256 = f && (t.2.busy || t.2.commands || !t.2.replay.isEmpty || !t.2.sbuf.isEmpty))
    || s.cores.any (fun k => k.1 / 64 = f && k.2.holds)
    || x.bars.any (·.2.owner = some c) || x.sOwner = some c || !(x.owned c).isEmpty
    || x.tags.any (fun e => tagValid e.2 && tagCtx e.2 = c)
    || ((s.ctx c).memsave && (s.mem.map (·.1) ++ s.poison).any fun a => (imagePages f).any fun p => p.2 ≤ a && a < p.2 + 65536)

/-- The memories of a facet cleared: its local memories and its macros in DATA (R300). A stationary macro of another
context stands. -/
def State.clearImages (s : State) (c f : Nat) : State :=
  if (s.ctx c).memsave then s
  else ((imagePages f).zipIdx).foldl (fun s p =>
    if p.2 < 16 && (s.mac f p.2).st ≠ .data then s else s.zeroRange p.1.2 65536) s

/-- A facet given up: barriers ownerless, streams reset, tags invalid (R299 step 3). -/
def State.leaveFacet (s : State) (c f : Nat) : State :=
  let x := s.facet f
  let x1 := (if x.sOwner = some c then x.resetStreams else x).dropBars c
  s.setFacet f { x1.dropTags c with ctx := none }

/-- What the device keeps of a slot beyond its record; `allow` counts the units that return meanwhile. -/
def Slot.kept (t : Slot) : Slot := { t with allow := 0 }

/-- The poisoned doublewords of the images that are saved (R300). -/
def State.imagePoison (s : State) (c : Nat) : List Nat :=
  s.poison.filter fun a => (s.ctx c).set.any fun f => ((imagePages f).zipIdx).any fun p =>
    p.1.2 ≤ a && a < p.1.2 + 65536 && s.keepsImage c f p.2

/-- The context after its save: what is kept of its slots, cores and facets, and the state SWITCHED-OUT. -/
def State.leave (s : State) (c : Nat) : State :=
  let x := s.ctx c
  let y : Ctx := { x with
    st := .switchedOut, halt := false, chosen := false, fresh := false
    kept := x.set.filter (s.keptFacet c)
    keptSlots := (s.slots.filter fun t => x.set.contains (t.1 / 256)).map fun t => (t.1, t.2.kept)
    keptCores := s.cores.filter fun k => x.set.contains (k.1 / 64)
    keptFacets := s.facets.filter fun f => x.set.contains f.1
    keptPoison := s.imagePoison c }
  let s1 := x.set.foldl (fun s f => (s.clearImages c f).leaveFacet c f) s
  (s1.freeSet x.set).setCtx c y

/-- Whether something of context `c` that the save waits for is on its way to another device and finds no route: a delivery,
a committed lane, an arrival, an increment (R102, R170, R239, R281, R314). -/
def State.stranded (s : State) (c : Nat) : Bool :=
  let waits (pa : Nat) : Bool := s.unrouted (devOf pa) && !s.cutOff pa
  s.arrivals.any (fun r => r.ctx = c && waits r.pa) || s.incrs.any (fun r => r.ctx = c && waits r.pa)
    || (s.slotsIn (s.ctx c).set).any fun u =>
      ((s.slot u).cpq ++ (s.slot u).mxq).any (fun x => x.out.any fun d => waits d.place.pa)
        || (s.slot u).sbuf.any fun e => match e with
          | .store _ _ (some p) _ _ _ => waits p.pa
          | .store _ _ none _ _ _ | .fence _ _ _ | .fenceX _ => false

/-- SWITCH_OUT: after the halt, and once nothing that was sent waits for a route, the engines settle and the records are
written; a fault of the save kills. -/
def execSwitchOut (c : Nat) (s : State) : Out :=
  let x := s.ctx c
  if x.st ≠ .running || !x.halt || s.stranded c then .next s
  else
    let s1 := s.settle c
    .next (match s1.saveAll c with
      | some s2 => s2.leave c
      | none => s1.kill c 0xFF)

/-! ## PLACEMENT (R274, R299 to R301) -/

/-- The facet set of a placement (R274, R299). -/
def State.placeSet (s : State) (c : Nat) : List Nat := unionNat (s.ctx c).kept (s.boundSet c)

/-- A placed core: its control base registers come from the context block, its code cache stays. -/
def State.putCore (s : State) (c g : Nat) (k : Core) : State :=
  s.setCore g { k with tvec := (s.ctx c).tvec, htab := (s.ctx c).htab, icache := (s.core g).icache }

/-- A core as it starts or is restored (R274, R278, R332). -/
def State.placeCore (s : State) (c g : Nat) : Option State :=
  if (s.ctx c).listed g then
    match s.loadRec (g / 64) c (s.coreRec c g) 8192 with
    | some r => some (r.1.putCore c g (Core.ofRec (s.keptCore c g) r.2))
    | none =>
      if (s.ctx c).restores (g / 64) || (s.spanPlaces (g / 64) c .load (s.coreRec c g) 8192).isSome then none
      else some (s.putCore c g (s.keptCore c g))
  else some (s.putCore c g (s.freshCore c g))

/-- A slot as it starts or is restored, with its notice of R301; units of allowance that its record could not take come with
it. -/
def State.placeSlot (s : State) (c u : Nat) : Option State :=
  let x := s.ctx c
  if x.restores (u / 256) then
    (s.loadRec (u / 256) c (s.slotRec c u) 0x14000).map fun r =>
      let kept := Tbl.get Slot.reset.kept x.keptSlots u
      let t := Slot.ofRec kept r.2
      r.1.setSlot u { t with
        allow := min 32 (t.allow + kept.allow), duePreempt := kept.duePreempt || (x.pnote && t.busy) }
  else some { s with slots := s.slots.filter (·.1 ≠ u) }

/-- The bits of a tag entry that are not reserved (R111). -/
def tagMask : Dword := 0xFFC00FFFFFFFFFFF

/-- The barriers, streams and tags of a facet as its record has them; reserved bits read 0 (R7). -/
def Facet.ofRec (old kept : Facet) (c : Nat) (memsave : Bool) (r : Nat → Nat) : Facet :=
  let bars := kept.bars.filter (·.2.owner = some c)
  let x1 := bars.foldl (fun (x : Facet) b =>
    let w := r (16 * b.1)
    x.setBar b.1 { b.2 with armed := bit w 63, overrun := bit w 62, count := bits w 31 0 }) old
  let x2 : Facet := if bit (r 0x200) 63 then
      { x1 with
        sOwner := some c
        sregs := (List.range 64).map fun i =>
          (i, { valid := bit (r (0x400 + 8 * i)) 63, len := bits (r (0x400 + 8 * i)) 61 60
                mask := BitVec.ofNat 16 (r (0x400 + 8 * i))
                bits := BitVec.ofNat 4096 ((List.range 64).foldl (fun n j =>
                  n + r (0x1000 + 512 * i + 8 * j) * 2 ^ (64 * j)) 0) })
        gens := (List.range 16).map fun i => (i, BitVec.ofNat 32 (r (0x600 + 8 * (i / 2)) / 2 ^ (32 * (i % 2)))) }
    else x1
  if memsave then
    { x2 with tags := (List.range 256).foldl (fun l n =>
        if r (0x800 + 8 * n) = 0 then l else Tbl.set l n (dw (r (0x800 + 8 * n)) &&& tagMask)) x2.tags }
  else x2

/-- A macro as its record has it: stationary as it was, or in DATA, where what another context left there goes, but for a
macro that its pre-empted TLW holds (R187, R299, R300; log 30). -/
def State.placeMac (s : State) (c f m : Nat) (g : Nat → Nat) : State :=
  if bits (g 0) 63 62 ≠ 0 then s.setMac f m (Mac.ofRec (s.mac f m) g)
  else if (s.mac f m).st = .data || (s.mac f m).heldFrom c then s
  else s.wipeMacro f m

/-- The retention of a facet's macros as it is after a reset (R117). -/
def State.resetRetention (s : State) (f : Nat) : State :=
  let s1 := ((s.facet f).macs.filter fun y => y.2.ret ≠ .awake).foldl (fun s y => s.exitRetention f y.1 y.2.waker) s
  s1.setFacet f { s1.facet f with idle := Facet.reset.idle }

/-- A facet as it starts for a context that was never placed: its macros awake and in DATA, but for those that another
context's pre-empted TLW holds (R187; log 30), no tag entry, no barrier in use, no stream (R332). -/
def State.freshFacet (s : State) (c f : Nat) : State :=
  let s1 := s.resetRetention f
  let s2 := (List.range 16).foldl (fun s m => s.placeMac c f m fun _ => 0) s1
  s2.setFacet f { (s2.facet f).resetStreams with ctx := some c, tags := [], bars := [] }

/-- The macros, barriers, streams and tags of a facet restored from its record, or a facet that starts empty (R299, R332). -/
def State.placeFacet (s : State) (c f : Nat) : Option State := do
  let x := s.ctx c
  if !x.restores f then some (s.freshFacet c f)
  else
    let base := s.facetRec c f
    let r ← s.loadRec f c base 65536
    let y := Facet.ofRec (r.1.facet f) (Tbl.get Facet.reset x.keptFacets f) c x.memsave r.2
    let s1 := r.1.setFacet f { y with ctx := some c }
    let s2 ← (List.range 16).foldlM (fun s m =>
      (s.loadRec f c (base + 0x10000 + 65536 * m) 65536).map fun g => g.1.placeMac c f m g.2) s1
    ((imagePages f).zipIdx).foldlM (fun s p =>
      if s.keepsImage c f p.2 then s.loadImage f c (base + p.1.1) p.1.2 else some s) s2

/-- Every record of a set restored. -/
def State.placeAll (s : State) (c : Nat) (set : List Nat) : Option State := do
  let s1 ← set.foldlM (fun s f => s.placeFacet c f) s
  let s2 ← set.foldlM (fun s f => (List.range 64).foldlM (fun s i => s.placeCore c (64 * f + i)) s) s1
  set.foldlM (fun s f => (List.range 256).foldlM (fun s i => s.placeSlot c (256 * f + i)) s) s2

/-- The slot with the token values that the save kept written (R220). -/
def Slot.giveSaved (t : Slot) : Slot :=
  let l := t.ixq.filter (·.phase = .tokenSaved)
  l.foldl (fun t r => t.writeTok r.tok r.saved) { t with ixq := t.ixq.filter (·.phase ≠ .tokenSaved) }

/-- A slot goes on after a restore: the saved tokens, the replay (R220, R239). -/
def State.resumeSlot (s : State) (u : Nat) : State :=
  let s1 := if (s.slot u).ixq.any (·.phase = .tokenSaved) then s.setSlot u (s.slot u).giveSaved else s
  if (s1.slot u).replay.isEmpty then s1 else s1.replay u

/-- The context RUNNING: PCOUNT, rotations, poison, and every slot goes on (R239, R299, R335). -/
def State.goRunning (s : State) (c : Nat) (set : List Nat) : State :=
  let x := s.ctx c
  let y : Ctx := { x with
    st := .running, set := set, kept := [], fresh := false, halt := false, chosen := false
    pcount := (x.pcount + 1) % 2 ^ 16, keptSlots := [], keptCores := [], keptFacets := [], keptPoison := [] }
  let s1 : State := { s with
    rotation := s.rotation.filter fun r => r.1 % 512 ≠ c
    poison := x.keptPoison.foldl (fun l u => insertNat u l) s.poison }
  let s2 := s1.setCtx c y
  (s2.slotsIn set).foldl (fun s u => s.resumeSlot u) s2

/-- Whether a task of a context ran at its save. -/
def State.savedTasks (s : State) (c : Nat) : Bool := (s.ctx c).keptSlots.any (·.2.busy)

/-- Whether a context may be placed now: it is switched out, its key slot is filled (R325), a valid queue names it, its
set is not empty and free, it has work or tasks that ran at its save, or was never placed, its streams find their units
without owner, and no other context was chosen for these facets (R274, R275, R311, R332). Where masks written since have made
the sets of two chosen contexts meet, the one with the lower identity goes first (log 22). -/
def State.placeable (s : State) (c : Nat) : Bool :=
  let set := s.placeSet c
  s.queueNamed c && !set.isEmpty && ((s.ctx c).fresh || s.eligible c || s.savedTasks c) && (s.ctx c).st == .switchedOut
    && (s.keySlot c).isSome && set.all (fun f => (s.facet f).ctx.isNone && (s.facet f).sOwner.isNone)
    && !s.ctxs.any fun d =>
      d.1 ≠ c && d.2.chosen && s.eligible d.1 && overlaps (s.placeSet d.1) set && !((s.ctx c).chosen && c < d.1)

/-- Whether a write is on its way to a scratchpad of a facet set: a placement, which may make a macro there stationary, waits
for it (R226, R333, log 31). -/
def State.inboundSet (s : State) (set : List Nat) : Bool :=
  s.inbound fun pa => devOf pa = 0 && spaceOf pa = 2 && set.contains (spadFacet pa)

/-- PLACEMENT: a fault of the restore kills the context (R297). -/
def execPlacement (c : Nat) (s : State) : Out :=
  if !s.placeable c || s.inboundSet (s.placeSet c) then .next s
  else
    let set := s.placeSet c
    .next (match s.placeAll c set with
      | some s1 => s1.goRunning c set
      | none => s.kill c 0xFF)

end Sys2Proof.Machine
end

