-- ==== Sys2Proof/Machine/Control.lean ====
section
/-!
DEFINITION. The control instructions of major 0x13: NOP and END (R131, R132, R268), and those of the supervisor level
and of code publication (R286, R287, R290, R291, R293).
-/

namespace Sys2Proof.Machine

/-- NOP (R131). -/
def execNop (s : State) : Out := .next s.done

/-! ## END -/

/-- The scope at which the end of a task releases, if it must (R268). -/
def Slot.endScope (t : Slot) : Option Scope :=
  if !t.keys.isEmpty then some .sys
  else if hdrJoin t.hdr.toNat then some (scopeCode (bits t.joinRef.toNat 2 0))
  else none

/-- Whether the end of a task waits for stores. -/
def Slot.endHeld (t : Slot) (g : Nat) : Bool :=
  match t.endScope with
  | some x => t.releaseHeld x g
  | none => false

/-- Retire and free the slot: each key release, then the arrival at the join record, if there is one (R132, R268). -/
def State.retire (s : State) (arrival : Option Place) : State :=
  let c := s.myCtx
  let s1 := s.releaseKeys c s.here.keys
  let s2 := match arrival with
    | some p => s1.sendArrival c s.cur p.pa
    | none => s1
  s2.setHere s2.here.ended

/-- END at task level (R132, R268): the waits, the check of the retained join reference, the release, the retirement. -/
def State.endTask (s : State) : Out :=
  let t := s.here
  if !t.pend.isEmpty || t.sbuf.any (·.untranslated) || !t.replay.isEmpty then s.stall
  else if hdrJoin t.hdr.toNat then
    if t.walkHeld s.myCore then s.stall
    else
      let s1 := s.walkTouch s.myCtx (t.joinRef.toNat / 65536)
      match s1.joinCheck s.myFacet s.myCtx t.joinRef with
      | .trap code tval => .next (s1.trap code tval)
      | .ok p =>
        if t.endHeld s.myCore || t.sbuf.any (·.mayOverlap p.pa 8) then s.stall else .next (s1.retire (some p))
  else if t.endHeld s.myCore then s.stall
  else .next (s.retire none)

/-- Whether a store of task level on its way stands behind the first parked one as a release or behind a FENCE with ss:
where that one never performs, this one does not either (R226, R232). -/
def Slot.orphaned (t : Slot) (e : SEntry) : Bool :=
  match t.replay.head?, e with
  | some r, .store n _ _ _ kind false =>
    r.seq < n && (kind == .release || t.sbuf.any fun x => match x with
      | .fence m k _ => r.seq < m && m < n && kindSs k
      | .store _ _ _ _ _ _ | .fenceX _ => false)
  | _, _ => false

/-- The slot without its parked stores, what stands behind them, held SSQ commands, parked engine commands and the traps
due to them; the tokens of the commands stop pending (R199, R226, R286, R336). -/
def Slot.discard (t : Slot) : Slot :=
  let gone := (if t.hold then t.ssq else []) ++ t.cpq.filter (·.phase = .parked) ++ t.mxq.filter (·.phase = .parked)
  let toks := gone.map (·.tok) ++ (t.ixq.filter (·.fault.isSome)).map (·.tok)
  { t with
    replay := []
    sbuf := t.sbuf.filter (!t.orphaned ·)
    ssq := if t.hold then [] else t.ssq
    hold := false
    cpq := t.cpq.filter (·.phase ≠ .parked)
    mxq := t.mxq.filter (·.phase ≠ .parked)
    ixq := t.ixq.filter (!·.fault.isSome)
    pend := t.pend.filter (!toks.contains ·)
    duePreempt := false, dueCorr := none, dueStore := false, duePage := [] }

/-- The CODEPUB requests of a slot that are parked on PAGE dropped; their tokens stop pending. -/
def State.discardCode (s : State) (u : Nat) : State :=
  let gone := s.codeReqs.filter (s.codeParked u)
  { s.setSlot u { s.slot u with pend := (s.slot u).pend.filter fun n => !gone.any (·.tok = n) } with
    codeReqs := s.codeReqs.filter (!s.codeParked u ·) }

/-- END of a handler, which kills its task (R286). A reference that fails the checks of R266 loses its arrival, which is
logged as KIND 12 (R303). The macro of a parked TLW that is discarded is zeroed, as for a TLW that fails (R171). -/
def State.endHandler (s : State) : Out :=
  let lost := (s.here.mxq.filter (·.phase = .parked)).filterMap (·.loads)
  let s0 := s.walkTouch s.myCtx (s.here.joinRef.toNat / 65536)
  let s1 := (lost.foldl (fun s m => s.wipeMacro s.myFacet m) (s0.setHere s0.here.discard)).discardCode s.cur
  let t := s1.here
  if !t.pend.isEmpty || t.endHeld s.myCore then .next s1
  else if hdrJoin t.hdr.toNat then
    match s1.joinCheck s.myFacet s.myCtx t.joinRef with
    | .ok p => .next (s1.retire (some p))
    | .trap _ _ =>
      .next ((s1.retire none).logEvent (.facet s.myFacet) 12 (some s.myCtx) 1 (t.joinRef.toNat / 8 * 8) true)
  else .next (s1.retire none)

/-- END (R132, R286). -/
def execEndTask (s : State) : Out := if s.here.sup then s.endHandler else s.endTask

/-! ## ERET, IFENCE, WAITI, CODEPUB, TRAP -/

/-- Whether an ERET waits: for a pending register of the bank, or, where it starts the task anew, for the stores that its
read of the handler table or its walk must see (R76, R232, R286). -/
def Slot.eretWaits (t : Slot) (g : Nat) : Bool := t.pend.any (32 < ·) || (t.start && (t.fencedLoad g || t.walkHeld g))

/-- ERET (R286): at task level PROT with the word (R39). It releases the SSQ hold once, and then waits. -/
def execEret (s : State) : Out :=
  let t := s.here
  if !t.sup then .next (s.trap causeProt (wordOf .eret))
  else
    let t1 := if t.leaving then t else { t with leaving := true, hold := false }
    if t1.eretWaits s.myCore then .next (s.setHere t1) else .next ((s.setHere t1).returnFrom s.cur)

/-- IFENCE: what the slot has fetched beyond itself is discarded (R290). -/
def execIfence (s : State) : Out := .next (s.setHere { s.here with block := none }).done

/-- WAITI: it completes when the high mailbox holds a message, or one has entered it since the wait began (R293). -/
def execWaiti (s : State) : Out :=
  let t := s.here
  if !t.sup then .next (s.trap causeProt (wordOf .waiti))
  else if !(s.core s.myCore).high.isEmpty || t.bell = some true then .next (s.setHere { t with bell := none }).done
  else .next (s.setHere { t with bell := some false })

/-- CODEPUB: its token turns pending and the request is sent (R291); it waits for a store that it must follow and that awaits
translation (log 54). -/
def execCodepub (d a b : Reg) (s : State) : Out :=
  let t := s.here
  if t.srcPend [a, b] || t.isPend d.toNat || !t.replay.isEmpty || t.codeHeld s.myCore s.tick SEntry.untranslated then s.stall
  else
    let r : CodeReq :=
      { seq := s.tick, slot := s.cur, tok := t.regNo d.toNat, ctx := s.myCtx
        va := (t.s a.toNat).toNat, n := (t.s b.toNat).toNat, parked := false }
    .next { s.setHere (t.addPend (t.regNo d.toNat)).advance with codeReqs := s.codeReqs ++ [r] }

/-- TRAP #n (R287). -/
def execTrap (n : BitVec 8) (s : State) : Out := .next (s.trap causeTrap (n.setWidth 64))

end Sys2Proof.Machine
end

