-- ==== Sys2Proof/Machine/Scalar.lean ====
section
/-!
DEFINITION. The scalar instructions: register operations, immediate forms, branches and jumps (R119 to R128). Each has
a definition of its own over the operations of Operands.lean.
-/

namespace Sys2Proof.Machine

/-- Leading zeros of a doubleword, 0 to 64 (R121). -/
def clz64 (x : Dword) : Nat := if x = 0 then 64 else 63 - Nat.log2 x.toNat

/-- Ones in a doubleword (R121). -/
def popc64 (x : Dword) : Nat := (List.range 64).countP fun i => x.getLsbD i

/-- Signed quotient truncated toward zero, with the cases of R122. -/
def divS (x y : Dword) : Dword := if y = 0 then -1 else BitVec.ofInt 64 (Int.tdiv x.toInt y.toInt)
/-- Unsigned quotient (R122). -/
def divU (x y : Dword) : Dword := if y = 0 then -1 else dw (x.toNat / y.toNat)
/-- Signed remainder with the sign of the dividend (R122). -/
def remS (x y : Dword) : Dword := if y = 0 then x else BitVec.ofInt 64 (Int.tmod x.toInt y.toInt)
/-- Unsigned remainder (R122). -/
def remU (x y : Dword) : Dword := if y = 0 then x else dw (x.toNat % y.toNat)

/-- A truth value as a register holds it. -/
def flag (b : Bool) : Dword := if b then 1 else 0

/-- A two-source register operation (R121). -/
def State.alu (s : State) (d a b : Reg) (f : Dword → Dword → Dword) : Out :=
  s.scalar [a, b] d fun t => f (t.s a.toNat) (t.s b.toNat)

/-- A one-source register operation, or an operation with an immediate (R121, R123). -/
def State.alu1 (s : State) (d a : Reg) (f : Dword → Dword) : Out := s.scalar [a] d fun t => f (t.s a.toNat)

def execAdd (d a b : Reg) (s : State) : Out := s.alu d a b fun x y => x + y
def execSub (d a b : Reg) (s : State) : Out := s.alu d a b fun x y => x - y
def execAnd (d a b : Reg) (s : State) : Out := s.alu d a b fun x y => x &&& y
def execOr (d a b : Reg) (s : State) : Out := s.alu d a b fun x y => x ||| y
def execXor (d a b : Reg) (s : State) : Out := s.alu d a b fun x y => x ^^^ y
def execAndn (d a b : Reg) (s : State) : Out := s.alu d a b fun x y => x &&& ~~~y
def execSll (d a b : Reg) (s : State) : Out := s.alu d a b fun x y => x <<< (y.toNat % 64)
def execSrl (d a b : Reg) (s : State) : Out := s.alu d a b fun x y => x >>> (y.toNat % 64)
def execSra (d a b : Reg) (s : State) : Out := s.alu d a b fun x y => x.sshiftRight (y.toNat % 64)
def execSlt (d a b : Reg) (s : State) : Out := s.alu d a b fun x y => flag (x.slt y)
def execSltZ (d a b : Reg) (s : State) : Out := s.alu d a b fun x y => flag (x.ult y)
def execSeq (d a b : Reg) (s : State) : Out := s.alu d a b fun x y => flag (x == y)
def execMin (d a b : Reg) (s : State) : Out := s.alu d a b fun x y => if x.slt y then x else y
def execMax (d a b : Reg) (s : State) : Out := s.alu d a b fun x y => if x.slt y then y else x
def execMinZ (d a b : Reg) (s : State) : Out := s.alu d a b fun x y => if x.ult y then x else y
def execMaxZ (d a b : Reg) (s : State) : Out := s.alu d a b fun x y => if x.ult y then y else x
def execMul (d a b : Reg) (s : State) : Out := s.alu d a b fun x y => x * y
def execMulh (d a b : Reg) (s : State) : Out := s.alu d a b fun x y => BitVec.ofInt 64 (x.toInt * y.toInt / 2 ^ 64)
def execMulhZ (d a b : Reg) (s : State) : Out := s.alu d a b fun x y => dw (x.toNat * y.toNat / 2 ^ 64)
def execDiv (d a b : Reg) (s : State) : Out := s.alu d a b fun x y => divS x y
def execDivZ (d a b : Reg) (s : State) : Out := s.alu d a b fun x y => divU x y
def execRem (d a b : Reg) (s : State) : Out := s.alu d a b fun x y => remS x y
def execRemZ (d a b : Reg) (s : State) : Out := s.alu d a b fun x y => remU x y
def execClz (d a : Reg) (s : State) : Out := s.alu1 d a fun x => dw (clz64 x)
def execPopc (d a : Reg) (s : State) : Out := s.alu1 d a fun x => dw (popc64 x)

def execAddImm (d a : Reg) (i : BitVec 16) (s : State) : Out := s.alu1 d a fun x => x + imm16 i
def execAndImm (d a : Reg) (i : BitVec 16) (s : State) : Out := s.alu1 d a fun x => x &&& imm16 i
def execOrImm (d a : Reg) (i : BitVec 16) (s : State) : Out := s.alu1 d a fun x => x ||| imm16 i
def execXorImm (d a : Reg) (i : BitVec 16) (s : State) : Out := s.alu1 d a fun x => x ^^^ imm16 i
def execSltImm (d a : Reg) (i : BitVec 16) (s : State) : Out := s.alu1 d a fun x => flag (x.slt (imm16 i))
def execSltZImm (d a : Reg) (i : BitVec 16) (s : State) : Out := s.alu1 d a fun x => flag (x.ult (imm16 i))

/-- LI (R124). -/
def execLi (d : Reg) (i : BitVec 16) (s : State) : Out := s.scalar [] d fun _ => imm16 i
/-- LSI: the upper 16 bits of S[a] are discarded (R124). -/
def execLsi (d a : Reg) (i : BitVec 16) (s : State) : Out := s.alu1 d a fun x => (x <<< 16) ||| i.setWidth 64
/-- Shift immediates (R125). -/
def execSllImm (d a : Reg) (n : BitVec 6) (s : State) : Out := s.alu1 d a fun x => x <<< n.toNat
def execSrlImm (d a : Reg) (n : BitVec 6) (s : State) : Out := s.alu1 d a fun x => x >>> n.toNat
def execSraImm (d a : Reg) (n : BitVec 6) (s : State) : Out := s.alu1 d a fun x => x.sshiftRight n.toNat

/-- The six branches (R126). -/
def execBeq (a b : Reg) (o : BitVec 16) (s : State) : Out := s.branch a b o fun x y => x == y
def execBne (a b : Reg) (o : BitVec 16) (s : State) : Out := s.branch a b o fun x y => x != y
def execBlt (a b : Reg) (o : BitVec 16) (s : State) : Out := s.branch a b o fun x y => x.slt y
def execBge (a b : Reg) (o : BitVec 16) (s : State) : Out := s.branch a b o fun x y => !x.slt y
def execBltZ (a b : Reg) (o : BitVec 16) (s : State) : Out := s.branch a b o fun x y => x.ult y
def execBgeZ (a b : Reg) (o : BitVec 16) (s : State) : Out := s.branch a b o fun x y => !x.ult y

/-- JAL (R127). -/
def execJal (d : Reg) (o : BitVec 21) (s : State) : Out :=
  let t := s.here
  if t.isPend d.toNat then .next (s.clobber d.toNat)
  else .next (s.setHere ((t.setS d.toNat (t.pc + 4)).goto (t.pc + off21 o)))

/-- JALR: the target comes from the old S[a]; a misaligned one traps before anything is written (R128). -/
def execJalr (d a : Reg) (i : BitVec 16) (s : State) : Out :=
  let t := s.here
  let target := t.s a.toNat + imm16 i
  if t.srcPend [a] then s.stall
  else if target.toNat % 4 ≠ 0 then .next (s.trap causeAlign target)
  else if t.isPend d.toNat then .next (s.clobber d.toNat)
  else .next (s.setHere ((t.setS d.toNat (t.pc + 4)).goto target))

end Sys2Proof.Machine
end

