-- ==== Sys2Proof/Machine/System.lean ====
section
/-!
DEFINITION. CTLR and CTLW, on named control registers and on control space (R54, R61, R62, R65, R288, R289).
-/

namespace Sys2Proof.Machine

/-- CTXID of a slot (R65). -/
def State.ctxid (s : State) (u : Nat) : Dword :=
  dw (s.devId * 2 ^ 29 + u / 256 * 2 ^ 17 + u / 4 % 64 * 2 ^ 11 + u % 4 * 2 ^ 9 + s.ctxOf u)

/-- Whether the list marks a control register supervisor-only (R61). -/
def supOnly (n : Nat) : Bool := 0x20 ≤ n

/-- The value of a control register as the running slot names it (R61). -/
def State.ctl (s : State) (n : Nat) : Dword :=
  let t := s.here
  let k := s.core s.myCore
  match n with
  | 0x00 => t.fpctl
  | 0x01 => t.mxcfg
  | 0x02 => t.sca
  | 0x03 => t.scb
  | 0x04 => t.swin
  | 0x10 => s.ctxid s.cur
  | 0x20 => k.tvec
  | 0x21 => t.tcause
  | 0x22 => t.tval
  | 0x23 => t.epc
  | 0x30 => k.spillb
  | 0x31 => k.htab
  | _ => 0

/-- The state with a control register written under its Access column (R7, R61, R63 to R65, R288). -/
def State.setCtl (s : State) (n : Nat) (x : Dword) : State :=
  let t := s.here
  let k := s.core s.myCore
  match n with
  | 0x00 => s.setHere { t with fpctl := writeFpctl t.fpctl x }
  | 0x01 => s.setHere { t with mxcfg := x &&& 0x1FFFF }
  | 0x02 => s.setHere { t with sca := x }
  | 0x03 => s.setHere { t with scb := x }
  | 0x04 => s.setHere { t with swin := x &&& 3 }
  | 0x20 => s.setCore s.myCore { k with tvec := x }
  | 0x21 => s.setHere { t with tcause := x &&& 0xFF }
  | 0x22 => s.setHere { t with tval := x }
  | 0x23 => s.setHere { t with epc := x }
  | 0x30 => if k.lowRing.isEmpty && k.highRing.isEmpty then s.setCore s.myCore { k with spillb := x } else s
  | 0x31 => s.setCore s.myCore { k with htab := x }
  | _ => s

/-- CTLR of a named register, its checks in the order of the pseudocode (R288). -/
def execCtlr (d : Reg) (n : BitVec 16) (s : State) : Out :=
  let t := s.here
  if t.isPend d.toNat then .next (s.clobber d.toNat)
  else if !ctlNumbers.contains n.toNat then .next (s.trap causeIllegal (wordOf (.ctlr d n)))
  else if supOnly n.toNat && !t.sup then .next (s.trap causeProt (wordOf (.ctlr d n)))
  else .next (s.setHere (t.setS d.toNat (s.ctl n.toNat)).advance)

/-- CTLW of a named register (R288). -/
def execCtlw (d : Reg) (n : BitVec 16) (s : State) : Out :=
  let t := s.here
  if t.srcPend [d] then s.stall
  else if !ctlNumbers.contains n.toNat then .next (s.trap causeIllegal (wordOf (.ctlw d n)))
  else if supOnly n.toNat && !t.sup then .next (s.trap causeProt (wordOf (.ctlw d n)))
  else .next (s.setCtl n.toNat (t.s d.toNat)).done

/-- CTLR on control space, an acquire (R289). -/
def execCtlrSpace (d a : Reg) (o : BitVec 16) (s : State) : Out :=
  let t := s.here
  let ea := t.ea a o
  if !t.sup then .next (s.trap causeProt (wordOf (.ctlrSpace d a o)))
  else if t.srcPend [a] then s.stall
  else if ea % 8 ≠ 0 then .next (s.trap causeAlign (dw ea))
  else match s.creg ea with
    | none => .next (s.trap causeProt (dw ea))
    | some r =>
      if !s.mayRead (.sup s.myCtx s.cur) r then .next (s.trap causeProt (dw ea))
      else if t.isPend d.toNat then .next (s.clobber d.toNat)
      else .next (s.setHere ((t.dropEarly fun _ => true).setS d.toNat (dw (s.cread r))).advance)

/-- CTLW on control space (R289): the checks of the address, then S[d], then a release at DEV and the write. Only for XINV
does the permission depend on the value, which is then read first. A write that kills the context leaves the slot free. -/
def execCtlwSpace (d a : Reg) (o : BitVec 16) (s : State) : Out :=
  let t := s.here
  let ea := t.ea a o
  if !t.sup then .next (s.trap causeProt (wordOf (.ctlwSpace d a o)))
  else if t.srcPend [a] then s.stall
  else if ea % 8 ≠ 0 then .next (s.trap causeAlign (dw ea))
  else match s.creg ea with
    | none => .next (s.trap causeProt (dw ea))
    | some r =>
      let x := t.s d.toNat
      if !s.mayWrite (.sup s.myCtx s.cur) r (dw s.myCtx) then .next (s.trap causeProt (dw ea))
      else if t.srcPend [d] then s.stall
      else if !s.mayWrite (.sup s.myCtx s.cur) r x then .next (s.trap causeProt (dw ea))
      else if t.releaseHeld .dev s.myCore then s.stall
      else
        let s1 := s.cwrite (.sup s.myCtx s.cur) r x
        .next (if s1.here.busy then s1.done else s1)

end Sys2Proof.Machine
end

