-- ==== Sys2Proof/Machine/Upkeep.lean ====
section
/-!
DEFINITION. Writes of the memory system's control registers that have a row of their own, the retention of macros, and
the patrol scrubber (R79, R80, R84, R95, R116, R117, R202, R296).
-/

namespace Sys2Proof.Machine

/-- REGION_LEN (R79, R80). -/
def execRegionLen (c : Option Nat) (n : Nat) (v : Dword) (s : State) : Out := .next (s.writeLen c n v)

/-- CLAIMED (R80). -/
def execClaimed (c : Option Nat) (n : Nat) (v : Dword) (s : State) : Out := .next (s.writeClaim c n v)

/-- CANCEL (R95). -/
def execCancel (f b : Nat) (v : Dword) (s : State) : Out := .next (s.writeStgcan f (b % 32) v)

/-- RETCFG (R117). -/
def execRetcfg (f : Nat) (v : Dword) (s : State) : Out := .next (s.writeRetcfg f v)

/-- REL (R202, R296). -/
def execRel (f : Nat) (v : Dword) (s : State) : Out := .next (s.writeSsown f v)

/-! ## Retention (R116) -/

/-- IDLE_COUNT_EXPIRY: a macro that is awake and not stationary enters retention, unless IDLE is 0. -/
def execIdleCountExpiry (f m : Nat) (s : State) : Out :=
  let y := s.mac f m
  if (s.facet f).idle = 0 || y.st ≠ .data || y.ret ≠ .awake then .next s
  else .next (s.setMac f m { y with ret := .entering, wake := false, waker := none })

/-- ENTERING_END (R116). No rule says whether the re-encoding checks the SECDED codes: DESIGN CHOICE, log 73: it does not, so
that errors that struck the macro while it was awake meet the decoder of EXITING. -/
def execEnteringEnd (f m : Nat) (s : State) : Out :=
  let y := s.mac f m
  if y.ret ≠ .entering then .next s
  else .next (s.setMac f m (if y.wake then { y with ret := .exiting, wake := false } else { y with ret := .retained }))

/-- EXITING_END. -/
def execExitingEnd (f m : Nat) (s : State) : Out :=
  let y := s.mac f m
  if y.ret ≠ .exiting then .next s
  else .next (s.exitRetention f m y.waker)

/-! ## The patrol scrubber (R84) -/

/-- An event of the scrubber: logged without a context and reported to the apex firmware. A repeat of an entry with a
context is reported there too (R303). -/
def State.scrubEvent (s : State) (kind pa : Nat) : State :=
  let s1 := s.logEvent (logOf pa) kind none 1 pa true
  { s1 with apexReports := s1.apexReports ++ [(kind, pa)] }

/-- PATROL_SCRUB: the granule at HBM offset 64·k is read, corrected or marked. -/
def execPatrolScrub (k : Nat) (s : State) : Out :=
  let pa := 64 * k
  match Tbl.get 0 s.latent pa with
  | 0 => .next s
  | 1 => .next ({ s with latent := s.latent.filter (·.1 ≠ pa) }.scrubEvent 6 pa)
  | _ => .next ({ s with latent := s.latent.filter (·.1 ≠ pa), poison := insertNat pa s.poison }.scrubEvent 7 pa)

end Sys2Proof.Machine
end

