-- ==== Sys2Proof/Machine/Vector.lean ====
section
/-!
DEFINITION. The vector instructions (R152 to R170). Each has a definition of its own over the shared lane operations.
-/

namespace Sys2Proof.Machine

/-! ## Shared lane operations -/

/-- A vector instruction without scalar operands: V[d] and the sticky flags are written (R153, R154). -/
def State.vecDone (s : State) (d : Reg) (r : Vec × Fl) : Out :=
  .next (s.setHere (((s.here.setV d.toNat r.1).raise r.2).advance))

/-- The flags of the active lanes below `n` (R154). -/
def laneFlags (p : BitVec 32) (w : Nat) (g : Nat → Nat × Fl) : Nat → Fl
  | 0 => Fl.none
  | n + 1 => if active p n w then (laneFlags p w g n).or (g n).2 else laneFlags p w g n

/-- Active lanes receive a result, inactive ones keep the old value (R153). -/
def vmap (old : Vec) (p : BitVec 32) (w n : Nat) (g : Nat → Nat × Fl) : Vec × Fl :=
  (ofLanes w n fun i => if active p i w then (g i).1 else lane old i w, laneFlags p w g n)

/-- The binary format of a float lane format (R46). -/
def Fmt.bin : Fmt → BinFmt
  | .f16 => b16
  | .i8 | .i32 | .f32 => b32

/-- A lane operation of one or two sources over V[a] and V[b]: `gi` on integer lanes of a width, `gf` on float lanes
(R156, R157). -/
def State.laneOp (s : State) (d a b : Reg) (p : PReg) (f : Fmt) (gi : Nat → Nat → Nat → Nat)
    (gf : BinFmt → Rm → Bool → Nat → Nat → Nat → Nat × Fl) : Out :=
  let t := s.here
  let w := f.width
  let x := t.vreg a.toNat
  let y := t.vreg b.toNat
  let z := t.vreg d.toNat
  s.vecDone d (vmap z (t.preg p.toNat) w f.lanes fun i =>
    if f.isFloat then
      gf (Fmt.bin f) (fpRm t.fpctl) (fpFtz t.fpctl) (lane x i w) (lane y i w) (lane z i w)
    else (gi w (lane x i w) (lane y i w), Fl.none))

/-- A float operation that an integer-only entry does not have. -/
def noFloat (_ : BinFmt) (_ : Rm) (_ : Bool) (_ _ _ : Nat) : Nat × Fl := (0, Fl.none)
/-- An integer operation that a float-only entry does not have. -/
def noInt (_ _ _ : Nat) : Nat := 0

/-- The low w bits of an integer (R156). -/
def wrapInt (w : Nat) (x : Int) : Nat := uint x w

def execVadd (d a b : Reg) (p : PReg) (f : Fmt) (s : State) : Out :=
  s.laneOp d a b p f (fun w x y => wrapInt w (sint x w + sint y w))
    fun F rm ftz x y _ => F.finish rm ftz ((F.decode ftz x).add rm (F.decode ftz y))
def execVsub (d a b : Reg) (p : PReg) (f : Fmt) (s : State) : Out :=
  s.laneOp d a b p f (fun w x y => wrapInt w (sint x w - sint y w))
    fun F rm ftz x y _ => F.finish rm ftz ((F.decode ftz x).add rm (F.decode ftz y).neg)
def execVmul (d a b : Reg) (p : PReg) (f : Fmt) (s : State) : Out :=
  s.laneOp d a b p f (fun w x y => wrapInt w (sint x w * sint y w))
    fun F rm ftz x y _ => F.finish rm ftz ((F.decode ftz x).mul (F.decode ftz y))
def execVfma (d a b : Reg) (p : PReg) (f : Fmt) (s : State) : Out :=
  s.laneOp d a b p f noInt
    fun F rm ftz x y z => F.finish rm ftz ((F.decode ftz x).fma rm (F.decode ftz y) (F.decode ftz z))
def execVmin (d a b : Reg) (p : PReg) (f : Fmt) (s : State) : Out :=
  s.laneOp d a b p f (fun w x y => if sint x w ≤ sint y w then x else y) fun F _ ftz x y _ => F.extreme ftz false x y
def execVmax (d a b : Reg) (p : PReg) (f : Fmt) (s : State) : Out :=
  s.laneOp d a b p f (fun w x y => if sint x w ≤ sint y w then y else x) fun F _ ftz x y _ => F.extreme ftz true x y
def execVabs (d a : Reg) (p : PReg) (f : Fmt) (s : State) : Out :=
  s.laneOp d a 0 p f (fun w x _ => wrapInt w (sint x w).natAbs) fun F _ ftz x _ _ => F.resign ftz false x
def execVneg (d a : Reg) (p : PReg) (f : Fmt) (s : State) : Out :=
  s.laneOp d a 0 p f (fun w x _ => wrapInt w (-(sint x w))) fun F _ ftz x _ _ => F.resign ftz true x
def execVand (d a b : Reg) (p : PReg) (f : Fmt) (s : State) : Out :=
  s.laneOp d a b p f (fun _ x y => x &&& y) noFloat
def execVor (d a b : Reg) (p : PReg) (f : Fmt) (s : State) : Out :=
  s.laneOp d a b p f (fun _ x y => x ||| y) noFloat
def execVxor (d a b : Reg) (p : PReg) (f : Fmt) (s : State) : Out :=
  s.laneOp d a b p f (fun _ x y => x ^^^ y) noFloat
def execVsll (d a b : Reg) (p : PReg) (f : Fmt) (s : State) : Out :=
  s.laneOp d a b p f (fun w x y => x * 2 ^ (y % w) % 2 ^ w) noFloat
def execVsrl (d a b : Reg) (p : PReg) (f : Fmt) (s : State) : Out :=
  s.laneOp d a b p f (fun w x y => x / 2 ^ (y % w)) noFloat
def execVsra (d a b : Reg) (p : PReg) (f : Fmt) (s : State) : Out :=
  s.laneOp d a b p f (fun w x y => wrapInt w (sint x w / 2 ^ (y % w))) noFloat

/-- VSEL writes every lane and copies bits (R153, R154, R156). -/
def execVsel (d a b : Reg) (p : PReg) (f : Fmt) (s : State) : Out :=
  let t := s.here
  let w := f.width
  s.vecDone d (ofLanes w f.lanes fun i =>
    if active (t.preg p.toNat) i w then lane (t.vreg a.toNat) i w else lane (t.vreg b.toNat) i w, Fl.none)

/-- The special functions take neither FTZ nor RM (R158). -/
def execVexp2 (d a : Reg) (p : PReg) (f : Fmt) (s : State) : Out :=
  s.laneOp d a 0 p f noInt fun F _ _ x _ _ => F.vexp2 x
def execVlog2 (d a : Reg) (p : PReg) (f : Fmt) (s : State) : Out :=
  s.laneOp d a 0 p f noInt fun F _ _ x _ _ => F.vlog2 x
def execVrcp (d a : Reg) (p : PReg) (f : Fmt) (s : State) : Out :=
  s.laneOp d a 0 p f noInt fun F _ _ x _ _ => F.vrcp x
def execVrsq (d a : Reg) (p : PReg) (f : Fmt) (s : State) : Out :=
  s.laneOp d a 0 p f noInt fun F _ _ x _ _ => F.vrsq x

/-- VBC: the low lane bits of S[a] to every active lane (R159). -/
def execVbc (d a : Reg) (p : PReg) (f : Fmt) (s : State) : Out :=
  let t := s.here
  if t.srcPend [a] then s.stall
  else s.vecDone d (vmap (t.vreg d.toNat) (t.preg p.toNat) f.width f.lanes fun _ =>
    ((t.s a.toNat).toNat % 2 ^ f.width, Fl.none))

/-! ## Reductions and products (R162 to R164) -/

/-- A vector instruction that writes a scalar register: the destination is checked first (R155). -/
def State.vecScalar (s : State) (d : Reg) (r : Slot → Dword × Fl) : Out :=
  let t := s.here
  if t.isPend d.toNat then .next (s.clobber d.toNat)
  else .next (s.setHere (((t.setS d.toNat (r t).1).raise (r t).2).advance))

/-- One level of the fixed tree: neighbours combine, a hole passes its neighbour on (R162). -/
def treeLevel (g : Nat → Nat → Nat × Fl) : List (Option Nat) → List (Option Nat) × Fl
  | some x :: some y :: t => (some (g x y).1 :: (treeLevel g t).1, (g x y).2.or (treeLevel g t).2)
  | some x :: none :: t => (some x :: (treeLevel g t).1, (treeLevel g t).2)
  | none :: y :: t => (y :: (treeLevel g t).1, (treeLevel g t).2)
  | [x] => ([x], Fl.none)
  | [] => ([], Fl.none)

/-- The fixed tree over lanes, five levels being enough for 32 (R162): the root, none where every lane is a hole. -/
def tree (g : Nat → Nat → Nat × Fl) : Nat → List (Option Nat) → Option Nat × Fl
  | 0, l => (l.headD none, Fl.none)
  | n + 1, l =>
    let r := treeLevel g l
    let q := tree g n r.1
    (q.1, r.2.or q.2)

/-- The leaves of a float reduction: the active lanes as read (R162). -/
def leaves (F : BinFmt) (ftz : Bool) (p : BitVec 32) (w n : Nat) (x : Vec) : List (Option Nat) :=
  (List.range n).map fun i => if active p i w then some (F.asRead ftz (lane x i w)) else none

/-- A float reduction: the tree, a leaf that arrives alone made canonical, the value where no lane is active (R162,
R163). -/
def reduceFloat (F : BinFmt) (ftz : Bool) (g : Nat → Nat → Nat × Fl) (l : List (Option Nat)) (empty : Nat) :
    Dword × Fl :=
  match tree g 5 l with
  | (none, _) => (dw empty, Fl.none)
  | (some x, fl) => (dw (F.leaf ftz x).1, fl.or (F.leaf ftz x).2)

/-- The rounded sum of a node (R162). -/
def nodeAdd (F : BinFmt) (rm : Rm) (ftz : Bool) (x y : Nat) : Nat × Fl :=
  F.finish rm ftz ((F.decode ftz x).add rm (F.decode ftz y))

/-- The active lanes of a register as signed integers. -/
def activeInts (p : BitVec 32) (w n : Nat) (x : Vec) : List Int :=
  (List.range n).filterMap fun i => if active p i w then some (sint (lane x i w) w) else none

def execVredAdd (d a : Reg) (p : PReg) (f : Fmt) (s : State) : Out :=
  s.vecScalar d fun t =>
    let x := t.vreg a.toNat
    let q := t.preg p.toNat
    if f.isFloat then
      let F := Fmt.bin f
      reduceFloat F (fpFtz t.fpctl) (nodeAdd F (fpRm t.fpctl) (fpFtz t.fpctl))
        (leaves F (fpFtz t.fpctl) q f.width f.lanes x) 0
    else int32Sum (fpIsat t.fpctl) (activeInts q f.width f.lanes x).sum

/-- VRED.MIN and VRED.MAX (R163). -/
def State.vredExtreme (s : State) (d a : Reg) (p : PReg) (f : Fmt) (greater : Bool) : Out :=
  s.vecScalar d fun t =>
    let x := t.vreg a.toNat
    let q := t.preg p.toNat
    if f.isFloat then
      let F := Fmt.bin f
      reduceFloat F (fpFtz t.fpctl) (F.extreme (fpFtz t.fpctl) greater)
        (leaves F (fpFtz t.fpctl) q f.width f.lanes x) (F.infBits greater)
    else
      let worst : Int := if greater then -(2 ^ (f.width - 1)) else 2 ^ (f.width - 1) - 1
      (BitVec.ofInt 64 ((activeInts q f.width f.lanes x).foldl
        (fun m y => if greater then (if m < y then y else m) else if y < m then y else m) worst), Fl.none)

def execVredMin (d a : Reg) (p : PReg) (f : Fmt) (s : State) : Out := s.vredExtreme d a p f false
def execVredMax (d a : Reg) (p : PReg) (f : Fmt) (s : State) : Out := s.vredExtreme d a p f true

/-- The leaf of a float product: Round(X · Y) in binary32 (R164). -/
def dotLeaf (F : BinFmt) (rm : Rm) (ftz : Bool) (x y : Nat) : Nat × Fl :=
  b32.finish rm ftz ((F.decode ftz x).mul (F.decode ftz y))

def execVdot (d a b : Reg) (p : PReg) (f : Fmt) (s : State) : Out :=
  s.vecScalar d fun t =>
    let x := t.vreg a.toNat
    let y := t.vreg b.toNat
    let q := t.preg p.toNat
    let w := f.width
    if f.isFloat then
      let rm := fpRm t.fpctl
      let ftz := fpFtz t.fpctl
      let g i := dotLeaf (Fmt.bin f) rm ftz (lane x i w) (lane y i w)
      let r := reduceFloat b32 ftz (nodeAdd b32 rm ftz)
        ((List.range f.lanes).map fun i => if active q i w then some (g i).1 else none) 0
      (r.1, (laneFlags q w g f.lanes).or r.2)
    else
      int32Sum (fpIsat t.fpctl) ((List.range f.lanes).map fun i =>
        if active q i w then sint (lane x i w) w * sint (lane y i w) w else 0).sum

def execVsqd (d a b : Reg) (p : PReg) (s : State) : Out :=
  s.vecScalar d fun t =>
    let x := t.vreg a.toNat
    let y := t.vreg b.toNat
    int32Sum (fpIsat t.fpctl) ((List.range 32).map fun i =>
      if active (t.preg p.toNat) i 8 then
        (sint (lane x i 8) 8 - sint (lane y i 8) 8) * (sint (lane x i 8) 8 - sint (lane y i 8) 8)
      else 0).sum

/-! ## Compares and conversions (R160, R161) -/

/-- The result of a condition on integer lanes. -/
def cmpInt (c : Cond) (w x y : Nat) : Bool :=
  match c with
  | .eq => x == y
  | .ne => x != y
  | .lt => sint x w < sint y w
  | .le => sint x w ≤ sint y w
  | .gt => sint y w < sint x w
  | .ge => sint y w ≤ sint x w
  | .ltz => x < y
  | .lez => x ≤ y
  | .gtz => y < x
  | .gez => y ≤ x
  | .un => false

/-- The result and the flags of a condition on float lanes (R160). -/
def cmpFloat (c : Cond) (x y : Val) : Bool × Fl :=
  if x.isNan || y.isNan then
    match c with
    | .eq => (false, sigFl (x.isSig || y.isSig))
    | .ne | .un => (true, sigFl (x.isSig || y.isSig))
    | .lt | .le | .gt | .ge | .ltz | .lez | .gtz | .gez => (false, Fl.invalid)
  else
    (match c, cmpVal x y with
      | .eq, .eq | .ne, .lt | .ne, .gt | .lt, .lt | .le, .lt | .le, .eq | .gt, .gt | .ge, .gt | .ge, .eq => true
      | _, _ => false, Fl.none)

/-- A predicate whose byte groups of `w/8` bits hold the results of the lanes below `n`. -/
def predOf (w : Nat) (g : Nat → Bool) : Nat → Nat
  | 0 => 0
  | n + 1 => predOf w g n + (if g n then (2 ^ (w / 8) - 1) * 2 ^ (n * (w / 8)) else 0)

def execVcmp (d a b : Reg) (p : PReg) (f : Fmt) (c : Cond) (s : State) : Out :=
  let t := s.here
  let w := f.width
  let q := t.preg p.toNat
  let x i := lane (t.vreg a.toNat) i w
  let y i := lane (t.vreg b.toNat) i w
  let F := Fmt.bin f
  let g i : Bool × Fl :=
    if f.isFloat then cmpFloat c (F.decode (fpFtz t.fpctl) (x i)) (F.decode (fpFtz t.fpctl) (y i))
    else (cmpInt c w (x i) (y i), Fl.none)
  let r := BitVec.ofNat 32 (predOf w (fun i => active q i w && (g i).1) f.lanes)
  .next (s.setHere (((t.setP d.toNat r).raise (laneFlags q w (fun i => (0, (g i).2)) f.lanes)).advance))

def execVcvt (d a : Reg) (p : PReg) (src dst : NFmt) (s : State) : Out :=
  let t := s.here
  let ws := nfWidth src
  let wd := nfWidth dst
  let n := 256 / max ws wd
  let q := t.preg p.toNat
  let g i := convert src dst (fpRm t.fpctl) (fpFtz t.fpctl) (lane (t.vreg a.toNat) i ws)
  s.vecDone d (vmap (t.vreg d.toNat) q wd n g)

/-! ## Cross-lane operations (R165 to R167) -/

def execVxl (d a b : Reg) (p : PReg) (f : Fmt) (s : State) : Out :=
  let t := s.here
  let w := f.width
  s.vecDone d (vmap (t.vreg d.toNat) (t.preg p.toNat) w f.lanes fun i =>
    let j := lane (t.vreg b.toNat) i w
    (if j < f.lanes then lane (t.vreg a.toNat) j w else 0, Fl.none))

/-- The source lane of a pattern (R166). -/
def permLane (n l i : Nat) : Nat :=
  match n with
  | 0 => i
  | 1 => l - 1 - i
  | 7 => (i + 1) % l
  | 8 => (i + l - 1) % l
  | 9 => if i < l / 2 then 2 * i else 2 * (i - l / 2) + 1
  | 10 => if i % 2 = 0 then i / 2 else l / 2 + (i - 1) / 2
  | 11 => 0
  | n => i ^^^ 2 ^ (n - 2)

def execVperm (d a n : Reg) (p : PReg) (f : Fmt) (s : State) : Out :=
  let t := s.here
  let w := f.width
  s.vecDone d (vmap (t.vreg d.toNat) (t.preg p.toNat) w f.lanes fun i =>
    (lane (t.vreg a.toNat) (permLane n.toNat f.lanes i) w, Fl.none))

/-- Whether a lane counts for VNZS: a float lane is read under FTZ (R167). -/
def nonZero (f : Fmt) (ftz : Bool) (x : Nat) : Bool :=
  if f.isFloat then (Fmt.bin f).asRead ftz x % (Fmt.bin f).signBit ≠ 0 else x ≠ 0

def execVnzs (d a b : Reg) (p : PReg) (f : Fmt) (s : State) : Out :=
  let t := s.here
  let w := f.width
  if t.isPend b.toNat then .next (s.clobber b.toNat)
  else
    let hits := (List.range f.lanes).filter fun i =>
      active (t.preg p.toNat) i w && nonZero f (fpFtz t.fpctl) (lane (t.vreg a.toNat) i w)
    .next (s.setHere (((t.setV d.toNat (ofLanes w f.lanes fun i => hits.getD i 0)).setS b.toNat
      (dw hits.length)).advance))

/-! ## Gather, scatter and strided loads (R109, R168 to R170) -/

/-- What the checks of a list of lanes come to: an outcome, or each lane's number, address and place. -/
inductive Lanes where
  | out (s : State)
  | ok (l : List (Nat × Nat × Place))
deriving DecidableEq, Repr

/-- The lanes checked in order, each for alignment and translation, before any access. -/
def State.checkLanes (s : State) (k : Kind) (near : Bool) (w : Nat) : List (Nat × Nat) → Lanes
  | [] => .ok []
  | (i, ea) :: t =>
    if ea % w ≠ 0 then .out (s.trap causeAlign (dw ea))
    else match s.look k near ea with
      | .trap code => .out (s.trap code (dw ea))
      | .wait => .out (s.waitOn ea)
      | .ok p => match s.checkLanes k near w t with
        | .ok l => .ok ((i, ea, p) :: l)
        | .out s' => .out s'

/-- One lane read: what an early load of it read, or its access now (R222, R225); the state after its code was checked,
its value, whether it met poison. -/
def State.readLane (s : State) (w : Nat) (p : Place) : State × Nat × Bool :=
  match s.here.takeEarly p w false with
  | some (b, t) => (s.setHere t, ofBytes b, false)
  | none =>
    let s1 := s.touch s.myCtx p.pa w
    (s1.passEarly p w false, s1.rdNat p w, s1.poisoned p.pa w)

/-- The lanes read: the state after it, the value of each, and the lanes that met poison with their addresses. -/
def State.readLanes (s : State) (w : Nat) : List (Nat × Nat × Place) → State × List (Nat × Nat) × List (Nat × Nat)
  | [] => (s, [], [])
  | (i, ea, p) :: t =>
    let x := s.readLane w p
    let r := x.1.readLanes w t
    (r.1, (i, x.2.1) :: r.2.1, if x.2.2 then (i, ea) :: r.2.2 else r.2.2)

/-- The address that TVAL names of the lanes that met poison: the lowest address for VLDS (R109), that of the lowest lane
for VGTH (R169). -/
def poisonTval (near : Bool) (l : List (Nat × Nat)) : Option Nat :=
  if near then (l.map (·.2)).min? else (l.head?).map (·.2)

/-- The value read for lane `i`. -/
def laneVal (l : List (Nat × Nat)) (i : Nat) : Nat := Tbl.get 0 l i

/-- The lowest of the addresses that lie on an unreachable device, if any (R318). -/
def State.lowestCut (s : State) (l : List (Nat × Nat × Place)) : Option Nat :=
  ((l.filter fun x => s.cutOff x.2.2.pa).map fun x => x.2.1).min?

/-- A vector load by lanes: checks, watchpoints, waits, reads, poison; then V[d] is what `r` makes of the values. No rule orders
the PROT of a lane toward an unreachable device (R318) and the POISON of another lane (R169): DESIGN CHOICE, log 52: PROT
comes first. -/
def State.loadLanes (s : State) (near : Bool) (w : Nat) (l : List (Nat × Nat)) (d : Reg)
    (r : List (Nat × Nat) → Vec) : Out :=
  if s.here.fencedLoad s.myCore then s.stall
  else match s.checkLanes .load near w l with
  | .out s' => .next s'
  | .ok ps =>
    match ps.find? (fun x => s.here.watched 0 x.2.1 w) with
    | some x => .next (s.trap causeWatch (dw x.2.1))
    | none =>
      if ps.any (fun x => s.here.loadHeld s.myCore x.2.1 x.2.2.pa w || s.arrivalAhead s.cur x.2.2.pa w) then s.stall
      else if let some ea := s.lowestCut ps then .next (s.trap causeProt (dw ea))
      else match ps.find? (fun x => s.asleep x.2.2.pa) with
        | some x => .next (s.rouse s.myCtx x.2.2.pa)
        | none =>
          let q := s.readLanes w ps
          match poisonTval near q.2.2 with
          | some ea => .next (q.1.trap causePoison (dw ea))
          | none => .next (q.1.setHere ((q.1.here.setV d.toNat (r q.2.1)).advance))

/-- VLDS: 16 half lanes or 8 word lanes at a signed stride (R109). -/
def State.vlds (s : State) (d a b : Reg) (w n : Nat) : Out :=
  let t := s.here
  if t.srcPend [a, b] then s.stall
  else s.loadLanes true w
    ((List.range n).map fun i => (i, (t.s a.toNat + dw i * t.s b.toNat).toNat)) d
    fun vals => ofLanes (8 * w) n (laneVal vals)

def execVldsH (d a b : Reg) (s : State) : Out := s.vlds d a b 2 16
def execVldsW (d a b : Reg) (s : State) : Out := s.vlds d a b 4 8

/-- The active lanes and their element addresses (R168). -/
def Slot.laneAddrs (t : Slot) (a b : Reg) (p : PReg) (f : Fmt) : List (Nat × Nat) :=
  (List.range f.lanes).filterMap fun i =>
    if active (t.preg p.toNat) i f.width then
      some (i, ((t.s a.toNat).toNat + f.width / 8 * lane (t.vreg b.toNat) i f.width) % 2 ^ 64)
    else none

def execVgth (d a b : Reg) (p : PReg) (f : Fmt) (s : State) : Out :=
  let t := s.here
  if t.srcPend [a] then s.stall
  else s.loadLanes false (f.width / 8) (t.laneAddrs a b p f) d fun vals =>
    ofLanes f.width f.lanes fun i =>
      if active (t.preg p.toNat) i f.width then laneVal vals i else lane (t.vreg d.toNat) i f.width

/-- Lanes written in ascending order. -/
def State.writeLanes (s : State) (x : Vec) (w : Nat) (l : List (Nat × Nat × Place)) : State :=
  l.foldl (fun s e => s.write s.myCtx e.2.2 (toBytes (lane x e.1 w) (w / 8))) s

/-- The committed writes of a VSCT on their way, in ascending lane order: two lanes of one destination keep that order
(R168, R170). -/
def State.pushLanes (s : State) (x : Vec) (w : Nat) (l : List (Nat × Nat × Place)) : State :=
  l.foldl (fun s e =>
    s.pushStore (.store s.tick e.2.1 (some e.2.2) (toBytes (lane x e.1 w) (w / 8)) .lane s.here.sup)) s

/-- The lanes whose writes were performed when a scatter met an unreachable device: any of them, and none where an owner that
can answer refuses one (R170, R318, log 20). -/
def State.cutLanes (s : State) (l : List (Nat × Nat × Place)) : List (Nat × Nat × Place) :=
  if l.any fun e => s.stationaryAt e.2.2.pa then []
  else l.filter fun e => Config.freePick s.tick (20 + e.1) % 2 = 1

/-- VSCT: the checks, the answers of the owners, the commit (R168, R170). It waits for every answer: where a lane's owner cannot
answer the instruction takes PROT (R318), whatever the others answer (DESIGN CHOICE, log 52), and where no route leads to one
it waits; then a lane that is refused takes STATIONARY_WRITE. -/
def execVsct (d a b : Reg) (p : PReg) (f : Fmt) (s : State) : Out :=
  let t := s.here
  let w := f.width / 8
  if t.srcPend [a] || t.fencedStore s.myCore then s.stall
  else match s.checkLanes .store false w (t.laneAddrs a b p f) with
    | .out s' => .next s'
    | .ok ps =>
      match ps.find? (fun x => t.watched 1 x.2.1 w) with
      | some x => .next (s.trap causeWatch (dw x.2.1))
      | none =>
        if ps.any (fun x => s.writeHeld s.cur x.2.1 x.2.2.pa w) then s.stall
        else match s.lowestCut ps with
          | some ea => .next ((s.writeLanes (t.vreg d.toNat) f.width (s.cutLanes ps)).trap causeProt (dw ea))
          | none =>
            match ps.find? (fun x => s.asleep x.2.2.pa) with
            | some x => .next (s.rouse s.myCtx x.2.2.pa)
            | none =>
              match ps.find? (fun x => s.stationaryAt x.2.2.pa) with
              | some x => .next (s.trap causeStationary (dw x.2.1))
              | none => .next (s.pushLanes (t.vreg d.toNat) f.width ps).done

end Sys2Proof.Machine
end

