-- ==== Sys2Proof/Machine/Dispatch.lean ====
section
/-!
DEFINITION. One arm per instruction and per step of the device: a direct call of its meaning.
-/

namespace Sys2Proof.Machine

open Sys2Proof

def exec (i : Instr) (s : State) : Host.Outcome State Fault Refusal :=
  match i with
  | .add d a b => Sys2Proof.Machine.execAdd d a b s
  | .sub d a b => Sys2Proof.Machine.execSub d a b s
  | .and d a b => Sys2Proof.Machine.execAnd d a b s
  | .or d a b => Sys2Proof.Machine.execOr d a b s
  | .xor d a b => Sys2Proof.Machine.execXor d a b s
  | .andn d a b => Sys2Proof.Machine.execAndn d a b s
  | .sll d a b => Sys2Proof.Machine.execSll d a b s
  | .srl d a b => Sys2Proof.Machine.execSrl d a b s
  | .sra d a b => Sys2Proof.Machine.execSra d a b s
  | .slt d a b => Sys2Proof.Machine.execSlt d a b s
  | .sltZ d a b => Sys2Proof.Machine.execSltZ d a b s
  | .seq d a b => Sys2Proof.Machine.execSeq d a b s
  | .min d a b => Sys2Proof.Machine.execMin d a b s
  | .max d a b => Sys2Proof.Machine.execMax d a b s
  | .minZ d a b => Sys2Proof.Machine.execMinZ d a b s
  | .maxZ d a b => Sys2Proof.Machine.execMaxZ d a b s
  | .mul d a b => Sys2Proof.Machine.execMul d a b s
  | .mulh d a b => Sys2Proof.Machine.execMulh d a b s
  | .mulhZ d a b => Sys2Proof.Machine.execMulhZ d a b s
  | .div d a b => Sys2Proof.Machine.execDiv d a b s
  | .divZ d a b => Sys2Proof.Machine.execDivZ d a b s
  | .rem d a b => Sys2Proof.Machine.execRem d a b s
  | .remZ d a b => Sys2Proof.Machine.execRemZ d a b s
  | .clz d a => Sys2Proof.Machine.execClz d a s
  | .popc d a => Sys2Proof.Machine.execPopc d a s
  | .addImm d a imm => Sys2Proof.Machine.execAddImm d a imm s
  | .andImm d a imm => Sys2Proof.Machine.execAndImm d a imm s
  | .orImm d a imm => Sys2Proof.Machine.execOrImm d a imm s
  | .xorImm d a imm => Sys2Proof.Machine.execXorImm d a imm s
  | .sltImm d a imm => Sys2Proof.Machine.execSltImm d a imm s
  | .sltZImm d a imm => Sys2Proof.Machine.execSltZImm d a imm s
  | .li d imm => Sys2Proof.Machine.execLi d imm s
  | .lsi d a imm => Sys2Proof.Machine.execLsi d a imm s
  | .sllImm d a n => Sys2Proof.Machine.execSllImm d a n s
  | .srlImm d a n => Sys2Proof.Machine.execSrlImm d a n s
  | .sraImm d a n => Sys2Proof.Machine.execSraImm d a n s
  | .jal d o => Sys2Proof.Machine.execJal d o s
  | .jalr d a imm => Sys2Proof.Machine.execJalr d a imm s
  | .beq a b o => Sys2Proof.Machine.execBeq a b o s
  | .bne a b o => Sys2Proof.Machine.execBne a b o s
  | .blt a b o => Sys2Proof.Machine.execBlt a b o s
  | .bge a b o => Sys2Proof.Machine.execBge a b o s
  | .bltZ a b o => Sys2Proof.Machine.execBltZ a b o s
  | .bgeZ a b o => Sys2Proof.Machine.execBgeZ a b o s
  | .nop => Sys2Proof.Machine.execNop s
  | .endTask => Sys2Proof.Machine.execEndTask s
  | .eret => Sys2Proof.Machine.execEret s
  | .ifence => Sys2Proof.Machine.execIfence s
  | .waiti => Sys2Proof.Machine.execWaiti s
  | .codepub d a b => Sys2Proof.Machine.execCodepub d a b s
  | .trap n => Sys2Proof.Machine.execTrap n s
  | .ldB d a o => Sys2Proof.Machine.execLdB d a o s
  | .ldH d a o => Sys2Proof.Machine.execLdH d a o s
  | .ldW d a o => Sys2Proof.Machine.execLdW d a o s
  | .ldD d a o => Sys2Proof.Machine.execLdD d a o s
  | .ldBz d a o => Sys2Proof.Machine.execLdBz d a o s
  | .ldHz d a o => Sys2Proof.Machine.execLdHz d a o s
  | .ldWz d a o => Sys2Proof.Machine.execLdWz d a o s
  | .stB d a o => Sys2Proof.Machine.execStB d a o s
  | .stH d a o => Sys2Proof.Machine.execStH d a o s
  | .stW d a o => Sys2Proof.Machine.execStW d a o s
  | .stD d a o => Sys2Proof.Machine.execStD d a o s
  | .vld d a o => Sys2Proof.Machine.execVld d a o s
  | .vst d a o => Sys2Proof.Machine.execVst d a o s
  | .ldaW d a => Sys2Proof.Machine.execLdaW d a s
  | .ldaD d a => Sys2Proof.Machine.execLdaD d a s
  | .stlW d a => Sys2Proof.Machine.execStlW d a s
  | .stlD d a => Sys2Proof.Machine.execStlD d a s
  | .vldsH d a b => Sys2Proof.Machine.execVldsH d a b s
  | .vldsW d a b => Sys2Proof.Machine.execVldsW d a b s
  | .tagl d a => Sys2Proof.Machine.execTagl d a s
  | .tags a b => Sys2Proof.Machine.execTags a b s
  | .tagi a => Sys2Proof.Machine.execTagi a s
  | .retx a => Sys2Proof.Machine.execRetx a s
  | .amoAdd d a b c o z => Sys2Proof.Machine.execAmoAdd d a b c o z s
  | .amoAnd d a b c o z => Sys2Proof.Machine.execAmoAnd d a b c o z s
  | .amoOr d a b c o z => Sys2Proof.Machine.execAmoOr d a b c o z s
  | .amoXor d a b c o z => Sys2Proof.Machine.execAmoXor d a b c o z s
  | .amoMin d a b c o z => Sys2Proof.Machine.execAmoMin d a b c o z s
  | .amoMax d a b c o z => Sys2Proof.Machine.execAmoMax d a b c o z s
  | .amoMinZ d a b c o z => Sys2Proof.Machine.execAmoMinZ d a b c o z s
  | .amoMaxZ d a b c o z => Sys2Proof.Machine.execAmoMaxZ d a b c o z s
  | .amoXchg d a b c o z => Sys2Proof.Machine.execAmoXchg d a b c o z s
  | .amoCas d a b c o z => Sys2Proof.Machine.execAmoCas d a b c o z s
  | .amoFaddF32 d a b c o => Sys2Proof.Machine.execAmoFaddF32 d a b c o s
  | .amoXadd d a b c o => Sys2Proof.Machine.execAmoXadd d a b c o s
  | .fence k src => Sys2Proof.Machine.execFence k src s
  | .fenceX => Sys2Proof.Machine.execFenceX s
  | .vadd d a b p f => Sys2Proof.Machine.execVadd d a b p f s
  | .vsub d a b p f => Sys2Proof.Machine.execVsub d a b p f s
  | .vmul d a b p f => Sys2Proof.Machine.execVmul d a b p f s
  | .vfma d a b p f => Sys2Proof.Machine.execVfma d a b p f s
  | .vmin d a b p f => Sys2Proof.Machine.execVmin d a b p f s
  | .vmax d a b p f => Sys2Proof.Machine.execVmax d a b p f s
  | .vabs d a p f => Sys2Proof.Machine.execVabs d a p f s
  | .vneg d a p f => Sys2Proof.Machine.execVneg d a p f s
  | .vand d a b p f => Sys2Proof.Machine.execVand d a b p f s
  | .vor d a b p f => Sys2Proof.Machine.execVor d a b p f s
  | .vxor d a b p f => Sys2Proof.Machine.execVxor d a b p f s
  | .vsll d a b p f => Sys2Proof.Machine.execVsll d a b p f s
  | .vsrl d a b p f => Sys2Proof.Machine.execVsrl d a b p f s
  | .vsra d a b p f => Sys2Proof.Machine.execVsra d a b p f s
  | .vsel d a b p f => Sys2Proof.Machine.execVsel d a b p f s
  | .vexp2 d a p f => Sys2Proof.Machine.execVexp2 d a p f s
  | .vlog2 d a p f => Sys2Proof.Machine.execVlog2 d a p f s
  | .vrcp d a p f => Sys2Proof.Machine.execVrcp d a p f s
  | .vrsq d a p f => Sys2Proof.Machine.execVrsq d a p f s
  | .vbc d a p f => Sys2Proof.Machine.execVbc d a p f s
  | .vredAdd d a p f => Sys2Proof.Machine.execVredAdd d a p f s
  | .vredMin d a p f => Sys2Proof.Machine.execVredMin d a p f s
  | .vredMax d a p f => Sys2Proof.Machine.execVredMax d a p f s
  | .vdot d a b p f => Sys2Proof.Machine.execVdot d a b p f s
  | .vsqd d a b p => Sys2Proof.Machine.execVsqd d a b p s
  | .vcmp d a b p f c => Sys2Proof.Machine.execVcmp d a b p f c s
  | .vcvt d a p src t => Sys2Proof.Machine.execVcvt d a p src t s
  | .vxl d a b p f => Sys2Proof.Machine.execVxl d a b p f s
  | .vperm d a n p f => Sys2Proof.Machine.execVperm d a n p f s
  | .vnzs d a b p f => Sys2Proof.Machine.execVnzs d a b p f s
  | .vgth d a b p f => Sys2Proof.Machine.execVgth d a b p f s
  | .vsct d a b p f => Sys2Proof.Machine.execVsct d a b p f s
  | .enq a q => Sys2Proof.Machine.execEnq a q s
  | .deq d q => Sys2Proof.Machine.execDeq d q s
  | .wtok a => Sys2Proof.Machine.execWtok a s
  | .tokq d a => Sys2Proof.Machine.execTokq d a s
  | .mvm d a => Sys2Proof.Machine.execMvm d a s
  | .send d a => Sys2Proof.Machine.execSend d a s
  | .sendh d a => Sys2Proof.Machine.execSendh d a s
  | .spawn d => Sys2Proof.Machine.execSpawn d s
  | .jinit a b => Sys2Proof.Machine.execJinit a b s
  | .arrive a => Sys2Proof.Machine.execArrive a s
  | .arriveRlx a => Sys2Proof.Machine.execArriveRlx a s
  | .susp o => Sys2Proof.Machine.execSusp o s
  | .migr a o => Sys2Proof.Machine.execMigr a o s
  | .ixnew d a => Sys2Proof.Machine.execIxnew d a s
  | .ixdel d a => Sys2Proof.Machine.execIxdel d a s
  | .stv d a b => Sys2Proof.Machine.execStv d a b s
  | .ldn d a b => Sys2Proof.Machine.execLdn d a b s
  | .ixstat d a => Sys2Proof.Machine.execIxstat d a s
  | .ctlr d n => Sys2Proof.Machine.execCtlr d n s
  | .ctlrSpace d a o => Sys2Proof.Machine.execCtlrSpace d a o s
  | .ctlw d n => Sys2Proof.Machine.execCtlw d n s
  | .ctlwSpace d a o => Sys2Proof.Machine.execCtlwSpace d a o s
  | .cpy u => Sys2Proof.Machine.execCpy u s
  | .cpyg u => Sys2Proof.Machine.execCpyg u s
  | .cpys u => Sys2Proof.Machine.execCpys u s
  | .cpyf u => Sys2Proof.Machine.execCpyf u s
  | .stga u => Sys2Proof.Machine.execStga u s
  | .delivery u e k mx => Sys2Proof.Machine.execDelivery u e k mx s
  | .tlw u => Sys2Proof.Machine.execTlw u s
  | .trel u => Sys2Proof.Machine.execTrel u s
  | .tmm u => Sys2Proof.Machine.execTmm u s
  | .tmmb u => Sys2Proof.Machine.execTmmb u s
  | .tacz u => Sys2Proof.Machine.execTacz u s
  | .tacs u => Sys2Proof.Machine.execTacs u s
  | .tdot u => Sys2Proof.Machine.execTdot u s
  | .sseed u => Sys2Proof.Machine.execSseed u s
  | .sgen u => Sys2Proof.Machine.execSgen u s
  | .sand u => Sys2Proof.Machine.execSand u s
  | .sor u => Sys2Proof.Machine.execSor u s
  | .smux u => Sys2Proof.Machine.execSmux u s
  | .snot u => Sys2Proof.Machine.execSnot u s
  | .sreg u => Sys2Proof.Machine.execSreg u s
  | .scnt u => Sys2Proof.Machine.execScnt u s
  | .indexCreate u k => Sys2Proof.Machine.execIndexCreate u k s
  | .indexDelete u k => Sys2Proof.Machine.execIndexDelete u k s
  | .indexStatus u k => Sys2Proof.Machine.execIndexStatus u k s
  | .insert u k => Sys2Proof.Machine.execInsert u k s
  | .acceptance u k => Sys2Proof.Machine.execAcceptance u k s
  | .ixoPush u k => Sys2Proof.Machine.execIxoPush u k s
  | .perform u k => Sys2Proof.Machine.execPerform u k s
  | .walk w => Sys2Proof.Machine.execWalk w s
  | .walkResult w k => Sys2Proof.Machine.execWalkResult w k s
  | .xinv v => Sys2Proof.Machine.execXinv v s
  | .invalidationDone => Sys2Proof.Machine.execInvalidationDone s
  | .regionLen c n v => Sys2Proof.Machine.execRegionLen c n v s
  | .claimed c n v => Sys2Proof.Machine.execClaimed c n v s
  | .cancel f b v => Sys2Proof.Machine.execCancel f b v s
  | .retcfg f v => Sys2Proof.Machine.execRetcfg f v s
  | .idleCountExpiry f m => Sys2Proof.Machine.execIdleCountExpiry f m s
  | .enteringEnd f m => Sys2Proof.Machine.execEnteringEnd f m s
  | .exitingEnd f m => Sys2Proof.Machine.execExitingEnd f m s
  | .patrolScrub k => Sys2Proof.Machine.execPatrolScrub k s
  | .rel f v => Sys2Proof.Machine.execRel f v s
  | .lqctl q v => Sys2Proof.Machine.execLqctl q v s
  | .launch k => Sys2Proof.Machine.execLaunch k s
  | .launchForward q => Sys2Proof.Machine.execLaunchForward q s
  | .messageArrival k => Sys2Proof.Machine.execMessageArrival k s
  | .dispatch g => Sys2Proof.Machine.execDispatch g s
  | .stealRequest g => Sys2Proof.Machine.execStealRequest g s
  | .steal g => Sys2Proof.Machine.execSteal g s
  | .stealReply g => Sys2Proof.Machine.execStealReply g s
  | .stealWaitExpiry g => Sys2Proof.Machine.execStealWaitExpiry g s
  | .keyRequest k => Sys2Proof.Machine.execKeyRequest k s
  | .keyRelease k => Sys2Proof.Machine.execKeyRelease k s
  | .joinArrival k => Sys2Proof.Machine.execJoinArrival k s
  | .increment k => Sys2Proof.Machine.execIncrement k s
  | .trapEntry u => Sys2Proof.Machine.execTrapEntry u s
  | .preempt c => Sys2Proof.Machine.execPreempt c s
  | .kill c => Sys2Proof.Machine.execKill c s
  | .free c => Sys2Proof.Machine.execFree c s
  | .sliceExpiry c => Sys2Proof.Machine.execSliceExpiry c s
  | .switchOut c => Sys2Proof.Machine.execSwitchOut c s
  | .placement c => Sys2Proof.Machine.execPlacement c s
  | .unreachable d => Sys2Proof.Machine.execUnreachable d s
  | .adapterBulk d wr h o n data => Sys2Proof.Machine.execAdapterBulk d wr h o n data s
  | .reset b => Sys2Proof.Machine.execReset b s
  | .railFault => Sys2Proof.Machine.execRailFault s
  | .throttle => Sys2Proof.Machine.execThrottle s
  | .trip => Sys2Proof.Machine.execTrip s
  | .session nonce key sig => Sys2Proof.Machine.execSession nonce key sig s
  | .mgmtControlAccess wr a v => Sys2Proof.Machine.execMgmtControlAccess wr a v s
  | .mgmtHbmAccess wr a n data => Sys2Proof.Machine.execMgmtHbmAccess wr a n data s
  | .attestation nonce => Sys2Proof.Machine.execAttestation nonce s
  | .imageLoad c img => Sys2Proof.Machine.execImageLoad c img s
  | .svnRaise v => Sys2Proof.Machine.execSvnRaise v s
  | .keySlotLoad c => Sys2Proof.Machine.execKeySlotLoad c s
  | .keySlotReplace c => Sys2Proof.Machine.execKeySlotReplace c s
  | .registerWrite a v => Sys2Proof.Machine.execRegisterWrite a v s
  | .illegalWord w => Sys2Proof.Machine.execIllegalWord w s
  | .codepubRequest k => Sys2Proof.Machine.execCodepubRequest k s
  | .routeWrite d ports => Sys2Proof.Machine.execRouteWrite d ports s
  | .throttleEnd => Sys2Proof.Machine.execThrottleEnd s

end Sys2Proof.Machine
end

