-- ==== Sys2Proof/Machine/Fetch.lean ====
section
/-!
DEFINITION. What a turn does around an instruction: whether a slot may issue, the fetch of its word, the turns that come
from outside (R34, R67, R85, R115, R129, R280, R281, R290, R292, R293).
-/

namespace Sys2Proof.Machine

/-- Whether slot `u` may issue: the device is up, the slot holds a task of a running context that is not halted, and S3 of its
core, which goes first, is itself or free (R280, R281, R321). -/
def State.mayIssue (s : State) (u : Nat) : Bool :=
  s.power == .up
    && (match (s.facet (u / 256)).ctx with
      | some c => (s.ctx c).st = .running && !(s.ctx c).halt
      | none => false)
    && (s.slot u).busy && (u % 4 == 3 || !(s.slot (4 * (u / 4) + 3)).busy)

/-- What the fetch of slot `cur` comes to: a state in which it waits or has trapped, or the word. -/
inductive Fetch where
  | out (s : State)
  | word (s : State) (w : Word)
deriving DecidableEq, Repr

/-- The line of an instruction cache that holds an address of a context. -/
def Core.line (k : Core) (c pa : Nat) : Option ICLine := k.icache.find? fun l => l.ctx = c && l.pa = pa / 64 * 64

/-- The 32 bytes of a fetch block as slot, instruction cache and memory hold them, the copies that exist (R129). -/
def State.blocks (s : State) (p : Place) : List (List Byte) :=
  let c := s.myCtx
  let base := p.pa / 32 * 32
  let own := match s.here.block with
    | some (d, b, l) => if d = c && b = base then [l] else []
    | none => []
  let line := match (s.core s.myCore).line c base with
    | some l => [(l.bytes.drop (base % 64)).take 32]
    | none => []
  own ++ line ++ [s.rd { p with pa := base } 32]

/-- One of the copies of a block: where they differ, a free choice (R129, R292, log 14). -/
def State.pickBlock (s : State) (p : Place) : List Byte :=
  let l := s.blocks p
  let b := l.headD []
  if l.all (· == b) then b else l.getD (Config.freePick s.tick 2 % l.length) b

/-- Lines of an instruction cache: 16 KiB of 64 bytes (R3). -/
def icLines : Nat := 256

/-- The instruction cache with one more line; of a full one a free choice is replaced (log 14). -/
def Core.keepLine (k : Core) (tick : Nat) (l : ICLine) : Core :=
  { k with icache :=
      if k.icache.length < icLines then k.icache ++ [l] else setAt k.icache (Config.freePick tick 3 % icLines) l }

/-- The caches after a fetch: the slot holds the block, the core the line. -/
def State.cached (s : State) (p : Place) (b : List Byte) : State :=
  let c := s.myCtx
  let k := s.core s.myCore
  let base := p.pa / 64 * 64
  let s1 := match k.line c p.pa with
    | some _ => s
    | none =>
      let l : ICLine := { ctx := c, pa := base, bytes := s.rd { p with pa := base } 64 }
      s.setCore s.myCore (k.keepLine s.tick l)
  s1.setHere { s1.here with block := some (c, p.pa / 32 * 32, b) }

/-- The fetch at a place: a sleeping macro wakes, poisoned code traps, else the word (R85, R115, R129). The spec does not say
whether a copy in the slot or the instruction cache spares a fetch the poison of memory: DESIGN CHOICE, log 60: the codes of
memory are checked at every fetch. Nor does it say whether the rest of the block is checked: DESIGN CHOICE, log 60: the codes
of the word's own memory unit alone are. -/
def State.fetchPlace (s : State) (p : Place) : Fetch :=
  let pc := s.here.pc
  if s.asleep p.pa then .out (s.rouse s.myCtx p.pa)
  else
    let s1 := s.touch s.myCtx p.pa 4
    if s1.poisoned p.pa 4 then .out (s1.trap causePoison pc)
    else
      let b := s1.pickBlock p
      .word (s1.cached p b) (BitVec.ofNat 32 (ofBytes ((b.drop (p.pa % 32)).take 4)))

/-- The fetch at the program counter (R34, R66, R67, R129). A counter that is not a word's address takes ALIGN (log 18);
a slot in a conversion issues its SUSP again (R286). -/
def State.fetch (s : State) : Fetch :=
  let t := s.here
  let pc := t.pc.toNat
  if t.conv then .word s (encode (.susp 0))
  else if pc % 4 ≠ 0 then .out (s.trap causeAlign t.pc)
  else match s.look .fetch true pc with
    | .trap code => .out (s.trap code t.pc)
    | .wait => .out (s.waitOn pc)
    | .ok p => if t.watched 2 pc 4 then .out (s.trap causeWatch t.pc) else s.fetchPlace p

/-- The instruction that a word stands for: one that the decoder refuses takes ILLEGAL (R38). -/
def instrOf (w : Word) : Instr :=
  match decode (wordBytes w) with
  | .ok (i, _) => i
  | .error _ => .illegalWord w

/-- Whether the receiver of a packet from the fabric exists. -/
def destOk : Dest → Bool
  | .core g => coreOk g
  | .unit v => v < 256
  | .queue q => q < numQueues
  | .far _ _ => false

/-- Whether an address lies in this device's HBM, local memories or scratchpads. -/
def ownMemory (a : Nat) : Bool := devOf a = 0 && spaceOf a < 3 && !illFormed [] a

/-- An error that strikes a unit of memory adds to those that stand there. -/
def State.strike (s : State) (a kind : Nat) : State :=
  let u := a / unitSize a * unitSize a
  { s with latent := Tbl.set s.latent u (Tbl.get 0 s.latent u + kind) }

/-- A step of the device that is not an instruction's. -/
def isEvent (i : Instr) : Bool :=
  match i with
  | .illegalWord _ => false
  | i => !i.isWord

/-- A free choice among the device's own moves (log 3). -/
def freeMove (tick : Nat) : Turn :=
  match Config.freeEarly tick, Config.freeBulk tick, Config.freeHeld tick, Config.freeTurn tick with
  | some (u, va, n), _, _, _ => .early (u % numSlots) va n
  | none, some (k, j), _, _ => .bulk k j
  | none, none, some k, _ => .held k
  | none, none, none, (some i, u) => if i.wf && isEvent i then .event i else .issue (u % numSlots)
  | none, none, none, (none, u) => .issue (u % numSlots)

/-- Whose turn it is, and the state after the turn was taken: the head of the schedule, else a free choice among the
device's own moves (log 3). -/
def State.nextTurn (s : State) : Turn × State :=
  let s1 : State := { s with schedule := s.schedule.tail, tick := s.tick + 1 }
  match s.schedule with
  | t :: _ => (t, s1)
  | [] => (freeMove s.tick, s1)

/-! ## The order of the start (R321, R322, R328) -/

/-- Steps of power and reset, which need no firmware. -/
def isPowerStep : Instr → Bool
  | .reset _ | .railFault | .throttle | .throttleEnd | .trip => true
  | _ => false

/-- Requests over the management port. -/
def isPortStep : Instr → Bool
  | .session _ _ _ | .mgmtControlAccess _ _ _ | .mgmtHbmAccess _ _ _ _ | .attestation _ | .svnRaise _ => true
  | _ => false

/-- Whether a step may take place: before the boot nothing but what power and reset bring, and of a device that was stopped
the management port alone answers (R321). -/
def State.runs (s : State) (i : Instr) : Bool :=
  match s.power with
  | .up => true
  | .reset => isPowerStep i
  | .refused => isPowerStep i || isPortStep i

/-! ## Placing a word (log 4) -/

/-- The page of the placed word: HBM offset and virtual address. -/
def wordHome : Nat := 0x10000

/-- Slot 0 ready to fetch at the placed word. -/
def Slot.readied (t : Slot) : Slot :=
  { t with
    pc := dw wordHome, busy := true, sup := false, conv := false, leaving := false, early := []
    duePreempt := false, dueCorr := none, dueStore := false, duePage := [], block := none
    bell := none, wait := none, xf := none, examined := false, wctl0 := 0, wctl1 := 0 }

/-- The state with a word at its place in memory, whole and clean. -/
def State.putWord (s : State) (w : Word) : State :=
  { s with
    mem := wrBytes s.mem wordHome (wordBytes w)
    poison := s.poison.filter fun u => !(wordHome ≤ u && u < wordHome + 64)
    latent := s.latent.filter fun u => !(wordHome ≤ u.1 && u.1 < wordHome + 64) }

/-- The state in which the next turn is slot 0's and its next instruction is a word: the device is up, context 0 runs on facet
0, whose translation cache maps the page of the word, S3 of core 0 is free, and S2 issued last. -/
def State.placeWord (s : State) (w : Word) : State :=
  let s1 := s.putWord w
  let x := s1.facet 0
  let s2 := s1.setFacet 0 { x with
    ctx := some 0, tlb := { ctx := 0, big := false, page := wordHome / 65536, leaf := dw (wordHome + 0xE2) } :: x.tlb }
  let s3 := s2.setCtx 0 { s2.ctx 0 with st := .running, halt := false, set := insertNat 0 (s2.ctx 0).set }
  let s4 := s3.setSlot 0 (s3.slot 0).readied
  let s5 := s4.setSlot 3 { s4.slot 3 with busy := false }
  { s5.setCore 0 { s5.core 0 with icache := [] } with
    schedule := .issue 0 :: s.schedule, xinv := [], power := .up, issued := Tbl.set s.issued 0 2 }

end Sys2Proof.Machine
end

