-- ==== Sys2Proof/Machine/Turn.lean ====
section
/-!
DEFINITION. A slot's turn: its due trap, or its instruction fetched and run; which slots are ready, and the order in which
the low slots of a core issue (R280).
-/

namespace Sys2Proof.Machine

/-- What slot `u` does next, whoever's turn it is: its due trap, a wait or a trap of its fetch, or its instruction, with
what the reading of its sources acquires (R87, R226). -/
def State.attempt (s : State) (u : Nat) : Out :=
  let s1 : State := { s with cur := u }
  match s1.takeDue u with
  | some s2 => .next s2
  | none =>
    match s1.fetch with
    | .out s2 => .next s2
    | .word s2 w => exec (instrOf w) (s2.readSources (instrOf w))

/-- Whether a slot has issued between two of its states: its instruction has completed, a branch to itself too, or trapped. -/
def Slot.moved (a b : Slot) : Bool :=
  a.beat ≠ b.beat || a.pc ≠ b.pc || a.sup ≠ b.sup || a.busy ≠ b.busy || a.conv ≠ b.conv

/-- Whether slot `u` is ready: its next instruction can issue now (R280). -/
def State.issuable (s : State) (u : Nat) : Bool :=
  (s.slot u).busy
    && match s.attempt u with
      | .next t => (s.slot u).moved (t.slot u)
      | .fault _ | .refused _ => true

/-- The low slots that come before slot `u` in the order S0, S1, S2 after the one of their core that issued last (R280). -/
def State.lowBefore (s : State) (u : Nat) : List Nat :=
  ([1, 2, 3].map fun i => 4 * (u / 4) + (Tbl.get 2 s.issued (u / 4) + i) % 3).takeWhile (· ≠ u)

/-- The state in which low slot `u` is the one of its core that issued last; S3 does not count. -/
def State.tookTurn (s : State) (u : Nat) : State :=
  if u % 4 = 3 then s else { s with issued := Tbl.set s.issued (u / 4) (u % 4) }

/-- What a slot's attempt makes of the device: a slot that must wait only waits, and leaves the order as it is; one that
issues does so where no ready low slot comes before it. -/
def State.ordered (s : State) (u : Nat) (t : State) : State :=
  if u % 4 = 3 || !(s.slot u).moved (t.slot u) then t
  else if (s.lowBefore u).any s.issuable then s
  else t.tookTurn u

/-- A turn of slot `u` (R280): S3 goes first and holds the low slots back. -/
def State.issue (s : State) (u : Nat) : Out :=
  let s1 : State := { s with cur := u }
  if !s1.mayIssue u then .next s1
  else match s1.attempt u with
    | .next t => .next (s1.ordered u t)
    | .fault e => .fault e
    | .refused r => .refused r

end Sys2Proof.Machine
end

