-- ==== Sys2Proof/Machine/Step.lean ====
section
/-!
DEFINITION. One step of the device: one turn of one agent.
-/

namespace Sys2Proof.Machine

open Sys2Proof

/-- The state in which a turn from outside the slots has taken place, where the device is up (R321). -/
def State.whenUp (s : State) (f : State → State) : State := if s.power = .up then f s else s

/-- One step: the slot whose turn it is waits, traps or runs the instruction it fetched; or a step of the device, a load ahead
of its instruction, a delivery of a bulk request, a write of a peer's scatter, an input from the fabric, or an error of a
memory unit takes place. -/
def step (s : State) : Host.Outcome State Fault Refusal :=
  let n := s.nextTurn
  match n.1 with
  | .issue u =>
    if slotOk u then n.2.issue u else .fault .noSuchAgent
  | .event i =>
    if i.wf && isEvent i then (if n.2.runs i then exec i n.2 else .next n.2) else .fault .noSuchAgent
  | .early u va k => if slotOk u then .next (n.2.readEarly u va k) else .fault .noSuchAgent
  | .bulk k j => .next (n.2.whenUp (·.stepBulk k j))
  | .held k => .next (n.2.whenUp (·.performPeer k))
  | .accepted k => .next (n.2.whenUp (·.acceptedFar k))
  | .inbound p => if destOk p.dest then .next (n.2.whenUp (·.fromFabric p)) else .fault .noSuchAgent
  | .peer p => .next (n.2.whenUp fun s => if p.formed then s.fromPeer p else s)
  | .ask b => .next (n.2.whenUp (·.fromAsk b))
  | .again d u go => .next (n.2.whenUp (·.againBulk d u go))
  | .attest d nonce => .next (n.2.whenUp (·.attestFor d nonce))
  | .upset a k => if ownMemory a then .next (n.2.strike a k) else .fault .noSuchAgent

/-- The state whose next step fetches and runs the instruction word with the given bits (log 4). -/
def State.withFetchWord (s : State) (_nbits w : Nat) : State := s.placeWord (BitVec.ofNat 32 w)

end Sys2Proof.Machine
end

