-- ==== Sys2Proof/Laws/Fields.lean ====
section
/-!
SUPPORT. The fields of a packed word, and the codes of formats, scopes, orders and conditions: what the decoder's
accessors read from what the encoder's formats write.
-/

namespace Sys2Proof.Laws

open Sys2Proof

@[simp] theorem fMajor_packA (m d a b f) : fMajor (packA m d a b f) = m := by
  simp only [fMajor, packA, BitVec.extractLsb'_append_eq_ite]
  simp

@[simp] theorem fD_packA (m d a b f) : fD (packA m d a b f) = d := by
  simp only [fD, packA, BitVec.extractLsb'_append_eq_ite]
  simp

@[simp] theorem fA_packA (m d a b f) : fA (packA m d a b f) = a := by
  simp only [fA, packA, BitVec.extractLsb'_append_eq_ite]
  simp

@[simp] theorem fB_packA (m d a b f) : fB (packA m d a b f) = b := by
  simp only [fB, packA, BitVec.extractLsb'_append_eq_ite]
  simp

@[simp] theorem fFn_packA (m d a b f) : fFn (packA m d a b f) = f := by
  simp only [fFn, packA, BitVec.extractLsb'_append_eq_ite]
  simp

@[simp] theorem fFn3_packA (m d a b f) : fFn3 (packA m d a b f) = f.extractLsb' 8 3 := by
  simp only [fFn3, packA, BitVec.extractLsb'_append_eq_ite]
  simp

@[simp] theorem fLo8_packA (m d a b f) : fLo8 (packA m d a b f) = f.extractLsb' 0 8 := by
  simp only [fLo8, packA, BitVec.extractLsb'_append_eq_ite]
  simp

@[simp] theorem fNib1_packA (m d a b f) : fNib1 (packA m d a b f) = f.extractLsb' 4 4 := by
  simp only [fNib1, packA, BitVec.extractLsb'_append_eq_ite]
  simp

@[simp] theorem fDst_packA (m d a b f) : fDst (packA m d a b f) = f.extractLsb' 0 3 := by
  simp only [fDst, packA, BitVec.extractLsb'_append_eq_ite]
  simp

@[simp] theorem fMajor_packI (m d a i) : fMajor (packI m d a i) = m := by
  simp only [fMajor, packI, BitVec.extractLsb'_append_eq_ite]
  simp

@[simp] theorem fD_packI (m d a i) : fD (packI m d a i) = d := by
  simp only [fD, packI, BitVec.extractLsb'_append_eq_ite]
  simp

@[simp] theorem fA_packI (m d a i) : fA (packI m d a i) = a := by
  simp only [fA, packI, BitVec.extractLsb'_append_eq_ite]
  simp

@[simp] theorem fImm_packI (m d a i) : fImm (packI m d a i) = i := by
  simp only [fImm, packI, BitVec.extractLsb'_append_eq_ite]
  simp

@[simp] theorem fMajor_packJ (m d o) : fMajor (packJ m d o) = m := by
  simp only [fMajor, packJ, BitVec.extractLsb'_append_eq_ite]
  simp

@[simp] theorem fD_packJ (m d o) : fD (packJ m d o) = d := by
  simp only [fD, packJ, BitVec.extractLsb'_append_eq_ite]
  simp

@[simp] theorem fOff21_packJ (m d o) : fOff21 (packJ m d o) = o := by
  simp only [fOff21, packJ, BitVec.extractLsb'_append_eq_ite]
  simp

@[simp] theorem fMajor_packV (m d a b p f op) : fMajor (packV m d a b p f op) = m := by
  simp only [fMajor, packV, BitVec.extractLsb'_append_eq_ite]
  simp

@[simp] theorem fD_packV (m d a b p f op) : fD (packV m d a b p f op) = d := by
  simp only [fD, packV, BitVec.extractLsb'_append_eq_ite]
  simp

@[simp] theorem fA_packV (m d a b p f op) : fA (packV m d a b p f op) = a := by
  simp only [fA, packV, BitVec.extractLsb'_append_eq_ite]
  simp

@[simp] theorem fB_packV (m d a b p f op) : fB (packV m d a b p f op) = b := by
  simp only [fB, packV, BitVec.extractLsb'_append_eq_ite]
  simp

@[simp] theorem fP_packV (m d a b p f op) : fP (packV m d a b p f op) = p := by
  simp only [fP, packV, BitVec.extractLsb'_append_eq_ite]
  simp

@[simp] theorem fHi2_packV (m d a b p f op) : fHi2 (packV m d a b p f op) = f := by
  simp only [fHi2, packV, BitVec.extractLsb'_append_eq_ite]
  simp

@[simp] theorem fLo6_packV (m d a b p f op) : fLo6 (packV m d a b p f op) = op := by
  simp only [fLo6, packV, BitVec.extractLsb'_append_eq_ite]
  simp

@[simp] theorem fSrc_packV (m d a b p f op) : fSrc (packV m d a b p f op) = op.extractLsb' 3 3 := by
  simp only [fSrc, packV, BitVec.extractLsb'_append_eq_ite]
  simp

@[simp] theorem fDst_packV (m d a b p f op) : fDst (packV m d a b p f op) = op.extractLsb' 0 3 := by
  simp only [fDst, packV, BitVec.extractLsb'_append_eq_ite]
  simp

@[simp] theorem fMajor_packAmo (d a b c o z op) : fMajor (packAmo d a b c o z op) = 0x27 := by
  simp only [fMajor, packAmo, BitVec.extractLsb'_append_eq_ite]
  simp

@[simp] theorem fD_packAmo (d a b c o z op) : fD (packAmo d a b c o z op) = d := by
  simp only [fD, packAmo, BitVec.extractLsb'_append_eq_ite]
  simp

@[simp] theorem fA_packAmo (d a b c o z op) : fA (packAmo d a b c o z op) = a := by
  simp only [fA, packAmo, BitVec.extractLsb'_append_eq_ite]
  simp

@[simp] theorem fB_packAmo (d a b c o z op) : fB (packAmo d a b c o z op) = b := by
  simp only [fB, packAmo, BitVec.extractLsb'_append_eq_ite]
  simp

@[simp] theorem fP_packAmo (d a b c o z op) : fP (packAmo d a b c o z op) = c.code := by
  simp only [fP, packAmo, BitVec.extractLsb'_append_eq_ite]
  simp

@[simp] theorem fHi2_packAmo (d a b c o z op) : fHi2 (packAmo d a b c o z op) = o.code := by
  simp only [fHi2, packAmo, BitVec.extractLsb'_append_eq_ite]
  simp

@[simp] theorem fSize_packAmo (d a b c o z op) : fSize (packAmo d a b c o z op) = z := by
  simp only [fSize, packAmo, BitVec.extractLsb'_append_eq_ite]
  simp

@[simp] theorem fNib0_packAmo (d a b c o z op) : fNib0 (packAmo d a b c o z op) = op := by
  simp only [fNib0, packAmo, BitVec.extractLsb'_append_eq_ite]
  simp

theorem fMajor_shift (d a : Reg) (k : BitVec 8) (n : BitVec 6) :
    fMajor ((0x0A : BitVec 6) ++ d ++ a ++ k ++ (0 : BitVec 2) ++ n) = 0x0A := by
  simp only [fMajor, BitVec.extractLsb'_append_eq_ite]
  simp

theorem fD_shift (d a : Reg) (k : BitVec 8) (n : BitVec 6) :
    fD ((0x0A : BitVec 6) ++ d ++ a ++ k ++ (0 : BitVec 2) ++ n) = d := by
  simp only [fD, BitVec.extractLsb'_append_eq_ite]
  simp

theorem fA_shift (d a : Reg) (k : BitVec 8) (n : BitVec 6) :
    fA ((0x0A : BitVec 6) ++ d ++ a ++ k ++ (0 : BitVec 2) ++ n) = a := by
  simp only [fA, BitVec.extractLsb'_append_eq_ite]
  simp

theorem fKind_shift (d a : Reg) (k : BitVec 8) (n : BitVec 6) :
    fKind ((0x0A : BitVec 6) ++ d ++ a ++ k ++ (0 : BitVec 2) ++ n) = k ++ (0 : BitVec 2) := by
  simp only [fKind, BitVec.extractLsb'_append_eq_ite]
  simp

theorem fLo6_shift (d a : Reg) (k : BitVec 8) (n : BitVec 6) :
    fLo6 ((0x0A : BitVec 6) ++ d ++ a ++ k ++ (0 : BitVec 2) ++ n) = n := by
  simp only [fLo6, BitVec.extractLsb'_append_eq_ite]
  simp

@[simp] theorem fmtOf_code (x : Fmt) : fmtOf x.code = x := by cases x <;> rfl

@[simp] theorem nfmtOf_code (x : NFmt) : nfmtOf x.code = some x := by cases x <;> rfl

@[simp] theorem condOf_code (x : Cond) : condOf x.code = some x := by cases x <;> rfl

@[simp] theorem scopeOf_code (x : Scope) : scopeOf x.code = some x := by cases x <;> rfl

@[simp] theorem orderOf_code (x : Order) : orderOf x.code = x := by cases x <;> rfl

end Sys2Proof.Laws
end

