-- ==== Sys2Proof/Laws/PerInstr.lean ====
section
/-!
SUPPORT. For every instruction: a well-formed word decodes to the instruction whose encoding it is.
-/

namespace Sys2Proof.Laws

open Sys2Proof

set_option Elab.async false

/-- The word of a well-formed instruction decodes to it; a step without an encoding says nothing. -/
def Encoding.Statement (i : Instr) : Prop := i.isWord = true → i.wf = true → decodeWord (encode i) = .ok i

/-- What the decoder reads from the function field of a fence. -/
theorem fence_fields (k : BitVec 4) (s : Scope) :
    let f : BitVec 11 := (0 : BitVec 3) ++ k ++ (0 : BitVec 1) ++ s.code
    (f == 0x100) = false ∧ (BitVec.extractLsb' 8 3 f == 0) = true ∧ (bit f.toNat 3 == false) = true
      ∧ scopeOf (BitVec.extractLsb' 0 3 f) = some s ∧ BitVec.extractLsb' 4 4 f = k := by
  cases s <;> revert k <;> decide

theorem Encoding.add (d : Reg) (a : Reg) (b : Reg) : Encoding.Statement (.add d a b) := by
  intro _ h
  have hm : (fMajor (packA 0x01 d a b 0x000)).toNat = 1 := by simp
  show decodeWord (packA 0x01 d a b 0x000) = _
  unfold decodeWord
  rw [hm]
  show decodeAlu _ = _
  unfold decodeAlu
  have hf : (fFn (packA 0x01 d a b 0x000)).toNat = 0 := by simp
  rw [hf]
  simp [unused, inRange, unusedInRange, h]

theorem Encoding.sub (d : Reg) (a : Reg) (b : Reg) : Encoding.Statement (.sub d a b) := by
  intro _ h
  have hm : (fMajor (packA 0x01 d a b 0x001)).toNat = 1 := by simp
  show decodeWord (packA 0x01 d a b 0x001) = _
  unfold decodeWord
  rw [hm]
  show decodeAlu _ = _
  unfold decodeAlu
  have hf : (fFn (packA 0x01 d a b 0x001)).toNat = 1 := by simp
  rw [hf]
  simp [unused, inRange, unusedInRange, h]

theorem Encoding.and (d : Reg) (a : Reg) (b : Reg) : Encoding.Statement (.and d a b) := by
  intro _ h
  have hm : (fMajor (packA 0x01 d a b 0x002)).toNat = 1 := by simp
  show decodeWord (packA 0x01 d a b 0x002) = _
  unfold decodeWord
  rw [hm]
  show decodeAlu _ = _
  unfold decodeAlu
  have hf : (fFn (packA 0x01 d a b 0x002)).toNat = 2 := by simp
  rw [hf]
  simp [unused, inRange, unusedInRange, h]

theorem Encoding.or (d : Reg) (a : Reg) (b : Reg) : Encoding.Statement (.or d a b) := by
  intro _ h
  have hm : (fMajor (packA 0x01 d a b 0x003)).toNat = 1 := by simp
  show decodeWord (packA 0x01 d a b 0x003) = _
  unfold decodeWord
  rw [hm]
  show decodeAlu _ = _
  unfold decodeAlu
  have hf : (fFn (packA 0x01 d a b 0x003)).toNat = 3 := by simp
  rw [hf]
  simp [unused, inRange, unusedInRange, h]

theorem Encoding.xor (d : Reg) (a : Reg) (b : Reg) : Encoding.Statement (.xor d a b) := by
  intro _ h
  have hm : (fMajor (packA 0x01 d a b 0x004)).toNat = 1 := by simp
  show decodeWord (packA 0x01 d a b 0x004) = _
  unfold decodeWord
  rw [hm]
  show decodeAlu _ = _
  unfold decodeAlu
  have hf : (fFn (packA 0x01 d a b 0x004)).toNat = 4 := by simp
  rw [hf]
  simp [unused, inRange, unusedInRange, h]

theorem Encoding.andn (d : Reg) (a : Reg) (b : Reg) : Encoding.Statement (.andn d a b) := by
  intro _ h
  have hm : (fMajor (packA 0x01 d a b 0x005)).toNat = 1 := by simp
  show decodeWord (packA 0x01 d a b 0x005) = _
  unfold decodeWord
  rw [hm]
  show decodeAlu _ = _
  unfold decodeAlu
  have hf : (fFn (packA 0x01 d a b 0x005)).toNat = 5 := by simp
  rw [hf]
  simp [unused, inRange, unusedInRange, h]

theorem Encoding.sll (d : Reg) (a : Reg) (b : Reg) : Encoding.Statement (.sll d a b) := by
  intro _ h
  have hm : (fMajor (packA 0x01 d a b 0x008)).toNat = 1 := by simp
  show decodeWord (packA 0x01 d a b 0x008) = _
  unfold decodeWord
  rw [hm]
  show decodeAlu _ = _
  unfold decodeAlu
  have hf : (fFn (packA 0x01 d a b 0x008)).toNat = 8 := by simp
  rw [hf]
  simp [unused, inRange, unusedInRange, h]

theorem Encoding.srl (d : Reg) (a : Reg) (b : Reg) : Encoding.Statement (.srl d a b) := by
  intro _ h
  have hm : (fMajor (packA 0x01 d a b 0x009)).toNat = 1 := by simp
  show decodeWord (packA 0x01 d a b 0x009) = _
  unfold decodeWord
  rw [hm]
  show decodeAlu _ = _
  unfold decodeAlu
  have hf : (fFn (packA 0x01 d a b 0x009)).toNat = 9 := by simp
  rw [hf]
  simp [unused, inRange, unusedInRange, h]

theorem Encoding.sra (d : Reg) (a : Reg) (b : Reg) : Encoding.Statement (.sra d a b) := by
  intro _ h
  have hm : (fMajor (packA 0x01 d a b 0x00A)).toNat = 1 := by simp
  show decodeWord (packA 0x01 d a b 0x00A) = _
  unfold decodeWord
  rw [hm]
  show decodeAlu _ = _
  unfold decodeAlu
  have hf : (fFn (packA 0x01 d a b 0x00A)).toNat = 10 := by simp
  rw [hf]
  simp [unused, inRange, unusedInRange, h]

theorem Encoding.slt (d : Reg) (a : Reg) (b : Reg) : Encoding.Statement (.slt d a b) := by
  intro _ h
  have hm : (fMajor (packA 0x01 d a b 0x010)).toNat = 1 := by simp
  show decodeWord (packA 0x01 d a b 0x010) = _
  unfold decodeWord
  rw [hm]
  show decodeAlu _ = _
  unfold decodeAlu
  have hf : (fFn (packA 0x01 d a b 0x010)).toNat = 16 := by simp
  rw [hf]
  simp [unused, inRange, unusedInRange, h]

theorem Encoding.sltZ (d : Reg) (a : Reg) (b : Reg) : Encoding.Statement (.sltZ d a b) := by
  intro _ h
  have hm : (fMajor (packA 0x01 d a b 0x011)).toNat = 1 := by simp
  show decodeWord (packA 0x01 d a b 0x011) = _
  unfold decodeWord
  rw [hm]
  show decodeAlu _ = _
  unfold decodeAlu
  have hf : (fFn (packA 0x01 d a b 0x011)).toNat = 17 := by simp
  rw [hf]
  simp [unused, inRange, unusedInRange, h]

theorem Encoding.seq (d : Reg) (a : Reg) (b : Reg) : Encoding.Statement (.seq d a b) := by
  intro _ h
  have hm : (fMajor (packA 0x01 d a b 0x012)).toNat = 1 := by simp
  show decodeWord (packA 0x01 d a b 0x012) = _
  unfold decodeWord
  rw [hm]
  show decodeAlu _ = _
  unfold decodeAlu
  have hf : (fFn (packA 0x01 d a b 0x012)).toNat = 18 := by simp
  rw [hf]
  simp [unused, inRange, unusedInRange, h]

theorem Encoding.min (d : Reg) (a : Reg) (b : Reg) : Encoding.Statement (.min d a b) := by
  intro _ h
  have hm : (fMajor (packA 0x01 d a b 0x018)).toNat = 1 := by simp
  show decodeWord (packA 0x01 d a b 0x018) = _
  unfold decodeWord
  rw [hm]
  show decodeAlu _ = _
  unfold decodeAlu
  have hf : (fFn (packA 0x01 d a b 0x018)).toNat = 24 := by simp
  rw [hf]
  simp [unused, inRange, unusedInRange, h]

theorem Encoding.max (d : Reg) (a : Reg) (b : Reg) : Encoding.Statement (.max d a b) := by
  intro _ h
  have hm : (fMajor (packA 0x01 d a b 0x019)).toNat = 1 := by simp
  show decodeWord (packA 0x01 d a b 0x019) = _
  unfold decodeWord
  rw [hm]
  show decodeAlu _ = _
  unfold decodeAlu
  have hf : (fFn (packA 0x01 d a b 0x019)).toNat = 25 := by simp
  rw [hf]
  simp [unused, inRange, unusedInRange, h]

theorem Encoding.minZ (d : Reg) (a : Reg) (b : Reg) : Encoding.Statement (.minZ d a b) := by
  intro _ h
  have hm : (fMajor (packA 0x01 d a b 0x01A)).toNat = 1 := by simp
  show decodeWord (packA 0x01 d a b 0x01A) = _
  unfold decodeWord
  rw [hm]
  show decodeAlu _ = _
  unfold decodeAlu
  have hf : (fFn (packA 0x01 d a b 0x01A)).toNat = 26 := by simp
  rw [hf]
  simp [unused, inRange, unusedInRange, h]

theorem Encoding.maxZ (d : Reg) (a : Reg) (b : Reg) : Encoding.Statement (.maxZ d a b) := by
  intro _ h
  have hm : (fMajor (packA 0x01 d a b 0x01B)).toNat = 1 := by simp
  show decodeWord (packA 0x01 d a b 0x01B) = _
  unfold decodeWord
  rw [hm]
  show decodeAlu _ = _
  unfold decodeAlu
  have hf : (fFn (packA 0x01 d a b 0x01B)).toNat = 27 := by simp
  rw [hf]
  simp [unused, inRange, unusedInRange, h]

theorem Encoding.mul (d : Reg) (a : Reg) (b : Reg) : Encoding.Statement (.mul d a b) := by
  intro _ h
  have hm : (fMajor (packA 0x01 d a b 0x020)).toNat = 1 := by simp
  show decodeWord (packA 0x01 d a b 0x020) = _
  unfold decodeWord
  rw [hm]
  show decodeAlu _ = _
  unfold decodeAlu
  have hf : (fFn (packA 0x01 d a b 0x020)).toNat = 32 := by simp
  rw [hf]
  simp [unused, inRange, unusedInRange, h]

theorem Encoding.mulh (d : Reg) (a : Reg) (b : Reg) : Encoding.Statement (.mulh d a b) := by
  intro _ h
  have hm : (fMajor (packA 0x01 d a b 0x021)).toNat = 1 := by simp
  show decodeWord (packA 0x01 d a b 0x021) = _
  unfold decodeWord
  rw [hm]
  show decodeAlu _ = _
  unfold decodeAlu
  have hf : (fFn (packA 0x01 d a b 0x021)).toNat = 33 := by simp
  rw [hf]
  simp [unused, inRange, unusedInRange, h]

theorem Encoding.mulhZ (d : Reg) (a : Reg) (b : Reg) : Encoding.Statement (.mulhZ d a b) := by
  intro _ h
  have hm : (fMajor (packA 0x01 d a b 0x022)).toNat = 1 := by simp
  show decodeWord (packA 0x01 d a b 0x022) = _
  unfold decodeWord
  rw [hm]
  show decodeAlu _ = _
  unfold decodeAlu
  have hf : (fFn (packA 0x01 d a b 0x022)).toNat = 34 := by simp
  rw [hf]
  simp [unused, inRange, unusedInRange, h]

theorem Encoding.div (d : Reg) (a : Reg) (b : Reg) : Encoding.Statement (.div d a b) := by
  intro _ h
  have hm : (fMajor (packA 0x01 d a b 0x028)).toNat = 1 := by simp
  show decodeWord (packA 0x01 d a b 0x028) = _
  unfold decodeWord
  rw [hm]
  show decodeAlu _ = _
  unfold decodeAlu
  have hf : (fFn (packA 0x01 d a b 0x028)).toNat = 40 := by simp
  rw [hf]
  simp [unused, inRange, unusedInRange, h]

theorem Encoding.divZ (d : Reg) (a : Reg) (b : Reg) : Encoding.Statement (.divZ d a b) := by
  intro _ h
  have hm : (fMajor (packA 0x01 d a b 0x029)).toNat = 1 := by simp
  show decodeWord (packA 0x01 d a b 0x029) = _
  unfold decodeWord
  rw [hm]
  show decodeAlu _ = _
  unfold decodeAlu
  have hf : (fFn (packA 0x01 d a b 0x029)).toNat = 41 := by simp
  rw [hf]
  simp [unused, inRange, unusedInRange, h]

theorem Encoding.rem (d : Reg) (a : Reg) (b : Reg) : Encoding.Statement (.rem d a b) := by
  intro _ h
  have hm : (fMajor (packA 0x01 d a b 0x02A)).toNat = 1 := by simp
  show decodeWord (packA 0x01 d a b 0x02A) = _
  unfold decodeWord
  rw [hm]
  show decodeAlu _ = _
  unfold decodeAlu
  have hf : (fFn (packA 0x01 d a b 0x02A)).toNat = 42 := by simp
  rw [hf]
  simp [unused, inRange, unusedInRange, h]

theorem Encoding.remZ (d : Reg) (a : Reg) (b : Reg) : Encoding.Statement (.remZ d a b) := by
  intro _ h
  have hm : (fMajor (packA 0x01 d a b 0x02B)).toNat = 1 := by simp
  show decodeWord (packA 0x01 d a b 0x02B) = _
  unfold decodeWord
  rw [hm]
  show decodeAlu _ = _
  unfold decodeAlu
  have hf : (fFn (packA 0x01 d a b 0x02B)).toNat = 43 := by simp
  rw [hf]
  simp [unused, inRange, unusedInRange, h]

theorem Encoding.clz (d : Reg) (a : Reg) : Encoding.Statement (.clz d a) := by
  intro _ h
  have hm : (fMajor (packA 0x01 d a 0 0x030)).toNat = 1 := by simp
  show decodeWord (packA 0x01 d a 0 0x030) = _
  unfold decodeWord
  rw [hm]
  show decodeAlu _ = _
  unfold decodeAlu
  have hf : (fFn (packA 0x01 d a 0 0x030)).toNat = 48 := by simp
  rw [hf]
  simp [unused, inRange, unusedInRange, h]

theorem Encoding.popc (d : Reg) (a : Reg) : Encoding.Statement (.popc d a) := by
  intro _ h
  have hm : (fMajor (packA 0x01 d a 0 0x031)).toNat = 1 := by simp
  show decodeWord (packA 0x01 d a 0 0x031) = _
  unfold decodeWord
  rw [hm]
  show decodeAlu _ = _
  unfold decodeAlu
  have hf : (fFn (packA 0x01 d a 0 0x031)).toNat = 49 := by simp
  rw [hf]
  simp [unused, inRange, unusedInRange, h]

theorem Encoding.addImm (d : Reg) (a : Reg) (i : BitVec 16) : Encoding.Statement (.addImm d a i) := by
  intro _ h
  have hm : (fMajor (packI 0x02 d a i)).toNat = 2 := by simp
  show decodeWord (packI 0x02 d a i) = _
  unfold decodeWord
  rw [hm]
  simp [unused, inRange, unusedInRange, h]

theorem Encoding.andImm (d : Reg) (a : Reg) (i : BitVec 16) : Encoding.Statement (.andImm d a i) := by
  intro _ h
  have hm : (fMajor (packI 0x03 d a i)).toNat = 3 := by simp
  show decodeWord (packI 0x03 d a i) = _
  unfold decodeWord
  rw [hm]
  simp [unused, inRange, unusedInRange, h]

theorem Encoding.orImm (d : Reg) (a : Reg) (i : BitVec 16) : Encoding.Statement (.orImm d a i) := by
  intro _ h
  have hm : (fMajor (packI 0x04 d a i)).toNat = 4 := by simp
  show decodeWord (packI 0x04 d a i) = _
  unfold decodeWord
  rw [hm]
  simp [unused, inRange, unusedInRange, h]

theorem Encoding.xorImm (d : Reg) (a : Reg) (i : BitVec 16) : Encoding.Statement (.xorImm d a i) := by
  intro _ h
  have hm : (fMajor (packI 0x05 d a i)).toNat = 5 := by simp
  show decodeWord (packI 0x05 d a i) = _
  unfold decodeWord
  rw [hm]
  simp [unused, inRange, unusedInRange, h]

theorem Encoding.sltImm (d : Reg) (a : Reg) (i : BitVec 16) : Encoding.Statement (.sltImm d a i) := by
  intro _ h
  have hm : (fMajor (packI 0x06 d a i)).toNat = 6 := by simp
  show decodeWord (packI 0x06 d a i) = _
  unfold decodeWord
  rw [hm]
  simp [unused, inRange, unusedInRange, h]

theorem Encoding.sltZImm (d : Reg) (a : Reg) (i : BitVec 16) : Encoding.Statement (.sltZImm d a i) := by
  intro _ h
  have hm : (fMajor (packI 0x07 d a i)).toNat = 7 := by simp
  show decodeWord (packI 0x07 d a i) = _
  unfold decodeWord
  rw [hm]
  simp [unused, inRange, unusedInRange, h]

theorem Encoding.li (d : Reg) (i : BitVec 16) : Encoding.Statement (.li d i) := by
  intro _ h
  have hm : (fMajor (packI 0x08 d 0 i)).toNat = 8 := by simp
  show decodeWord (packI 0x08 d 0 i) = _
  unfold decodeWord
  rw [hm]
  simp [unused, inRange, unusedInRange, h]

theorem Encoding.lsi (d : Reg) (a : Reg) (i : BitVec 16) : Encoding.Statement (.lsi d a i) := by
  intro _ h
  have hm : (fMajor (packI 0x09 d a i)).toNat = 9 := by simp
  show decodeWord (packI 0x09 d a i) = _
  unfold decodeWord
  rw [hm]
  simp [unused, inRange, unusedInRange, h]

theorem Encoding.sllImm (d : Reg) (a : Reg) (n : BitVec 6) : Encoding.Statement (.sllImm d a n) := by
  intro _ h
  have hm : (fMajor ((0x0A : BitVec 6) ++ d ++ a ++ (0 : BitVec 8) ++ (0 : BitVec 2) ++ n)).toNat = 10 := by rw [fMajor_shift]; rfl
  show decodeWord ((0x0A : BitVec 6) ++ d ++ a ++ (0 : BitVec 8) ++ (0 : BitVec 2) ++ n) = _
  unfold decodeWord
  rw [hm]
  show decodeShift _ = _
  unfold decodeShift
  have hf : (fKind ((0x0A : BitVec 6) ++ d ++ a ++ (0 : BitVec 8) ++ (0 : BitVec 2) ++ n)).toNat = 0 := by rw [fKind_shift]; rfl
  rw [hf]
  simp only [fD_shift, fA_shift, fLo6_shift]

theorem Encoding.srlImm (d : Reg) (a : Reg) (n : BitVec 6) : Encoding.Statement (.srlImm d a n) := by
  intro _ h
  have hm : (fMajor ((0x0A : BitVec 6) ++ d ++ a ++ (1 : BitVec 8) ++ (0 : BitVec 2) ++ n)).toNat = 10 := by rw [fMajor_shift]; rfl
  show decodeWord ((0x0A : BitVec 6) ++ d ++ a ++ (1 : BitVec 8) ++ (0 : BitVec 2) ++ n) = _
  unfold decodeWord
  rw [hm]
  show decodeShift _ = _
  unfold decodeShift
  have hf : (fKind ((0x0A : BitVec 6) ++ d ++ a ++ (1 : BitVec 8) ++ (0 : BitVec 2) ++ n)).toNat = 4 := by rw [fKind_shift]; rfl
  rw [hf]
  simp only [fD_shift, fA_shift, fLo6_shift]

theorem Encoding.sraImm (d : Reg) (a : Reg) (n : BitVec 6) : Encoding.Statement (.sraImm d a n) := by
  intro _ h
  have hm : (fMajor ((0x0A : BitVec 6) ++ d ++ a ++ (2 : BitVec 8) ++ (0 : BitVec 2) ++ n)).toNat = 10 := by rw [fMajor_shift]; rfl
  show decodeWord ((0x0A : BitVec 6) ++ d ++ a ++ (2 : BitVec 8) ++ (0 : BitVec 2) ++ n) = _
  unfold decodeWord
  rw [hm]
  show decodeShift _ = _
  unfold decodeShift
  have hf : (fKind ((0x0A : BitVec 6) ++ d ++ a ++ (2 : BitVec 8) ++ (0 : BitVec 2) ++ n)).toNat = 8 := by rw [fKind_shift]; rfl
  rw [hf]
  simp only [fD_shift, fA_shift, fLo6_shift]

theorem Encoding.jal (d : Reg) (o : BitVec 21) : Encoding.Statement (.jal d o) := by
  intro _ h
  have hm : (fMajor (packJ 0x0B d o)).toNat = 11 := by simp
  show decodeWord (packJ 0x0B d o) = _
  unfold decodeWord
  rw [hm]
  simp [unused, inRange, unusedInRange, h]

theorem Encoding.jalr (d : Reg) (a : Reg) (i : BitVec 16) : Encoding.Statement (.jalr d a i) := by
  intro _ h
  have hm : (fMajor (packI 0x0C d a i)).toNat = 12 := by simp
  show decodeWord (packI 0x0C d a i) = _
  unfold decodeWord
  rw [hm]
  simp [unused, inRange, unusedInRange, h]

theorem Encoding.beq (a : Reg) (b : Reg) (o : BitVec 16) : Encoding.Statement (.beq a b o) := by
  intro _ h
  have hm : (fMajor (packI 0x0D a b o)).toNat = 13 := by simp
  show decodeWord (packI 0x0D a b o) = _
  unfold decodeWord
  rw [hm]
  simp [unused, inRange, unusedInRange, h]

theorem Encoding.bne (a : Reg) (b : Reg) (o : BitVec 16) : Encoding.Statement (.bne a b o) := by
  intro _ h
  have hm : (fMajor (packI 0x0E a b o)).toNat = 14 := by simp
  show decodeWord (packI 0x0E a b o) = _
  unfold decodeWord
  rw [hm]
  simp [unused, inRange, unusedInRange, h]

theorem Encoding.blt (a : Reg) (b : Reg) (o : BitVec 16) : Encoding.Statement (.blt a b o) := by
  intro _ h
  have hm : (fMajor (packI 0x0F a b o)).toNat = 15 := by simp
  show decodeWord (packI 0x0F a b o) = _
  unfold decodeWord
  rw [hm]
  simp [unused, inRange, unusedInRange, h]

theorem Encoding.bge (a : Reg) (b : Reg) (o : BitVec 16) : Encoding.Statement (.bge a b o) := by
  intro _ h
  have hm : (fMajor (packI 0x10 a b o)).toNat = 16 := by simp
  show decodeWord (packI 0x10 a b o) = _
  unfold decodeWord
  rw [hm]
  simp [unused, inRange, unusedInRange, h]

theorem Encoding.bltZ (a : Reg) (b : Reg) (o : BitVec 16) : Encoding.Statement (.bltZ a b o) := by
  intro _ h
  have hm : (fMajor (packI 0x11 a b o)).toNat = 17 := by simp
  show decodeWord (packI 0x11 a b o) = _
  unfold decodeWord
  rw [hm]
  simp [unused, inRange, unusedInRange, h]

theorem Encoding.bgeZ (a : Reg) (b : Reg) (o : BitVec 16) : Encoding.Statement (.bgeZ a b o) := by
  intro _ h
  have hm : (fMajor (packI 0x12 a b o)).toNat = 18 := by simp
  show decodeWord (packI 0x12 a b o) = _
  unfold decodeWord
  rw [hm]
  simp [unused, inRange, unusedInRange, h]

theorem Encoding.nop : Encoding.Statement (.nop) := by
  intro _ h
  have hm : (fMajor (packA 0x13 0 0 0 0x000)).toNat = 19 := by simp
  show decodeWord (packA 0x13 0 0 0 0x000) = _
  unfold decodeWord
  rw [hm]
  show decodeCtl _ = _
  unfold decodeCtl
  have h3 : (fFn3 (packA 0x13 0 0 0 0x000) == 1) = false := by simp
  rw [h3]
  simp only [Bool.false_eq_true, if_false]
  have hf : (fFn (packA 0x13 0 0 0 0x000)).toNat = 0 := by simp
  rw [hf]
  simp [unused, inRange, unusedInRange, h]

theorem Encoding.endTask : Encoding.Statement (.endTask) := by
  intro _ h
  have hm : (fMajor (packA 0x13 0 0 0 0x001)).toNat = 19 := by simp
  show decodeWord (packA 0x13 0 0 0 0x001) = _
  unfold decodeWord
  rw [hm]
  show decodeCtl _ = _
  unfold decodeCtl
  have h3 : (fFn3 (packA 0x13 0 0 0 0x001) == 1) = false := by simp
  rw [h3]
  simp only [Bool.false_eq_true, if_false]
  have hf : (fFn (packA 0x13 0 0 0 0x001)).toNat = 1 := by simp
  rw [hf]
  simp [unused, inRange, unusedInRange, h]

theorem Encoding.eret : Encoding.Statement (.eret) := by
  intro _ h
  have hm : (fMajor (packA 0x13 0 0 0 0x002)).toNat = 19 := by simp
  show decodeWord (packA 0x13 0 0 0 0x002) = _
  unfold decodeWord
  rw [hm]
  show decodeCtl _ = _
  unfold decodeCtl
  have h3 : (fFn3 (packA 0x13 0 0 0 0x002) == 1) = false := by simp
  rw [h3]
  simp only [Bool.false_eq_true, if_false]
  have hf : (fFn (packA 0x13 0 0 0 0x002)).toNat = 2 := by simp
  rw [hf]
  simp [unused, inRange, unusedInRange, h]

theorem Encoding.ifence : Encoding.Statement (.ifence) := by
  intro _ h
  have hm : (fMajor (packA 0x13 0 0 0 0x003)).toNat = 19 := by simp
  show decodeWord (packA 0x13 0 0 0 0x003) = _
  unfold decodeWord
  rw [hm]
  show decodeCtl _ = _
  unfold decodeCtl
  have h3 : (fFn3 (packA 0x13 0 0 0 0x003) == 1) = false := by simp
  rw [h3]
  simp only [Bool.false_eq_true, if_false]
  have hf : (fFn (packA 0x13 0 0 0 0x003)).toNat = 3 := by simp
  rw [hf]
  simp [unused, inRange, unusedInRange, h]

theorem Encoding.waiti : Encoding.Statement (.waiti) := by
  intro _ h
  have hm : (fMajor (packA 0x13 0 0 0 0x004)).toNat = 19 := by simp
  show decodeWord (packA 0x13 0 0 0 0x004) = _
  unfold decodeWord
  rw [hm]
  show decodeCtl _ = _
  unfold decodeCtl
  have h3 : (fFn3 (packA 0x13 0 0 0 0x004) == 1) = false := by simp
  rw [h3]
  simp only [Bool.false_eq_true, if_false]
  have hf : (fFn (packA 0x13 0 0 0 0x004)).toNat = 4 := by simp
  rw [hf]
  simp [unused, inRange, unusedInRange, h]

theorem Encoding.codepub (d : Reg) (a : Reg) (b : Reg) : Encoding.Statement (.codepub d a b) := by
  intro _ h
  have hm : (fMajor (packA 0x13 d a b 0x005)).toNat = 19 := by simp
  show decodeWord (packA 0x13 d a b 0x005) = _
  unfold decodeWord
  rw [hm]
  show decodeCtl _ = _
  unfold decodeCtl
  have h3 : (fFn3 (packA 0x13 d a b 0x005) == 1) = false := by simp
  rw [h3]
  simp only [Bool.false_eq_true, if_false]
  have hf : (fFn (packA 0x13 d a b 0x005)).toNat = 5 := by simp
  rw [hf]
  simp [unused, inRange, unusedInRange, h]

theorem Encoding.trap (n : BitVec 8) : Encoding.Statement (.trap n) := by
  intro _ h
  have hm : (fMajor (packA 0x13 0 0 0 ((1 : BitVec 3) ++ n))).toNat = 19 := by simp
  show decodeWord (packA 0x13 0 0 0 ((1 : BitVec 3) ++ n)) = _
  unfold decodeWord
  rw [hm]
  show decodeCtl _ = _
  unfold decodeCtl
  have h3 : fFn3 (packA 0x13 0 0 0 ((1 : BitVec 3) ++ n)) = 1 := by
    rw [fFn3_packA]; simp only [BitVec.extractLsb'_append_eq_ite]; simp
  have h8 : fLo8 (packA 0x13 0 0 0 ((1 : BitVec 3) ++ n)) = n := by
    rw [fLo8_packA]; simp only [BitVec.extractLsb'_append_eq_ite]; simp
  rw [h3, h8]
  simp [unused]

theorem Encoding.ldB (d : Reg) (a : Reg) (o : BitVec 16) : Encoding.Statement (.ldB d a o) := by
  intro _ h
  have hm : (fMajor (packI 0x18 d a o)).toNat = 24 := by simp
  show decodeWord (packI 0x18 d a o) = _
  unfold decodeWord
  rw [hm]
  simp [unused, inRange, unusedInRange, h]

theorem Encoding.ldH (d : Reg) (a : Reg) (o : BitVec 16) : Encoding.Statement (.ldH d a o) := by
  intro _ h
  have hm : (fMajor (packI 0x19 d a o)).toNat = 25 := by simp
  show decodeWord (packI 0x19 d a o) = _
  unfold decodeWord
  rw [hm]
  simp [unused, inRange, unusedInRange, h]

theorem Encoding.ldW (d : Reg) (a : Reg) (o : BitVec 16) : Encoding.Statement (.ldW d a o) := by
  intro _ h
  have hm : (fMajor (packI 0x1A d a o)).toNat = 26 := by simp
  show decodeWord (packI 0x1A d a o) = _
  unfold decodeWord
  rw [hm]
  simp [unused, inRange, unusedInRange, h]

theorem Encoding.ldD (d : Reg) (a : Reg) (o : BitVec 16) : Encoding.Statement (.ldD d a o) := by
  intro _ h
  have hm : (fMajor (packI 0x1B d a o)).toNat = 27 := by simp
  show decodeWord (packI 0x1B d a o) = _
  unfold decodeWord
  rw [hm]
  simp [unused, inRange, unusedInRange, h]

theorem Encoding.ldBz (d : Reg) (a : Reg) (o : BitVec 16) : Encoding.Statement (.ldBz d a o) := by
  intro _ h
  have hm : (fMajor (packI 0x1C d a o)).toNat = 28 := by simp
  show decodeWord (packI 0x1C d a o) = _
  unfold decodeWord
  rw [hm]
  simp [unused, inRange, unusedInRange, h]

theorem Encoding.ldHz (d : Reg) (a : Reg) (o : BitVec 16) : Encoding.Statement (.ldHz d a o) := by
  intro _ h
  have hm : (fMajor (packI 0x1D d a o)).toNat = 29 := by simp
  show decodeWord (packI 0x1D d a o) = _
  unfold decodeWord
  rw [hm]
  simp [unused, inRange, unusedInRange, h]

theorem Encoding.ldWz (d : Reg) (a : Reg) (o : BitVec 16) : Encoding.Statement (.ldWz d a o) := by
  intro _ h
  have hm : (fMajor (packI 0x1E d a o)).toNat = 30 := by simp
  show decodeWord (packI 0x1E d a o) = _
  unfold decodeWord
  rw [hm]
  simp [unused, inRange, unusedInRange, h]

theorem Encoding.stB (d : Reg) (a : Reg) (o : BitVec 16) : Encoding.Statement (.stB d a o) := by
  intro _ h
  have hm : (fMajor (packI 0x20 d a o)).toNat = 32 := by simp
  show decodeWord (packI 0x20 d a o) = _
  unfold decodeWord
  rw [hm]
  simp [unused, inRange, unusedInRange, h]

theorem Encoding.stH (d : Reg) (a : Reg) (o : BitVec 16) : Encoding.Statement (.stH d a o) := by
  intro _ h
  have hm : (fMajor (packI 0x21 d a o)).toNat = 33 := by simp
  show decodeWord (packI 0x21 d a o) = _
  unfold decodeWord
  rw [hm]
  simp [unused, inRange, unusedInRange, h]

theorem Encoding.stW (d : Reg) (a : Reg) (o : BitVec 16) : Encoding.Statement (.stW d a o) := by
  intro _ h
  have hm : (fMajor (packI 0x22 d a o)).toNat = 34 := by simp
  show decodeWord (packI 0x22 d a o) = _
  unfold decodeWord
  rw [hm]
  simp [unused, inRange, unusedInRange, h]

theorem Encoding.stD (d : Reg) (a : Reg) (o : BitVec 16) : Encoding.Statement (.stD d a o) := by
  intro _ h
  have hm : (fMajor (packI 0x23 d a o)).toNat = 35 := by simp
  show decodeWord (packI 0x23 d a o) = _
  unfold decodeWord
  rw [hm]
  simp [unused, inRange, unusedInRange, h]

theorem Encoding.vld (d : Reg) (a : Reg) (o : BitVec 16) : Encoding.Statement (.vld d a o) := by
  intro _ h
  have hm : (fMajor (packI 0x24 d a o)).toNat = 36 := by simp
  show decodeWord (packI 0x24 d a o) = _
  unfold decodeWord
  rw [hm]
  simp [unused, inRange, unusedInRange, h]

theorem Encoding.vst (d : Reg) (a : Reg) (o : BitVec 16) : Encoding.Statement (.vst d a o) := by
  intro _ h
  have hm : (fMajor (packI 0x25 d a o)).toNat = 37 := by simp
  show decodeWord (packI 0x25 d a o) = _
  unfold decodeWord
  rw [hm]
  simp [unused, inRange, unusedInRange, h]

theorem Encoding.ldaW (d : Reg) (a : Reg) : Encoding.Statement (.ldaW d a) := by
  intro _ h
  have hm : (fMajor (packA 0x26 d a 0 0x000)).toNat = 38 := by simp
  show decodeWord (packA 0x26 d a 0 0x000) = _
  unfold decodeWord
  rw [hm]
  show decodeMemx _ = _
  unfold decodeMemx
  have hf : (fFn (packA 0x26 d a 0 0x000)).toNat = 0 := by simp
  rw [hf]
  simp [unused, inRange, unusedInRange, h]

theorem Encoding.ldaD (d : Reg) (a : Reg) : Encoding.Statement (.ldaD d a) := by
  intro _ h
  have hm : (fMajor (packA 0x26 d a 0 0x001)).toNat = 38 := by simp
  show decodeWord (packA 0x26 d a 0 0x001) = _
  unfold decodeWord
  rw [hm]
  show decodeMemx _ = _
  unfold decodeMemx
  have hf : (fFn (packA 0x26 d a 0 0x001)).toNat = 1 := by simp
  rw [hf]
  simp [unused, inRange, unusedInRange, h]

theorem Encoding.stlW (d : Reg) (a : Reg) : Encoding.Statement (.stlW d a) := by
  intro _ h
  have hm : (fMajor (packA 0x26 d a 0 0x002)).toNat = 38 := by simp
  show decodeWord (packA 0x26 d a 0 0x002) = _
  unfold decodeWord
  rw [hm]
  show decodeMemx _ = _
  unfold decodeMemx
  have hf : (fFn (packA 0x26 d a 0 0x002)).toNat = 2 := by simp
  rw [hf]
  simp [unused, inRange, unusedInRange, h]

theorem Encoding.stlD (d : Reg) (a : Reg) : Encoding.Statement (.stlD d a) := by
  intro _ h
  have hm : (fMajor (packA 0x26 d a 0 0x003)).toNat = 38 := by simp
  show decodeWord (packA 0x26 d a 0 0x003) = _
  unfold decodeWord
  rw [hm]
  show decodeMemx _ = _
  unfold decodeMemx
  have hf : (fFn (packA 0x26 d a 0 0x003)).toNat = 3 := by simp
  rw [hf]
  simp [unused, inRange, unusedInRange, h]

theorem Encoding.vldsH (d : Reg) (a : Reg) (b : Reg) : Encoding.Statement (.vldsH d a b) := by
  intro _ h
  have hm : (fMajor (packA 0x26 d a b 0x004)).toNat = 38 := by simp
  show decodeWord (packA 0x26 d a b 0x004) = _
  unfold decodeWord
  rw [hm]
  show decodeMemx _ = _
  unfold decodeMemx
  have hf : (fFn (packA 0x26 d a b 0x004)).toNat = 4 := by simp
  rw [hf]
  simp [unused, inRange, unusedInRange, h]

theorem Encoding.vldsW (d : Reg) (a : Reg) (b : Reg) : Encoding.Statement (.vldsW d a b) := by
  intro _ h
  have hm : (fMajor (packA 0x26 d a b 0x005)).toNat = 38 := by simp
  show decodeWord (packA 0x26 d a b 0x005) = _
  unfold decodeWord
  rw [hm]
  show decodeMemx _ = _
  unfold decodeMemx
  have hf : (fFn (packA 0x26 d a b 0x005)).toNat = 5 := by simp
  rw [hf]
  simp [unused, inRange, unusedInRange, h]

theorem Encoding.tagl (d : Reg) (a : Reg) : Encoding.Statement (.tagl d a) := by
  intro _ h
  have hm : (fMajor (packA 0x26 d a 0 0x008)).toNat = 38 := by simp
  show decodeWord (packA 0x26 d a 0 0x008) = _
  unfold decodeWord
  rw [hm]
  show decodeMemx _ = _
  unfold decodeMemx
  have hf : (fFn (packA 0x26 d a 0 0x008)).toNat = 8 := by simp
  rw [hf]
  simp [unused, inRange, unusedInRange, h]

theorem Encoding.tags (a : Reg) (b : Reg) : Encoding.Statement (.tags a b) := by
  intro _ h
  have hm : (fMajor (packA 0x26 0 a b 0x009)).toNat = 38 := by simp
  show decodeWord (packA 0x26 0 a b 0x009) = _
  unfold decodeWord
  rw [hm]
  show decodeMemx _ = _
  unfold decodeMemx
  have hf : (fFn (packA 0x26 0 a b 0x009)).toNat = 9 := by simp
  rw [hf]
  simp [unused, inRange, unusedInRange, h]

theorem Encoding.tagi (a : Reg) : Encoding.Statement (.tagi a) := by
  intro _ h
  have hm : (fMajor (packA 0x26 0 a 0 0x00A)).toNat = 38 := by simp
  show decodeWord (packA 0x26 0 a 0 0x00A) = _
  unfold decodeWord
  rw [hm]
  show decodeMemx _ = _
  unfold decodeMemx
  have hf : (fFn (packA 0x26 0 a 0 0x00A)).toNat = 10 := by simp
  rw [hf]
  simp [unused, inRange, unusedInRange, h]

theorem Encoding.retx (a : Reg) : Encoding.Statement (.retx a) := by
  intro _ h
  have hm : (fMajor (packA 0x26 0 a 0 0x00C)).toNat = 38 := by simp
  show decodeWord (packA 0x26 0 a 0 0x00C) = _
  unfold decodeWord
  rw [hm]
  show decodeMemx _ = _
  unfold decodeMemx
  have hf : (fFn (packA 0x26 0 a 0 0x00C)).toNat = 12 := by simp
  rw [hf]
  simp [unused, inRange, unusedInRange, h]

theorem Encoding.amoAdd (d : Reg) (a : Reg) (b : Reg) (c : Scope) (o : Order) (z : ASize) : Encoding.Statement (.amoAdd d a b c o z) := by
  intro _ h
  have hm : (fMajor (packAmo d a b c o z.code 0)).toNat = 39 := by simp
  show decodeWord (packAmo d a b c o z.code 0) = _
  unfold decodeWord
  rw [hm]
  show decodeAmo _ = _
  unfold decodeAmo
  have hc : scopeOf (fP (packAmo d a b c o z.code 0)) = some c := by simp
  rw [hc]
  cases z
  · have hz : (fSize (packAmo d a b c o ASize.w.code 0)).toNat = 0 := by simp [ASize.code]
    have hf : (fNib0 (packAmo d a b c o ASize.w.code 0)).toNat = 0 := by simp
    simp only [hz, hf]
    simp [inRange, h]
  · have hz : (fSize (packAmo d a b c o ASize.d.code 0)).toNat = 1 := by simp [ASize.code]
    have hf : (fNib0 (packAmo d a b c o ASize.d.code 0)).toNat = 0 := by simp
    simp only [hz, hf]
    simp [inRange, h]

theorem Encoding.amoAnd (d : Reg) (a : Reg) (b : Reg) (c : Scope) (o : Order) (z : ASize) : Encoding.Statement (.amoAnd d a b c o z) := by
  intro _ h
  have hm : (fMajor (packAmo d a b c o z.code 1)).toNat = 39 := by simp
  show decodeWord (packAmo d a b c o z.code 1) = _
  unfold decodeWord
  rw [hm]
  show decodeAmo _ = _
  unfold decodeAmo
  have hc : scopeOf (fP (packAmo d a b c o z.code 1)) = some c := by simp
  rw [hc]
  cases z
  · have hz : (fSize (packAmo d a b c o ASize.w.code 1)).toNat = 0 := by simp [ASize.code]
    have hf : (fNib0 (packAmo d a b c o ASize.w.code 1)).toNat = 1 := by simp
    simp only [hz, hf]
    simp [inRange, h]
  · have hz : (fSize (packAmo d a b c o ASize.d.code 1)).toNat = 1 := by simp [ASize.code]
    have hf : (fNib0 (packAmo d a b c o ASize.d.code 1)).toNat = 1 := by simp
    simp only [hz, hf]
    simp [inRange, h]

theorem Encoding.amoOr (d : Reg) (a : Reg) (b : Reg) (c : Scope) (o : Order) (z : ASize) : Encoding.Statement (.amoOr d a b c o z) := by
  intro _ h
  have hm : (fMajor (packAmo d a b c o z.code 2)).toNat = 39 := by simp
  show decodeWord (packAmo d a b c o z.code 2) = _
  unfold decodeWord
  rw [hm]
  show decodeAmo _ = _
  unfold decodeAmo
  have hc : scopeOf (fP (packAmo d a b c o z.code 2)) = some c := by simp
  rw [hc]
  cases z
  · have hz : (fSize (packAmo d a b c o ASize.w.code 2)).toNat = 0 := by simp [ASize.code]
    have hf : (fNib0 (packAmo d a b c o ASize.w.code 2)).toNat = 2 := by simp
    simp only [hz, hf]
    simp [inRange, h]
  · have hz : (fSize (packAmo d a b c o ASize.d.code 2)).toNat = 1 := by simp [ASize.code]
    have hf : (fNib0 (packAmo d a b c o ASize.d.code 2)).toNat = 2 := by simp
    simp only [hz, hf]
    simp [inRange, h]

theorem Encoding.amoXor (d : Reg) (a : Reg) (b : Reg) (c : Scope) (o : Order) (z : ASize) : Encoding.Statement (.amoXor d a b c o z) := by
  intro _ h
  have hm : (fMajor (packAmo d a b c o z.code 3)).toNat = 39 := by simp
  show decodeWord (packAmo d a b c o z.code 3) = _
  unfold decodeWord
  rw [hm]
  show decodeAmo _ = _
  unfold decodeAmo
  have hc : scopeOf (fP (packAmo d a b c o z.code 3)) = some c := by simp
  rw [hc]
  cases z
  · have hz : (fSize (packAmo d a b c o ASize.w.code 3)).toNat = 0 := by simp [ASize.code]
    have hf : (fNib0 (packAmo d a b c o ASize.w.code 3)).toNat = 3 := by simp
    simp only [hz, hf]
    simp [inRange, h]
  · have hz : (fSize (packAmo d a b c o ASize.d.code 3)).toNat = 1 := by simp [ASize.code]
    have hf : (fNib0 (packAmo d a b c o ASize.d.code 3)).toNat = 3 := by simp
    simp only [hz, hf]
    simp [inRange, h]

theorem Encoding.amoMin (d : Reg) (a : Reg) (b : Reg) (c : Scope) (o : Order) (z : ASize) : Encoding.Statement (.amoMin d a b c o z) := by
  intro _ h
  have hm : (fMajor (packAmo d a b c o z.code 4)).toNat = 39 := by simp
  show decodeWord (packAmo d a b c o z.code 4) = _
  unfold decodeWord
  rw [hm]
  show decodeAmo _ = _
  unfold decodeAmo
  have hc : scopeOf (fP (packAmo d a b c o z.code 4)) = some c := by simp
  rw [hc]
  cases z
  · have hz : (fSize (packAmo d a b c o ASize.w.code 4)).toNat = 0 := by simp [ASize.code]
    have hf : (fNib0 (packAmo d a b c o ASize.w.code 4)).toNat = 4 := by simp
    simp only [hz, hf]
    simp [inRange, h]
  · have hz : (fSize (packAmo d a b c o ASize.d.code 4)).toNat = 1 := by simp [ASize.code]
    have hf : (fNib0 (packAmo d a b c o ASize.d.code 4)).toNat = 4 := by simp
    simp only [hz, hf]
    simp [inRange, h]

theorem Encoding.amoMax (d : Reg) (a : Reg) (b : Reg) (c : Scope) (o : Order) (z : ASize) : Encoding.Statement (.amoMax d a b c o z) := by
  intro _ h
  have hm : (fMajor (packAmo d a b c o z.code 5)).toNat = 39 := by simp
  show decodeWord (packAmo d a b c o z.code 5) = _
  unfold decodeWord
  rw [hm]
  show decodeAmo _ = _
  unfold decodeAmo
  have hc : scopeOf (fP (packAmo d a b c o z.code 5)) = some c := by simp
  rw [hc]
  cases z
  · have hz : (fSize (packAmo d a b c o ASize.w.code 5)).toNat = 0 := by simp [ASize.code]
    have hf : (fNib0 (packAmo d a b c o ASize.w.code 5)).toNat = 5 := by simp
    simp only [hz, hf]
    simp [inRange, h]
  · have hz : (fSize (packAmo d a b c o ASize.d.code 5)).toNat = 1 := by simp [ASize.code]
    have hf : (fNib0 (packAmo d a b c o ASize.d.code 5)).toNat = 5 := by simp
    simp only [hz, hf]
    simp [inRange, h]

theorem Encoding.amoMinZ (d : Reg) (a : Reg) (b : Reg) (c : Scope) (o : Order) (z : ASize) : Encoding.Statement (.amoMinZ d a b c o z) := by
  intro _ h
  have hm : (fMajor (packAmo d a b c o z.code 6)).toNat = 39 := by simp
  show decodeWord (packAmo d a b c o z.code 6) = _
  unfold decodeWord
  rw [hm]
  show decodeAmo _ = _
  unfold decodeAmo
  have hc : scopeOf (fP (packAmo d a b c o z.code 6)) = some c := by simp
  rw [hc]
  cases z
  · have hz : (fSize (packAmo d a b c o ASize.w.code 6)).toNat = 0 := by simp [ASize.code]
    have hf : (fNib0 (packAmo d a b c o ASize.w.code 6)).toNat = 6 := by simp
    simp only [hz, hf]
    simp [inRange, h]
  · have hz : (fSize (packAmo d a b c o ASize.d.code 6)).toNat = 1 := by simp [ASize.code]
    have hf : (fNib0 (packAmo d a b c o ASize.d.code 6)).toNat = 6 := by simp
    simp only [hz, hf]
    simp [inRange, h]

theorem Encoding.amoMaxZ (d : Reg) (a : Reg) (b : Reg) (c : Scope) (o : Order) (z : ASize) : Encoding.Statement (.amoMaxZ d a b c o z) := by
  intro _ h
  have hm : (fMajor (packAmo d a b c o z.code 7)).toNat = 39 := by simp
  show decodeWord (packAmo d a b c o z.code 7) = _
  unfold decodeWord
  rw [hm]
  show decodeAmo _ = _
  unfold decodeAmo
  have hc : scopeOf (fP (packAmo d a b c o z.code 7)) = some c := by simp
  rw [hc]
  cases z
  · have hz : (fSize (packAmo d a b c o ASize.w.code 7)).toNat = 0 := by simp [ASize.code]
    have hf : (fNib0 (packAmo d a b c o ASize.w.code 7)).toNat = 7 := by simp
    simp only [hz, hf]
    simp [inRange, h]
  · have hz : (fSize (packAmo d a b c o ASize.d.code 7)).toNat = 1 := by simp [ASize.code]
    have hf : (fNib0 (packAmo d a b c o ASize.d.code 7)).toNat = 7 := by simp
    simp only [hz, hf]
    simp [inRange, h]

theorem Encoding.amoXchg (d : Reg) (a : Reg) (b : Reg) (c : Scope) (o : Order) (z : ASize) : Encoding.Statement (.amoXchg d a b c o z) := by
  intro _ h
  have hm : (fMajor (packAmo d a b c o z.code 8)).toNat = 39 := by simp
  show decodeWord (packAmo d a b c o z.code 8) = _
  unfold decodeWord
  rw [hm]
  show decodeAmo _ = _
  unfold decodeAmo
  have hc : scopeOf (fP (packAmo d a b c o z.code 8)) = some c := by simp
  rw [hc]
  cases z
  · have hz : (fSize (packAmo d a b c o ASize.w.code 8)).toNat = 0 := by simp [ASize.code]
    have hf : (fNib0 (packAmo d a b c o ASize.w.code 8)).toNat = 8 := by simp
    simp only [hz, hf]
    simp [inRange, h]
  · have hz : (fSize (packAmo d a b c o ASize.d.code 8)).toNat = 1 := by simp [ASize.code]
    have hf : (fNib0 (packAmo d a b c o ASize.d.code 8)).toNat = 8 := by simp
    simp only [hz, hf]
    simp [inRange, h]

theorem Encoding.amoCas (d : Reg) (a : Reg) (b : Reg) (c : Scope) (o : Order) (z : ASize) : Encoding.Statement (.amoCas d a b c o z) := by
  intro _ h
  have hm : (fMajor (packAmo d a b c o z.code 9)).toNat = 39 := by simp
  show decodeWord (packAmo d a b c o z.code 9) = _
  unfold decodeWord
  rw [hm]
  show decodeAmo _ = _
  unfold decodeAmo
  have hc : scopeOf (fP (packAmo d a b c o z.code 9)) = some c := by simp
  rw [hc]
  cases z
  · have hz : (fSize (packAmo d a b c o ASize.w.code 9)).toNat = 0 := by simp [ASize.code]
    have hf : (fNib0 (packAmo d a b c o ASize.w.code 9)).toNat = 9 := by simp
    simp only [hz, hf]
    simp [inRange, h]
  · have hz : (fSize (packAmo d a b c o ASize.d.code 9)).toNat = 1 := by simp [ASize.code]
    have hf : (fNib0 (packAmo d a b c o ASize.d.code 9)).toNat = 9 := by simp
    simp only [hz, hf]
    simp [inRange, h]

theorem Encoding.amoFaddF32 (d : Reg) (a : Reg) (b : Reg) (c : Scope) (o : Order) : Encoding.Statement (.amoFaddF32 d a b c o) := by
  intro _ h
  have hm : (fMajor (packAmo d a b c o 0 10)).toNat = 39 := by simp
  show decodeWord (packAmo d a b c o 0 10) = _
  unfold decodeWord
  rw [hm]
  show decodeAmo _ = _
  unfold decodeAmo
  have hc : scopeOf (fP (packAmo d a b c o 0 10)) = some c := by simp
  rw [hc]
  have hz : (fSize (packAmo d a b c o 0 10)).toNat = 0 := by simp
  have hf : (fNib0 (packAmo d a b c o 0 10)).toNat = 10 := by simp
  simp only [hz, hf]
  simp [inRange, h]

theorem Encoding.amoXadd (d : Reg) (a : Reg) (b : Reg) (c : Scope) (o : Order) : Encoding.Statement (.amoXadd d a b c o) := by
  intro _ h
  have hm : (fMajor (packAmo d a b c o 2 11)).toNat = 39 := by simp
  show decodeWord (packAmo d a b c o 2 11) = _
  unfold decodeWord
  rw [hm]
  show decodeAmo _ = _
  unfold decodeAmo
  have hc : scopeOf (fP (packAmo d a b c o 2 11)) = some c := by simp
  rw [hc]
  have hz : (fSize (packAmo d a b c o 2 11)).toNat = 2 := by simp
  have hf : (fNib0 (packAmo d a b c o 2 11)).toNat = 11 := by simp
  simp only [hz, hf]
  simp [inRange, h]

theorem Encoding.fence (k : BitVec 4) (s : Scope) : Encoding.Statement (.fence k s) := by
  intro _ h
  have hm : (fMajor (packA 0x28 0 0 0 ((0 : BitVec 3) ++ k ++ (0 : BitVec 1) ++ s.code))).toNat = 40 := by simp
  show decodeWord (packA 0x28 0 0 0 ((0 : BitVec 3) ++ k ++ (0 : BitVec 1) ++ s.code)) = _
  unfold decodeWord
  rw [hm]
  show decodeOrd _ = _
  unfold decodeOrd
  obtain ⟨h0, h3, hb, hs, hk⟩ := fence_fields k s
  rw [fFn_packA, fFn3_packA, fDst_packA, fNib1_packA, h0, h3, hb, hs, hk]
  simp [unused, inRange, unusedInRange, h]

theorem Encoding.fenceX : Encoding.Statement (.fenceX) := by
  intro _ h
  have hm : (fMajor (packA 0x28 0 0 0 0x100)).toNat = 40 := by simp
  show decodeWord (packA 0x28 0 0 0 0x100) = _
  unfold decodeWord
  rw [hm]
  show decodeOrd _ = _
  unfold decodeOrd
  simp [unused]

theorem Encoding.vadd (d : Reg) (a : Reg) (b : Reg) (p : PReg) (f : Fmt) : Encoding.Statement (.vadd d a b p f) := by
  intro _ h
  have hm : (fMajor (packV 0x30 d a b p f.code 0x00)).toNat = 48 := by simp
  show decodeWord (packV 0x30 d a b p f.code 0x00) = _
  unfold decodeWord
  rw [hm]
  show decodeVarith _ = _
  unfold decodeVarith
  have hf : (fLo6 (packV 0x30 d a b p f.code 0x00)).toNat = 0 := by simp
  rw [hf]
  simp [unused, inRange, unusedInRange, h]

theorem Encoding.vsub (d : Reg) (a : Reg) (b : Reg) (p : PReg) (f : Fmt) : Encoding.Statement (.vsub d a b p f) := by
  intro _ h
  have hm : (fMajor (packV 0x30 d a b p f.code 0x01)).toNat = 48 := by simp
  show decodeWord (packV 0x30 d a b p f.code 0x01) = _
  unfold decodeWord
  rw [hm]
  show decodeVarith _ = _
  unfold decodeVarith
  have hf : (fLo6 (packV 0x30 d a b p f.code 0x01)).toNat = 1 := by simp
  rw [hf]
  simp [unused, inRange, unusedInRange, h]

theorem Encoding.vmul (d : Reg) (a : Reg) (b : Reg) (p : PReg) (f : Fmt) : Encoding.Statement (.vmul d a b p f) := by
  intro _ h
  have hm : (fMajor (packV 0x30 d a b p f.code 0x02)).toNat = 48 := by simp
  show decodeWord (packV 0x30 d a b p f.code 0x02) = _
  unfold decodeWord
  rw [hm]
  show decodeVarith _ = _
  unfold decodeVarith
  have hf : (fLo6 (packV 0x30 d a b p f.code 0x02)).toNat = 2 := by simp
  rw [hf]
  simp [unused, inRange, unusedInRange, h]

theorem Encoding.vfma (d : Reg) (a : Reg) (b : Reg) (p : PReg) (f : Fmt) : Encoding.Statement (.vfma d a b p f) := by
  intro _ h
  have hm : (fMajor (packV 0x30 d a b p f.code 0x03)).toNat = 48 := by simp
  show decodeWord (packV 0x30 d a b p f.code 0x03) = _
  unfold decodeWord
  rw [hm]
  show decodeVarith _ = _
  unfold decodeVarith
  have hf : (fLo6 (packV 0x30 d a b p f.code 0x03)).toNat = 3 := by simp
  rw [hf]
  simp [unused, inRange, unusedInRange, h]

theorem Encoding.vmin (d : Reg) (a : Reg) (b : Reg) (p : PReg) (f : Fmt) : Encoding.Statement (.vmin d a b p f) := by
  intro _ h
  have hm : (fMajor (packV 0x30 d a b p f.code 0x04)).toNat = 48 := by simp
  show decodeWord (packV 0x30 d a b p f.code 0x04) = _
  unfold decodeWord
  rw [hm]
  show decodeVarith _ = _
  unfold decodeVarith
  have hf : (fLo6 (packV 0x30 d a b p f.code 0x04)).toNat = 4 := by simp
  rw [hf]
  simp [unused, inRange, unusedInRange, h]

theorem Encoding.vmax (d : Reg) (a : Reg) (b : Reg) (p : PReg) (f : Fmt) : Encoding.Statement (.vmax d a b p f) := by
  intro _ h
  have hm : (fMajor (packV 0x30 d a b p f.code 0x05)).toNat = 48 := by simp
  show decodeWord (packV 0x30 d a b p f.code 0x05) = _
  unfold decodeWord
  rw [hm]
  show decodeVarith _ = _
  unfold decodeVarith
  have hf : (fLo6 (packV 0x30 d a b p f.code 0x05)).toNat = 5 := by simp
  rw [hf]
  simp [unused, inRange, unusedInRange, h]

theorem Encoding.vabs (d : Reg) (a : Reg) (p : PReg) (f : Fmt) : Encoding.Statement (.vabs d a p f) := by
  intro _ h
  have hm : (fMajor (packV 0x30 d a 0 p f.code 0x06)).toNat = 48 := by simp
  show decodeWord (packV 0x30 d a 0 p f.code 0x06) = _
  unfold decodeWord
  rw [hm]
  show decodeVarith _ = _
  unfold decodeVarith
  have hf : (fLo6 (packV 0x30 d a 0 p f.code 0x06)).toNat = 6 := by simp
  rw [hf]
  simp [unused, inRange, unusedInRange, h]

theorem Encoding.vneg (d : Reg) (a : Reg) (p : PReg) (f : Fmt) : Encoding.Statement (.vneg d a p f) := by
  intro _ h
  have hm : (fMajor (packV 0x30 d a 0 p f.code 0x07)).toNat = 48 := by simp
  show decodeWord (packV 0x30 d a 0 p f.code 0x07) = _
  unfold decodeWord
  rw [hm]
  show decodeVarith _ = _
  unfold decodeVarith
  have hf : (fLo6 (packV 0x30 d a 0 p f.code 0x07)).toNat = 7 := by simp
  rw [hf]
  simp [unused, inRange, unusedInRange, h]

theorem Encoding.vand (d : Reg) (a : Reg) (b : Reg) (p : PReg) (f : Fmt) : Encoding.Statement (.vand d a b p f) := by
  intro _ h
  have hm : (fMajor (packV 0x30 d a b p f.code 0x08)).toNat = 48 := by simp
  show decodeWord (packV 0x30 d a b p f.code 0x08) = _
  unfold decodeWord
  rw [hm]
  show decodeVarith _ = _
  unfold decodeVarith
  have hf : (fLo6 (packV 0x30 d a b p f.code 0x08)).toNat = 8 := by simp
  rw [hf]
  simp [unused, inRange, unusedInRange, h]

theorem Encoding.vor (d : Reg) (a : Reg) (b : Reg) (p : PReg) (f : Fmt) : Encoding.Statement (.vor d a b p f) := by
  intro _ h
  have hm : (fMajor (packV 0x30 d a b p f.code 0x09)).toNat = 48 := by simp
  show decodeWord (packV 0x30 d a b p f.code 0x09) = _
  unfold decodeWord
  rw [hm]
  show decodeVarith _ = _
  unfold decodeVarith
  have hf : (fLo6 (packV 0x30 d a b p f.code 0x09)).toNat = 9 := by simp
  rw [hf]
  simp [unused, inRange, unusedInRange, h]

theorem Encoding.vxor (d : Reg) (a : Reg) (b : Reg) (p : PReg) (f : Fmt) : Encoding.Statement (.vxor d a b p f) := by
  intro _ h
  have hm : (fMajor (packV 0x30 d a b p f.code 0x0A)).toNat = 48 := by simp
  show decodeWord (packV 0x30 d a b p f.code 0x0A) = _
  unfold decodeWord
  rw [hm]
  show decodeVarith _ = _
  unfold decodeVarith
  have hf : (fLo6 (packV 0x30 d a b p f.code 0x0A)).toNat = 10 := by simp
  rw [hf]
  simp [unused, inRange, unusedInRange, h]

theorem Encoding.vsll (d : Reg) (a : Reg) (b : Reg) (p : PReg) (f : Fmt) : Encoding.Statement (.vsll d a b p f) := by
  intro _ h
  have hm : (fMajor (packV 0x30 d a b p f.code 0x0B)).toNat = 48 := by simp
  show decodeWord (packV 0x30 d a b p f.code 0x0B) = _
  unfold decodeWord
  rw [hm]
  show decodeVarith _ = _
  unfold decodeVarith
  have hf : (fLo6 (packV 0x30 d a b p f.code 0x0B)).toNat = 11 := by simp
  rw [hf]
  simp [unused, inRange, unusedInRange, h]

theorem Encoding.vsrl (d : Reg) (a : Reg) (b : Reg) (p : PReg) (f : Fmt) : Encoding.Statement (.vsrl d a b p f) := by
  intro _ h
  have hm : (fMajor (packV 0x30 d a b p f.code 0x0C)).toNat = 48 := by simp
  show decodeWord (packV 0x30 d a b p f.code 0x0C) = _
  unfold decodeWord
  rw [hm]
  show decodeVarith _ = _
  unfold decodeVarith
  have hf : (fLo6 (packV 0x30 d a b p f.code 0x0C)).toNat = 12 := by simp
  rw [hf]
  simp [unused, inRange, unusedInRange, h]

theorem Encoding.vsra (d : Reg) (a : Reg) (b : Reg) (p : PReg) (f : Fmt) : Encoding.Statement (.vsra d a b p f) := by
  intro _ h
  have hm : (fMajor (packV 0x30 d a b p f.code 0x0D)).toNat = 48 := by simp
  show decodeWord (packV 0x30 d a b p f.code 0x0D) = _
  unfold decodeWord
  rw [hm]
  show decodeVarith _ = _
  unfold decodeVarith
  have hf : (fLo6 (packV 0x30 d a b p f.code 0x0D)).toNat = 13 := by simp
  rw [hf]
  simp [unused, inRange, unusedInRange, h]

theorem Encoding.vsel (d : Reg) (a : Reg) (b : Reg) (p : PReg) (f : Fmt) : Encoding.Statement (.vsel d a b p f) := by
  intro _ h
  have hm : (fMajor (packV 0x30 d a b p f.code 0x0E)).toNat = 48 := by simp
  show decodeWord (packV 0x30 d a b p f.code 0x0E) = _
  unfold decodeWord
  rw [hm]
  show decodeVarith _ = _
  unfold decodeVarith
  have hf : (fLo6 (packV 0x30 d a b p f.code 0x0E)).toNat = 14 := by simp
  rw [hf]
  simp [unused, inRange, unusedInRange, h]

theorem Encoding.vexp2 (d : Reg) (a : Reg) (p : PReg) (f : Fmt) : Encoding.Statement (.vexp2 d a p f) := by
  intro _ h
  have hm : (fMajor (packV 0x30 d a 0 p f.code 0x10)).toNat = 48 := by simp
  show decodeWord (packV 0x30 d a 0 p f.code 0x10) = _
  unfold decodeWord
  rw [hm]
  show decodeVarith _ = _
  unfold decodeVarith
  have hf : (fLo6 (packV 0x30 d a 0 p f.code 0x10)).toNat = 16 := by simp
  rw [hf]
  simp [unused, inRange, unusedInRange, h]

theorem Encoding.vlog2 (d : Reg) (a : Reg) (p : PReg) (f : Fmt) : Encoding.Statement (.vlog2 d a p f) := by
  intro _ h
  have hm : (fMajor (packV 0x30 d a 0 p f.code 0x11)).toNat = 48 := by simp
  show decodeWord (packV 0x30 d a 0 p f.code 0x11) = _
  unfold decodeWord
  rw [hm]
  show decodeVarith _ = _
  unfold decodeVarith
  have hf : (fLo6 (packV 0x30 d a 0 p f.code 0x11)).toNat = 17 := by simp
  rw [hf]
  simp [unused, inRange, unusedInRange, h]

theorem Encoding.vrcp (d : Reg) (a : Reg) (p : PReg) (f : Fmt) : Encoding.Statement (.vrcp d a p f) := by
  intro _ h
  have hm : (fMajor (packV 0x30 d a 0 p f.code 0x12)).toNat = 48 := by simp
  show decodeWord (packV 0x30 d a 0 p f.code 0x12) = _
  unfold decodeWord
  rw [hm]
  show decodeVarith _ = _
  unfold decodeVarith
  have hf : (fLo6 (packV 0x30 d a 0 p f.code 0x12)).toNat = 18 := by simp
  rw [hf]
  simp [unused, inRange, unusedInRange, h]

theorem Encoding.vrsq (d : Reg) (a : Reg) (p : PReg) (f : Fmt) : Encoding.Statement (.vrsq d a p f) := by
  intro _ h
  have hm : (fMajor (packV 0x30 d a 0 p f.code 0x13)).toNat = 48 := by simp
  show decodeWord (packV 0x30 d a 0 p f.code 0x13) = _
  unfold decodeWord
  rw [hm]
  show decodeVarith _ = _
  unfold decodeVarith
  have hf : (fLo6 (packV 0x30 d a 0 p f.code 0x13)).toNat = 19 := by simp
  rw [hf]
  simp [unused, inRange, unusedInRange, h]

theorem Encoding.vbc (d : Reg) (a : Reg) (p : PReg) (f : Fmt) : Encoding.Statement (.vbc d a p f) := by
  intro _ h
  have hm : (fMajor (packV 0x30 d a 0 p f.code 0x14)).toNat = 48 := by simp
  show decodeWord (packV 0x30 d a 0 p f.code 0x14) = _
  unfold decodeWord
  rw [hm]
  show decodeVarith _ = _
  unfold decodeVarith
  have hf : (fLo6 (packV 0x30 d a 0 p f.code 0x14)).toNat = 20 := by simp
  rw [hf]
  simp [unused, inRange, unusedInRange, h]

theorem Encoding.vredAdd (d : Reg) (a : Reg) (p : PReg) (f : Fmt) : Encoding.Statement (.vredAdd d a p f) := by
  intro _ h
  have hm : (fMajor (packV 0x30 d a 0 p f.code 0x15)).toNat = 48 := by simp
  show decodeWord (packV 0x30 d a 0 p f.code 0x15) = _
  unfold decodeWord
  rw [hm]
  show decodeVarith _ = _
  unfold decodeVarith
  have hf : (fLo6 (packV 0x30 d a 0 p f.code 0x15)).toNat = 21 := by simp
  rw [hf]
  simp [unused, inRange, unusedInRange, h]

theorem Encoding.vredMin (d : Reg) (a : Reg) (p : PReg) (f : Fmt) : Encoding.Statement (.vredMin d a p f) := by
  intro _ h
  have hm : (fMajor (packV 0x30 d a 0 p f.code 0x16)).toNat = 48 := by simp
  show decodeWord (packV 0x30 d a 0 p f.code 0x16) = _
  unfold decodeWord
  rw [hm]
  show decodeVarith _ = _
  unfold decodeVarith
  have hf : (fLo6 (packV 0x30 d a 0 p f.code 0x16)).toNat = 22 := by simp
  rw [hf]
  simp [unused, inRange, unusedInRange, h]

theorem Encoding.vredMax (d : Reg) (a : Reg) (p : PReg) (f : Fmt) : Encoding.Statement (.vredMax d a p f) := by
  intro _ h
  have hm : (fMajor (packV 0x30 d a 0 p f.code 0x17)).toNat = 48 := by simp
  show decodeWord (packV 0x30 d a 0 p f.code 0x17) = _
  unfold decodeWord
  rw [hm]
  show decodeVarith _ = _
  unfold decodeVarith
  have hf : (fLo6 (packV 0x30 d a 0 p f.code 0x17)).toNat = 23 := by simp
  rw [hf]
  simp [unused, inRange, unusedInRange, h]

theorem Encoding.vdot (d : Reg) (a : Reg) (b : Reg) (p : PReg) (f : Fmt) : Encoding.Statement (.vdot d a b p f) := by
  intro _ h
  have hm : (fMajor (packV 0x30 d a b p f.code 0x18)).toNat = 48 := by simp
  show decodeWord (packV 0x30 d a b p f.code 0x18) = _
  unfold decodeWord
  rw [hm]
  show decodeVarith _ = _
  unfold decodeVarith
  have hf : (fLo6 (packV 0x30 d a b p f.code 0x18)).toNat = 24 := by simp
  rw [hf]
  simp [unused, inRange, unusedInRange, h]

theorem Encoding.vsqd (d : Reg) (a : Reg) (b : Reg) (p : PReg) : Encoding.Statement (.vsqd d a b p) := by
  intro _ h
  have hm : (fMajor (packV 0x30 d a b p 0 0x19)).toNat = 48 := by simp
  show decodeWord (packV 0x30 d a b p 0 0x19) = _
  unfold decodeWord
  rw [hm]
  show decodeVarith _ = _
  unfold decodeVarith
  have hf : (fLo6 (packV 0x30 d a b p 0 0x19)).toNat = 25 := by simp
  rw [hf]
  simp [unused, inRange, unusedInRange, h]

theorem Encoding.vcmp (d : Reg) (a : Reg) (b : Reg) (p : PReg) (f : Fmt) (c : Cond) : Encoding.Statement (.vcmp d a b p f c) := by
  intro _ h
  have hm : (fMajor (packV 0x31 d a b p f.code c.code)).toNat = 49 := by simp
  show decodeWord (packV 0x31 d a b p f.code c.code) = _
  unfold decodeWord
  rw [hm]
  show decodeVcmp _ = _
  unfold decodeVcmp
  simp [unused, inRange, unusedInRange, h]

theorem Encoding.vcvt (d : Reg) (a : Reg) (p : PReg) (s : NFmt) (t : NFmt) : Encoding.Statement (.vcvt d a p s t) := by
  intro _ h
  have hm : (fMajor (packV 0x32 d a 0 p 0 (s.code ++ t.code))).toNat = 50 := by simp
  show decodeWord (packV 0x32 d a 0 p 0 (s.code ++ t.code)) = _
  unfold decodeWord
  rw [hm]
  show decodeVcvt _ = _
  unfold decodeVcvt
  have hs : BitVec.extractLsb' 3 3 (s.code ++ t.code) = s.code := by
    simp only [BitVec.extractLsb'_append_eq_ite]; simp
  have ht : BitVec.extractLsb' 0 3 (s.code ++ t.code) = t.code := by
    simp only [BitVec.extractLsb'_append_eq_ite]; simp
  rw [fSrc_packV, fDst_packV, hs, ht, nfmtOf_code, nfmtOf_code]
  simp [unused, inRange, unusedInRange, h]

theorem Encoding.vxl (d : Reg) (a : Reg) (b : Reg) (p : PReg) (f : Fmt) : Encoding.Statement (.vxl d a b p f) := by
  intro _ h
  have hm : (fMajor (packV 0x33 d a b p f.code 0x00)).toNat = 51 := by simp
  show decodeWord (packV 0x33 d a b p f.code 0x00) = _
  unfold decodeWord
  rw [hm]
  show decodeVlane _ = _
  unfold decodeVlane
  have hf : (fLo6 (packV 0x33 d a b p f.code 0x00)).toNat = 0 := by simp
  rw [hf]
  simp [unused, inRange, unusedInRange, h]

theorem Encoding.vperm (d : Reg) (a : Reg) (n : Reg) (p : PReg) (f : Fmt) : Encoding.Statement (.vperm d a n p f) := by
  intro _ h
  have hm : (fMajor (packV 0x33 d a n p f.code 0x01)).toNat = 51 := by simp
  show decodeWord (packV 0x33 d a n p f.code 0x01) = _
  unfold decodeWord
  rw [hm]
  show decodeVlane _ = _
  unfold decodeVlane
  have hf : (fLo6 (packV 0x33 d a n p f.code 0x01)).toNat = 1 := by simp
  rw [hf]
  simp [unused, inRange, unusedInRange, h]

theorem Encoding.vnzs (d : Reg) (a : Reg) (b : Reg) (p : PReg) (f : Fmt) : Encoding.Statement (.vnzs d a b p f) := by
  intro _ h
  have hm : (fMajor (packV 0x33 d a b p f.code 0x02)).toNat = 51 := by simp
  show decodeWord (packV 0x33 d a b p f.code 0x02) = _
  unfold decodeWord
  rw [hm]
  show decodeVlane _ = _
  unfold decodeVlane
  have hf : (fLo6 (packV 0x33 d a b p f.code 0x02)).toNat = 2 := by simp
  rw [hf]
  simp [unused, inRange, unusedInRange, h]

theorem Encoding.vgth (d : Reg) (a : Reg) (b : Reg) (p : PReg) (f : Fmt) : Encoding.Statement (.vgth d a b p f) := by
  intro _ h
  have hm : (fMajor (packV 0x34 d a b p f.code 0x00)).toNat = 52 := by simp
  show decodeWord (packV 0x34 d a b p f.code 0x00) = _
  unfold decodeWord
  rw [hm]
  show decodeVmsg _ = _
  unfold decodeVmsg
  have hf : (fLo6 (packV 0x34 d a b p f.code 0x00)).toNat = 0 := by simp
  rw [hf]
  simp [unused, inRange, unusedInRange, h]

theorem Encoding.vsct (d : Reg) (a : Reg) (b : Reg) (p : PReg) (f : Fmt) : Encoding.Statement (.vsct d a b p f) := by
  intro _ h
  have hm : (fMajor (packV 0x34 d a b p f.code 0x01)).toNat = 52 := by simp
  show decodeWord (packV 0x34 d a b p f.code 0x01) = _
  unfold decodeWord
  rw [hm]
  show decodeVmsg _ = _
  unfold decodeVmsg
  have hf : (fLo6 (packV 0x34 d a b p f.code 0x01)).toNat = 1 := by simp
  rw [hf]
  simp [unused, inRange, unusedInRange, h]

theorem Encoding.enq (a : Reg) (q : Reg) : Encoding.Statement (.enq a q) := by
  intro _ h
  have hm : (fMajor (packA 0x38 0 a q 0x000)).toNat = 56 := by simp
  show decodeWord (packA 0x38 0 a q 0x000) = _
  unfold decodeWord
  rw [hm]
  show decodeEng _ = _
  unfold decodeEng
  have hf : (fFn (packA 0x38 0 a q 0x000)).toNat = 0 := by simp
  rw [hf]
  simp [unused, inRange, unusedInRange, h]

theorem Encoding.deq (d : Reg) (q : Reg) : Encoding.Statement (.deq d q) := by
  intro _ h
  have hm : (fMajor (packA 0x38 d 0 q 0x001)).toNat = 56 := by simp
  show decodeWord (packA 0x38 d 0 q 0x001) = _
  unfold decodeWord
  rw [hm]
  show decodeEng _ = _
  unfold decodeEng
  have hf : (fFn (packA 0x38 d 0 q 0x001)).toNat = 1 := by simp
  rw [hf]
  simp [unused, inRange, unusedInRange, h]

theorem Encoding.wtok (a : Reg) : Encoding.Statement (.wtok a) := by
  intro _ h
  have hm : (fMajor (packA 0x38 0 a 0 0x002)).toNat = 56 := by simp
  show decodeWord (packA 0x38 0 a 0 0x002) = _
  unfold decodeWord
  rw [hm]
  show decodeEng _ = _
  unfold decodeEng
  have hf : (fFn (packA 0x38 0 a 0 0x002)).toNat = 2 := by simp
  rw [hf]
  simp [unused, inRange, unusedInRange, h]

theorem Encoding.tokq (d : Reg) (a : Reg) : Encoding.Statement (.tokq d a) := by
  intro _ h
  have hm : (fMajor (packA 0x38 d a 0 0x003)).toNat = 56 := by simp
  show decodeWord (packA 0x38 d a 0 0x003) = _
  unfold decodeWord
  rw [hm]
  show decodeEng _ = _
  unfold decodeEng
  have hf : (fFn (packA 0x38 d a 0 0x003)).toNat = 3 := by simp
  rw [hf]
  simp [unused, inRange, unusedInRange, h]

theorem Encoding.mvm (d : Reg) (a : Reg) : Encoding.Statement (.mvm d a) := by
  intro _ h
  have hm : (fMajor (packA 0x39 d a 0 0x000)).toNat = 57 := by simp
  show decodeWord (packA 0x39 d a 0 0x000) = _
  unfold decodeWord
  rw [hm]
  show decodeMsg _ = _
  unfold decodeMsg
  have hf : (fFn (packA 0x39 d a 0 0x000)).toNat = 0 := by simp
  rw [hf]
  simp [unused, inRange, unusedInRange, h]

theorem Encoding.send (d : Reg) (a : Reg) : Encoding.Statement (.send d a) := by
  intro _ h
  have hm : (fMajor (packA 0x39 d a 0 0x001)).toNat = 57 := by simp
  show decodeWord (packA 0x39 d a 0 0x001) = _
  unfold decodeWord
  rw [hm]
  show decodeMsg _ = _
  unfold decodeMsg
  have hf : (fFn (packA 0x39 d a 0 0x001)).toNat = 1 := by simp
  rw [hf]
  simp [unused, inRange, unusedInRange, h]

theorem Encoding.sendh (d : Reg) (a : Reg) : Encoding.Statement (.sendh d a) := by
  intro _ h
  have hm : (fMajor (packA 0x39 d a 0 0x002)).toNat = 57 := by simp
  show decodeWord (packA 0x39 d a 0 0x002) = _
  unfold decodeWord
  rw [hm]
  show decodeMsg _ = _
  unfold decodeMsg
  have hf : (fFn (packA 0x39 d a 0 0x002)).toNat = 2 := by simp
  rw [hf]
  simp [unused, inRange, unusedInRange, h]

theorem Encoding.spawn (d : Reg) : Encoding.Statement (.spawn d) := by
  intro _ h
  have hm : (fMajor (packA 0x39 d 0 0 0x003)).toNat = 57 := by simp
  show decodeWord (packA 0x39 d 0 0 0x003) = _
  unfold decodeWord
  rw [hm]
  show decodeMsg _ = _
  unfold decodeMsg
  have hf : (fFn (packA 0x39 d 0 0 0x003)).toNat = 3 := by simp
  rw [hf]
  simp [unused, inRange, unusedInRange, h]

theorem Encoding.jinit (a : Reg) (b : Reg) : Encoding.Statement (.jinit a b) := by
  intro _ h
  have hm : (fMajor (packA 0x39 0 a b 0x004)).toNat = 57 := by simp
  show decodeWord (packA 0x39 0 a b 0x004) = _
  unfold decodeWord
  rw [hm]
  show decodeMsg _ = _
  unfold decodeMsg
  have hf : (fFn (packA 0x39 0 a b 0x004)).toNat = 4 := by simp
  rw [hf]
  simp [unused, inRange, unusedInRange, h]

theorem Encoding.arrive (a : Reg) : Encoding.Statement (.arrive a) := by
  intro _ h
  have hm : (fMajor (packA 0x39 0 a 0 0x005)).toNat = 57 := by simp
  show decodeWord (packA 0x39 0 a 0 0x005) = _
  unfold decodeWord
  rw [hm]
  show decodeMsg _ = _
  unfold decodeMsg
  have hf : (fFn (packA 0x39 0 a 0 0x005)).toNat = 5 := by simp
  rw [hf]
  simp [unused, inRange, unusedInRange, h]

theorem Encoding.arriveRlx (a : Reg) : Encoding.Statement (.arriveRlx a) := by
  intro _ h
  have hm : (fMajor (packA 0x39 0 a 0 0x006)).toNat = 57 := by simp
  show decodeWord (packA 0x39 0 a 0 0x006) = _
  unfold decodeWord
  rw [hm]
  show decodeMsg _ = _
  unfold decodeMsg
  have hf : (fFn (packA 0x39 0 a 0 0x006)).toNat = 6 := by simp
  rw [hf]
  simp [unused, inRange, unusedInRange, h]

theorem Encoding.susp (o : BitVec 21) : Encoding.Statement (.susp o) := by
  intro _ h
  have hm : (fMajor (packJ 0x3A 0 o)).toNat = 58 := by simp
  show decodeWord (packJ 0x3A 0 o) = _
  unfold decodeWord
  rw [hm]
  simp [unused, inRange, unusedInRange, h]

theorem Encoding.migr (a : Reg) (o : BitVec 16) : Encoding.Statement (.migr a o) := by
  intro _ h
  have hm : (fMajor (packI 0x3B a 0 o)).toNat = 59 := by simp
  show decodeWord (packI 0x3B a 0 o) = _
  unfold decodeWord
  rw [hm]
  simp [unused, inRange, unusedInRange, h]

theorem Encoding.ixnew (d : Reg) (a : Reg) : Encoding.Statement (.ixnew d a) := by
  intro _ h
  have hm : (fMajor (packA 0x3C d a 0 0x000)).toNat = 60 := by simp
  show decodeWord (packA 0x3C d a 0 0x000) = _
  unfold decodeWord
  rw [hm]
  show decodeIx _ = _
  unfold decodeIx
  have hf : (fFn (packA 0x3C d a 0 0x000)).toNat = 0 := by simp
  rw [hf]
  simp [unused, inRange, unusedInRange, h]

theorem Encoding.ixdel (d : Reg) (a : Reg) : Encoding.Statement (.ixdel d a) := by
  intro _ h
  have hm : (fMajor (packA 0x3C d a 0 0x001)).toNat = 60 := by simp
  show decodeWord (packA 0x3C d a 0 0x001) = _
  unfold decodeWord
  rw [hm]
  show decodeIx _ = _
  unfold decodeIx
  have hf : (fFn (packA 0x3C d a 0 0x001)).toNat = 1 := by simp
  rw [hf]
  simp [unused, inRange, unusedInRange, h]

theorem Encoding.stv (d : Reg) (a : Reg) (b : Reg) : Encoding.Statement (.stv d a b) := by
  intro _ h
  have hm : (fMajor (packA 0x3C d a b 0x002)).toNat = 60 := by simp
  show decodeWord (packA 0x3C d a b 0x002) = _
  unfold decodeWord
  rw [hm]
  show decodeIx _ = _
  unfold decodeIx
  have hf : (fFn (packA 0x3C d a b 0x002)).toNat = 2 := by simp
  rw [hf]
  simp [unused, inRange, unusedInRange, h]

theorem Encoding.ldn (d : Reg) (a : Reg) (b : Reg) : Encoding.Statement (.ldn d a b) := by
  intro _ h
  have hm : (fMajor (packA 0x3C d a b 0x003)).toNat = 60 := by simp
  show decodeWord (packA 0x3C d a b 0x003) = _
  unfold decodeWord
  rw [hm]
  show decodeIx _ = _
  unfold decodeIx
  have hf : (fFn (packA 0x3C d a b 0x003)).toNat = 3 := by simp
  rw [hf]
  simp [unused, inRange, unusedInRange, h]

theorem Encoding.ixstat (d : Reg) (a : Reg) : Encoding.Statement (.ixstat d a) := by
  intro _ h
  have hm : (fMajor (packA 0x3C d a 0 0x004)).toNat = 60 := by simp
  show decodeWord (packA 0x3C d a 0 0x004) = _
  unfold decodeWord
  rw [hm]
  show decodeIx _ = _
  unfold decodeIx
  have hf : (fFn (packA 0x3C d a 0 0x004)).toNat = 4 := by simp
  rw [hf]
  simp [unused, inRange, unusedInRange, h]

theorem Encoding.ctlr (d : Reg) (n : BitVec 16) : Encoding.Statement (.ctlr d n) := by
  intro _ h
  have hm : (fMajor (packI 0x3D d 0 n)).toNat = 61 := by simp
  show decodeWord (packI 0x3D d 0 n) = _
  unfold decodeWord
  rw [hm]
  simp [unused, inRange, unusedInRange, h]

theorem Encoding.ctlrSpace (d : Reg) (a : Reg) (o : BitVec 16) : Encoding.Statement (.ctlrSpace d a o) := by
  intro _ h
  have hm : (fMajor (packI 0x3D d a o)).toNat = 61 := by simp
  show decodeWord (packI 0x3D d a o) = _
  unfold decodeWord
  rw [hm]
  have ha : (a == 0) = false := by
    cases hz : a == 0 with
    | false => rfl
    | true => have := eq_of_beq hz; subst this; exact Bool.noConfusion (show false = true from h)
  rw [fA_packI, ha]
  simp

theorem Encoding.ctlw (d : Reg) (n : BitVec 16) : Encoding.Statement (.ctlw d n) := by
  intro _ h
  have hm : (fMajor (packI 0x3E d 0 n)).toNat = 62 := by simp
  show decodeWord (packI 0x3E d 0 n) = _
  unfold decodeWord
  rw [hm]
  simp [unused, inRange, unusedInRange, h]

theorem Encoding.ctlwSpace (d : Reg) (a : Reg) (o : BitVec 16) : Encoding.Statement (.ctlwSpace d a o) := by
  intro _ h
  have hm : (fMajor (packI 0x3E d a o)).toNat = 62 := by simp
  show decodeWord (packI 0x3E d a o) = _
  unfold decodeWord
  rw [hm]
  have ha : (a == 0) = false := by
    cases hz : a == 0 with
    | false => rfl
    | true => have := eq_of_beq hz; subst this; exact Bool.noConfusion (show false = true from h)
  rw [fA_packI, ha]
  simp

theorem Encoding.cpy (u : Nat) : Encoding.Statement (.cpy u) := by
  intro h
  exact Bool.noConfusion (show false = true from h)

theorem Encoding.cpyg (u : Nat) : Encoding.Statement (.cpyg u) := by
  intro h
  exact Bool.noConfusion (show false = true from h)

theorem Encoding.cpys (u : Nat) : Encoding.Statement (.cpys u) := by
  intro h
  exact Bool.noConfusion (show false = true from h)

theorem Encoding.cpyf (u : Nat) : Encoding.Statement (.cpyf u) := by
  intro h
  exact Bool.noConfusion (show false = true from h)

theorem Encoding.stga (u : Nat) : Encoding.Statement (.stga u) := by
  intro h
  exact Bool.noConfusion (show false = true from h)

theorem Encoding.delivery (u : Nat) (e : Nat) (k : Nat) (mx : Bool) : Encoding.Statement (.delivery u e k mx) := by
  intro h
  exact Bool.noConfusion (show false = true from h)

theorem Encoding.tlw (u : Nat) : Encoding.Statement (.tlw u) := by
  intro h
  exact Bool.noConfusion (show false = true from h)

theorem Encoding.trel (u : Nat) : Encoding.Statement (.trel u) := by
  intro h
  exact Bool.noConfusion (show false = true from h)

theorem Encoding.tmm (u : Nat) : Encoding.Statement (.tmm u) := by
  intro h
  exact Bool.noConfusion (show false = true from h)

theorem Encoding.tmmb (u : Nat) : Encoding.Statement (.tmmb u) := by
  intro h
  exact Bool.noConfusion (show false = true from h)

theorem Encoding.tacz (u : Nat) : Encoding.Statement (.tacz u) := by
  intro h
  exact Bool.noConfusion (show false = true from h)

theorem Encoding.tacs (u : Nat) : Encoding.Statement (.tacs u) := by
  intro h
  exact Bool.noConfusion (show false = true from h)

theorem Encoding.tdot (u : Nat) : Encoding.Statement (.tdot u) := by
  intro h
  exact Bool.noConfusion (show false = true from h)

theorem Encoding.sseed (u : Nat) : Encoding.Statement (.sseed u) := by
  intro h
  exact Bool.noConfusion (show false = true from h)

theorem Encoding.sgen (u : Nat) : Encoding.Statement (.sgen u) := by
  intro h
  exact Bool.noConfusion (show false = true from h)

theorem Encoding.sand (u : Nat) : Encoding.Statement (.sand u) := by
  intro h
  exact Bool.noConfusion (show false = true from h)

theorem Encoding.sor (u : Nat) : Encoding.Statement (.sor u) := by
  intro h
  exact Bool.noConfusion (show false = true from h)

theorem Encoding.smux (u : Nat) : Encoding.Statement (.smux u) := by
  intro h
  exact Bool.noConfusion (show false = true from h)

theorem Encoding.snot (u : Nat) : Encoding.Statement (.snot u) := by
  intro h
  exact Bool.noConfusion (show false = true from h)

theorem Encoding.sreg (u : Nat) : Encoding.Statement (.sreg u) := by
  intro h
  exact Bool.noConfusion (show false = true from h)

theorem Encoding.scnt (u : Nat) : Encoding.Statement (.scnt u) := by
  intro h
  exact Bool.noConfusion (show false = true from h)

theorem Encoding.indexCreate (u : Nat) (k : Nat) : Encoding.Statement (.indexCreate u k) := by
  intro h
  exact Bool.noConfusion (show false = true from h)

theorem Encoding.indexDelete (u : Nat) (k : Nat) : Encoding.Statement (.indexDelete u k) := by
  intro h
  exact Bool.noConfusion (show false = true from h)

theorem Encoding.indexStatus (u : Nat) (k : Nat) : Encoding.Statement (.indexStatus u k) := by
  intro h
  exact Bool.noConfusion (show false = true from h)

theorem Encoding.insert (u : Nat) (k : Nat) : Encoding.Statement (.insert u k) := by
  intro h
  exact Bool.noConfusion (show false = true from h)

theorem Encoding.acceptance (u : Nat) (k : Nat) : Encoding.Statement (.acceptance u k) := by
  intro h
  exact Bool.noConfusion (show false = true from h)

theorem Encoding.ixoPush (u : Nat) (k : Nat) : Encoding.Statement (.ixoPush u k) := by
  intro h
  exact Bool.noConfusion (show false = true from h)

theorem Encoding.perform (u : Nat) (k : Nat) : Encoding.Statement (.perform u k) := by
  intro h
  exact Bool.noConfusion (show false = true from h)

theorem Encoding.walk (w : Nat) : Encoding.Statement (.walk w) := by
  intro h
  exact Bool.noConfusion (show false = true from h)

theorem Encoding.walkResult (w : Nat) (k : Nat) : Encoding.Statement (.walkResult w k) := by
  intro h
  exact Bool.noConfusion (show false = true from h)

theorem Encoding.xinv (v : Dword) : Encoding.Statement (.xinv v) := by
  intro h
  exact Bool.noConfusion (show false = true from h)

theorem Encoding.invalidationDone : Encoding.Statement (.invalidationDone) := by
  intro h
  exact Bool.noConfusion (show false = true from h)

theorem Encoding.regionLen (c : Option Nat) (n : Nat) (v : Dword) : Encoding.Statement (.regionLen c n v) := by
  intro h
  exact Bool.noConfusion (show false = true from h)

theorem Encoding.claimed (c : Option Nat) (n : Nat) (v : Dword) : Encoding.Statement (.claimed c n v) := by
  intro h
  exact Bool.noConfusion (show false = true from h)

theorem Encoding.cancel (f : Nat) (b : Nat) (v : Dword) : Encoding.Statement (.cancel f b v) := by
  intro h
  exact Bool.noConfusion (show false = true from h)

theorem Encoding.retcfg (f : Nat) (v : Dword) : Encoding.Statement (.retcfg f v) := by
  intro h
  exact Bool.noConfusion (show false = true from h)

theorem Encoding.idleCountExpiry (f : Nat) (m : Nat) : Encoding.Statement (.idleCountExpiry f m) := by
  intro h
  exact Bool.noConfusion (show false = true from h)

theorem Encoding.enteringEnd (f : Nat) (m : Nat) : Encoding.Statement (.enteringEnd f m) := by
  intro h
  exact Bool.noConfusion (show false = true from h)

theorem Encoding.exitingEnd (f : Nat) (m : Nat) : Encoding.Statement (.exitingEnd f m) := by
  intro h
  exact Bool.noConfusion (show false = true from h)

theorem Encoding.patrolScrub (k : Nat) : Encoding.Statement (.patrolScrub k) := by
  intro h
  exact Bool.noConfusion (show false = true from h)

theorem Encoding.rel (f : Nat) (v : Dword) : Encoding.Statement (.rel f v) := by
  intro h
  exact Bool.noConfusion (show false = true from h)

theorem Encoding.lqctl (q : Nat) (v : Dword) : Encoding.Statement (.lqctl q v) := by
  intro h
  exact Bool.noConfusion (show false = true from h)

theorem Encoding.launch (k : Nat) : Encoding.Statement (.launch k) := by
  intro h
  exact Bool.noConfusion (show false = true from h)

theorem Encoding.launchForward (q : Nat) : Encoding.Statement (.launchForward q) := by
  intro h
  exact Bool.noConfusion (show false = true from h)

theorem Encoding.messageArrival (k : Nat) : Encoding.Statement (.messageArrival k) := by
  intro h
  exact Bool.noConfusion (show false = true from h)

theorem Encoding.dispatch (g : Nat) : Encoding.Statement (.dispatch g) := by
  intro h
  exact Bool.noConfusion (show false = true from h)

theorem Encoding.stealRequest (g : Nat) : Encoding.Statement (.stealRequest g) := by
  intro h
  exact Bool.noConfusion (show false = true from h)

theorem Encoding.steal (g : Nat) : Encoding.Statement (.steal g) := by
  intro h
  exact Bool.noConfusion (show false = true from h)

theorem Encoding.stealReply (g : Nat) : Encoding.Statement (.stealReply g) := by
  intro h
  exact Bool.noConfusion (show false = true from h)

theorem Encoding.stealWaitExpiry (g : Nat) : Encoding.Statement (.stealWaitExpiry g) := by
  intro h
  exact Bool.noConfusion (show false = true from h)

theorem Encoding.keyRequest (k : Nat) : Encoding.Statement (.keyRequest k) := by
  intro h
  exact Bool.noConfusion (show false = true from h)

theorem Encoding.keyRelease (k : Nat) : Encoding.Statement (.keyRelease k) := by
  intro h
  exact Bool.noConfusion (show false = true from h)

theorem Encoding.joinArrival (k : Nat) : Encoding.Statement (.joinArrival k) := by
  intro h
  exact Bool.noConfusion (show false = true from h)

theorem Encoding.increment (k : Nat) : Encoding.Statement (.increment k) := by
  intro h
  exact Bool.noConfusion (show false = true from h)

theorem Encoding.trapEntry (u : Nat) : Encoding.Statement (.trapEntry u) := by
  intro h
  exact Bool.noConfusion (show false = true from h)

theorem Encoding.preempt (c : Nat) : Encoding.Statement (.preempt c) := by
  intro h
  exact Bool.noConfusion (show false = true from h)

theorem Encoding.kill (c : Nat) : Encoding.Statement (.kill c) := by
  intro h
  exact Bool.noConfusion (show false = true from h)

theorem Encoding.free (c : Nat) : Encoding.Statement (.free c) := by
  intro h
  exact Bool.noConfusion (show false = true from h)

theorem Encoding.sliceExpiry (c : Nat) : Encoding.Statement (.sliceExpiry c) := by
  intro h
  exact Bool.noConfusion (show false = true from h)

theorem Encoding.switchOut (c : Nat) : Encoding.Statement (.switchOut c) := by
  intro h
  exact Bool.noConfusion (show false = true from h)

theorem Encoding.placement (c : Nat) : Encoding.Statement (.placement c) := by
  intro h
  exact Bool.noConfusion (show false = true from h)

theorem Encoding.unreachable (d : Nat) : Encoding.Statement (.unreachable d) := by
  intro h
  exact Bool.noConfusion (show false = true from h)

theorem Encoding.adapterBulk (d : Nat) (wr : Bool) (h : Dword) (o : Nat) (n : Nat) (data : List Byte) : Encoding.Statement (.adapterBulk d wr h o n data) := by
  intro h
  exact Bool.noConfusion (show false = true from h)

theorem Encoding.reset (b : Boot) : Encoding.Statement (.reset b) := by
  intro h
  exact Bool.noConfusion (show false = true from h)

theorem Encoding.railFault : Encoding.Statement (.railFault) := by
  intro h
  exact Bool.noConfusion (show false = true from h)

theorem Encoding.throttle : Encoding.Statement (.throttle) := by
  intro h
  exact Bool.noConfusion (show false = true from h)

theorem Encoding.trip : Encoding.Statement (.trip) := by
  intro h
  exact Bool.noConfusion (show false = true from h)

theorem Encoding.session (nonce : List Byte) (key : List Byte) (sig : List Byte) : Encoding.Statement (.session nonce key sig) := by
  intro h
  exact Bool.noConfusion (show false = true from h)

theorem Encoding.mgmtControlAccess (wr : Bool) (a : Dword) (v : Dword) : Encoding.Statement (.mgmtControlAccess wr a v) := by
  intro h
  exact Bool.noConfusion (show false = true from h)

theorem Encoding.mgmtHbmAccess (wr : Bool) (a : Dword) (n : Nat) (data : List Byte) : Encoding.Statement (.mgmtHbmAccess wr a n data) := by
  intro h
  exact Bool.noConfusion (show false = true from h)

theorem Encoding.attestation (nonce : List Byte) : Encoding.Statement (.attestation nonce) := by
  intro h
  exact Bool.noConfusion (show false = true from h)

theorem Encoding.imageLoad (c : Nat) (img : Image) : Encoding.Statement (.imageLoad c img) := by
  intro h
  exact Bool.noConfusion (show false = true from h)

theorem Encoding.svnRaise (v : Nat) : Encoding.Statement (.svnRaise v) := by
  intro h
  exact Bool.noConfusion (show false = true from h)

theorem Encoding.keySlotLoad (c : Nat) : Encoding.Statement (.keySlotLoad c) := by
  intro h
  exact Bool.noConfusion (show false = true from h)

theorem Encoding.keySlotReplace (c : Nat) : Encoding.Statement (.keySlotReplace c) := by
  intro h
  exact Bool.noConfusion (show false = true from h)

theorem Encoding.registerWrite (a : Dword) (v : Dword) : Encoding.Statement (.registerWrite a v) := by
  intro h
  exact Bool.noConfusion (show false = true from h)

theorem Encoding.illegalWord (w : Word) : Encoding.Statement (.illegalWord w) := by
  intro h
  exact Bool.noConfusion (show false = true from h)

theorem Encoding.codepubRequest (k : Nat) : Encoding.Statement (.codepubRequest k) := by
  intro h
  exact Bool.noConfusion (show false = true from h)

theorem Encoding.routeWrite (d : Nat) (ports : List Nat) : Encoding.Statement (.routeWrite d ports) := by
  intro h
  exact Bool.noConfusion (show false = true from h)

theorem Encoding.throttleEnd : Encoding.Statement (.throttleEnd) := by
  intro h
  exact Bool.noConfusion (show false = true from h)

end Sys2Proof.Laws
end

