-- ==== Sys2Proof/Safety.lean ====
section
/-!
DEFINITION. The vocabulary of the claims: the invariant of the machine, what a slot needs to go on, and the shapes of the
state after an instruction.
-/

namespace Sys2Proof.Machine

/-- The invariant of every step: memory has its one canonical form, so that equal memories are equal lists. -/
def State.Inv (s : State) : Prop := Memory.wf s.mem = true

/-! ## Before an instruction -/

/-- No source register is pending, and the destination is not pending either (R120). -/
def State.ready (s : State) (src : List Reg) (d : Reg) : Prop :=
  s.here.srcPend src = false ∧ s.here.isPend d.toNat = false

/-- No error that has struck memory waits to be found (R84, R115). -/
def State.sound (s : State) : Prop := s.latent = []

/-- A place whose `n` bytes the running slot may read now: its own stores and fences do not hold the read, no load of it has
performed early, no macro sleeps there, nothing is poisoned. -/
def State.readable (s : State) (va : Nat) (p : Place) (n : Nat) : Prop :=
  s.here.loadHeld s.myCore va p.pa n = false ∧ s.here.early = [] ∧ s.arrivalAhead s.cur p.pa n = false
    ∧ s.asleep p.pa = false ∧ s.sound ∧ s.poisoned p.pa n = false

/-- A release at a scope has nothing to wait for (R226). -/
def State.released (s : State) (x : Scope) : Prop := s.here.releaseHeld x s.myCore = false

/-! ## After an instruction -/

/-- The address of the next instruction in sequence (R119). -/
def State.nextPc (s : State) : Dword := s.here.pc + 4

/-- The state after the running slot wrote S[d] and went on at `pc`. -/
def State.wrote (s : State) (d : Reg) (x pc : Dword) : State := s.setHere ((s.here.setS d.toNat x).goto pc)

/-- Only the running slot differs between two states. -/
def State.onlyHere (s t : State) : Prop := t = s.setHere t.here

/-- Only the running slot differs, and of it only what a register write and the step to an instruction touch. -/
def Slot.stepsTo (t t' : Slot) : Prop :=
  t' = { t with
    regs := t'.regs, bank := t'.bank, pc := t'.pc, start := t'.start, wait := t'.wait, xf := t'.xf, examined := t'.examined
    beat := t'.beat, early := t'.early }

/-- What has been read ahead of loads is the same, but for the token registers that stand for deliveries of its bytes. -/
def sameEarly (a b : List Early) : Prop := a.map (fun e => { e with behind := [] }) = b.map fun e => { e with behind := [] }

/-- The trap of the running instruction as R284 describes it: the saved registers, the level, the live block's address in
bank s1, and the handler's address. -/
def State.entered (s : State) (code : Nat) (tval : Dword) : State :=
  s.setHere { s.here with
    epc := s.here.pc, tcause := dw code, tval := tval, sup := true, start := false, conv := false, leaving := false
    bell := none, wait := none, xf := none, examined := false
    bank := s.here.bank.setIfInBounds 0 (dw (liveAddr s.cur)), pc := (s.core s.myCore).tvec }

/-- The running slot is at task level and its core has a handler (R284). -/
def State.handles (s : State) : Prop := s.here.sup = false ∧ (s.core s.myCore).tvec ≠ 0

/-! ## Vector instructions -/

/-- The state after the running slot wrote V[d] and set sticky flags of FPCTL. -/
def State.wroteV (s : State) (d : Reg) (r : Vec) (flags : Dword) : State :=
  s.setHere (({ s.here.setV d.toNat r with fpctl := s.here.fpctl ||| flags } : Slot).goto s.nextPc)

/-- The state after the running slot wrote S[d] and set sticky flags of FPCTL. -/
def State.wroteF (s : State) (d : Reg) (x flags : Dword) : State :=
  s.setHere (({ s.here.setS d.toNat x with fpctl := s.here.fpctl ||| flags } : Slot).goto s.nextPc)

/-- An instruction completes by writing V[d]: an active lane receives its value, an inactive one keeps what it held (R153);
only V[d] and the counter change, and no flag is set. -/
def State.laneWise (s : State) (i : Instr) (d : Reg) (q : PReg) (f : Fmt) (val : Nat → Nat) : Prop :=
  ∃ r : Vec, exec i s = .next (s.wroteV d r 0)
    ∧ ∀ k, k < f.lanes → lane r k f.width
        = if active (s.here.preg q.toNat) k f.width then val k else lane (s.here.vreg d.toNat) k f.width

/-- A word of sticky flags that holds exactly the flags of the operations `op k` for which `on k` holds, `k` below `n`
(R139, R154). -/
def flagsOf (fl : Dword) (n : Nat) (on : Nat → Bool) (op : Nat → Nat × Fl) : Prop :=
  ∀ j, fl.getLsbD j = true ↔ ∃ k, k < n ∧ on k = true ∧ (op k).2.mask.getLsbD j = true

/-- An instruction completes as `laneWise` says with what an operation of each active lane gives, and sets exactly the sticky
flags of those operations (R154). -/
def State.laneOps (s : State) (i : Instr) (d : Reg) (q : PReg) (f : Fmt) (op : Nat → Nat × Fl) : Prop :=
  let on (k : Nat) : Bool := active (s.here.preg q.toNat) k f.width
  ∃ (r : Vec) (fl : Dword), exec i s = .next (s.wroteV d r fl) ∧ flagsOf fl f.lanes on op
    ∧ ∀ k, k < f.lanes → lane r k f.width
        = if on k then (op k).1 % 2 ^ f.width else lane (s.here.vreg d.toNat) k f.width

/-- A lane read as a signed integer. -/
def laneInt (x : Vec) (k w : Nat) : Int := (BitVec.ofNat w (lane x k w)).toInt

/-! ## Rounding (R136) -/

/-- m · 2^q is what a mode chooses for the magnitude mag · 2^e of a sign among the multiples of 2^q: the nearest one, and of
two as near the one with an even multiple; or the nearest one on the side that the mode names (R136). The comparison is in
units of the smaller of the two powers. -/
def roundsTo (rm : Rm) (neg : Bool) (mag : Nat) (e : Int) (m : Nat) (q : Int) : Prop :=
  let k := minInt e q
  let x := mag * 2 ^ (e - k).toNat
  let step := 2 ^ (q - k).toNat
  let y := m * step
  let down := y ≤ x ∧ x < y + step
  let up := x ≤ y ∧ y < x + step
  match rm with
  | .rne => 2 * x ≤ 2 * y + step ∧ 2 * y ≤ 2 * x + step ∧ ((2 * x = 2 * y + step ∨ 2 * y = 2 * x + step) → m % 2 = 0)
  | .rtz => down
  | .rdn => if neg then up else down
  | .rup => if neg then down else up

/-- The integer that a finite value is in units of 2^k, k not above its exponent. -/
def inUnits (neg : Bool) (mag : Nat) (e k : Int) : Int := (if neg then -1 else 1) * ((mag * 2 ^ (e - k).toNat : Nat) : Int)

/-! ## Float patterns (R135 to R138) -/

/-- A pattern as an input is read: under FTZ a subnormal is a zero of its sign (R137). -/
def BinFmt.seen (F : BinFmt) (ftz : Bool) (x : Nat) : Nat :=
  if ftz = true ∧ x / 2 ^ F.fb % 2 ^ F.eb = 0 then x / F.signBit * F.signBit else x

/-- Whether a pattern is a NaN: the bits below its sign lie above those of infinity. -/
def BinFmt.isNaN (F : BinFmt) (x : Nat) : Prop := F.infBits false < x % F.signBit

/-- The order of the patterns that are no NaNs is that of their bits with the sign; both zeros are 0. -/
def BinFmt.key (F : BinFmt) (x : Nat) : Int := if x < F.signBit then x else (F.signBit : Int) - x

/-- A NaN made canonical (R138). -/
def BinFmt.canon (F : BinFmt) (x : Nat) : Nat := if F.infBits false < x % F.signBit then F.nanBits else x

/-- A pattern is the p-th root of num/den with a sign, rounded to nearest, on a tie to even: a multiple m of the spacing of the
format's values at the exact value, 2^q units of the least subnormal; beyond the largest finite value it is infinity
(R136). The comparison is of p-th powers. -/
def BinFmt.nearestRoot (F : BinFmt) (p : Nat) (neg : Bool) (num den r : Nat) : Prop :=
  ∃ m q : Nat,
    let N := 2 ^ p * (num * 2 ^ (p * (F.fb + F.bias - 1)))
    let D := den * 2 ^ (p * q)
    let least : Int := F.emin - F.fb
    (2 * m - 1) ^ p * D ≤ N ∧ N ≤ (2 * m + 1) ^ p * D
      ∧ (N = (2 * m + 1) ^ p * D ∨ 0 < m ∧ N = (2 * m - 1) ^ p * D → m % 2 = 0)
      ∧ m ≤ 2 ^ (F.fb + 1) ∧ (q = 0 ∨ (2 ^ (F.fb + 1)) ^ p * D ≤ N)
      ∧ (m * 2 ^ q < 2 ^ (F.fb + 2 * F.bias) →
          ∃ m' e', F.decode false r = .fin neg m' e' ∧ least ≤ e' ∧ m' * 2 ^ (e' - least).toNat = m * 2 ^ q)
      ∧ (2 ^ (F.fb + 2 * F.bias) ≤ m * 2 ^ q → r = F.infBits neg)

/-- The flags of one operation of a function 1/X, 1/√X, 2^X or log2 X whose exact result is the p-th root of num/den, by its
result (R136 to R139): OF where it is an infinity, NX where it is one or differs from the exact value, UF where it also lies
below the smallest normal, and perhaps where it was rounded up to that. -/
def BinFmt.resultFlags (F : BinFmt) (p num den r : Nat) (fl : Fl) : Prop :=
  let least : Int := F.emin - F.fb
  let mag := r % F.signBit
  let exact : Prop := ∃ neg m e, F.decode false r = .fin neg m e
    ∧ m ^ p * den * 2 ^ (p * (e - least).toNat) = num * 2 ^ (p * (F.fb + F.bias - 1))
  fl.nv = false ∧ fl.dz = false ∧ (fl.of_ = true ↔ mag = F.infBits false) ∧ (fl.nx = true ↔ ¬ exact)
    ∧ (fl.uf = true → fl.nx = true ∧ mag ≤ 2 ^ F.fb) ∧ (fl.nx = true → mag < 2 ^ F.fb → fl.uf = true)

/-- The fixed tree of R162 over 2^n leaves with their flags, holes being none: neighbours combine, their flags too, and a hole
passes its neighbour on. -/
def treeOf (g : Nat → Nat → Nat × Fl) : Nat → (Nat → Option (Nat × Fl)) → Option (Nat × Fl)
  | 0, x => x 0
  | n + 1, x => treeOf g n fun m =>
    match x (2 * m), x (2 * m + 1) with
    | some a, some b => some ((g a.1 b.1).1, (a.2.or b.2).or (g a.1 b.1).2)
    | some a, none => some a
    | none, y => y

/-- The distance of two numbers. -/
def apart (x y : Nat) : Nat := x - y + (y - x)

/-! ## Engines -/

/-- The head of a queue is `c`, the engines work for its context, and no entry behind it has finished (R86). -/
def State.engineAt (s : State) (u : Nat) (w : Which) (c : Cmd) (rest : List Cmd) : Prop :=
  s.working u = true ∧ (s.slot u).queue w = c :: rest ∧ (c.phase = .queued ∨ c.phase = .started)
    ∧ ∀ x, x ∈ rest → x.phase ≠ .finished

/-- The state after the head of a queue has answered: its token register holds the status word and is not pending, and its
entry is free (R57, R87). -/
def State.answered (s : State) (u : Nat) (w : Which) (c : Cmd) (rest : List Cmd) (st : Dword) : State :=
  s.setSlot u (((s.slot u).writeTok c.tok st).setQueue w rest)

/-- The state with another head of a queue. -/
def State.headed (s : State) (u : Nat) (w : Which) (c : Cmd) (rest : List Cmd) : State :=
  s.setSlot u ((s.slot u).setQueue w (c :: rest))

/-- What a read of `n` bytes by the engines of slot `u` gives: those bytes, nothing poisoned, nothing to wait for. -/
def State.reads (s : State) (u c va n : Nat) (b : List Byte) : Prop :=
  s.fetchBytes (u / 256) c va n = ⟨s, b, [], .none⟩ ∧ b.length = n

/-- Whether a place can be written now by an engine: reached, awake, and no macro stands there as stationary (R110). -/
def State.writable (s : State) (u c va : Nat) (p : Place) : Prop :=
  s.place (u / 256) c .store va = (p, .none) ∧ s.stationaryAt p.pa = false

/-- Pieces of bytes in order: together they are `b`, the first begins at `va`, each next one where the one before ends, and
none crosses a 64-byte boundary (R87). -/
def piecesOf (l : List (Nat × List Byte × List Nat)) (va : Nat) (b : List Byte) : Prop :=
  (l.map (·.2.1)).flatten = b
    ∧ (∀ k x, l[k]? = some x → x.1 = va + ((l.take k).map (·.2.1.length)).sum ∧ x.1 % 64 + x.2.1.length ≤ 64)

/-- Request `k` of slot `u`'s IXQ stands ready for its unit: its context runs, no earlier request names its handle, and it is
not parked (R207, R208). -/
def State.requestAt (s : State) (u k : Nat) (r : IxReq) : Prop :=
  s.working u = true ∧ (s.slot u).ixq[k]? = some r ∧ r.fault = none ∧ s.ixBehind (s.slot u).ixq k r = false

/-- The slot after an index request has answered (R57, R208). -/
def Slot.ixAnswered (t : Slot) (k : Nat) (r : IxReq) (st : Dword) : Slot :=
  ({ t with ixq := dropAt t.ixq k } : Slot).writeTok r.tok st

/-- No byte is poisoned and no error waits to be found. -/
def State.clean (s : State) : Prop := s.poison = [] ∧ s.latent = []

end Sys2Proof.Machine
end

