-- ==== Sys2Proof/Certificates/Slice0/Obligations.lean ====
section
/-!
DEFINITION. The statements for the provers, from the numbered rules of the spec.
-/

section

open Sys2Proof Sys2Proof.Machine

/-! ## Scalar instructions -/

/-- What a register write is (R60, R119, R120): the register reads as written, s0 reads zero and discards writes, every
other register of the level, every register of the other level, and everything else of the device is as before; the
slot goes on at the given address. At supervisor level a write of s8 to s31, which the two levels share, leaves the task's own
s1 to s7 and the bank as they are (R284). Of what the slot has read ahead of its loads only the note goes that reading the
register acquires deliveries of its bytes, since the register holds another value now (R87). -/
def Obligations.RegisterWriteFrame : Prop :=
  ∀ (s : State) (d a : Reg) (x pc : Dword),
    let t := (s.wrote d x pc).here
    (d ≠ 0 → t.s d.toNat = x) ∧ t.s 0 = 0 ∧ (a ≠ d → t.s a.toNat = s.here.s a.toNat)
      ∧ (d = 0 → t.regs = s.here.regs ∧ t.bank = s.here.bank)
      ∧ (s.here.sup = false → t.bank = s.here.bank)
      ∧ (s.here.sup = true → d.toNat ≤ 7 → t.regs = s.here.regs)
      ∧ (s.here.sup = true → 8 ≤ d.toNat → t.bank = s.here.bank ∧ ∀ n, n < 8 → t.regs.getD n 0 = s.here.regs.getD n 0)
      ∧ t.pc = pc ∧ s.here.stepsTo t ∧ s.onlyHere (s.wrote d x pc)
      ∧ t.early = s.here.early.map (fun e => { e with behind := e.behind.filter (· ≠ s.here.regNo d.toNat) })
      ∧ (∀ u, u ≠ s.cur → (s.wrote d x pc).slot u = s.slot u)
      ∧ (∀ b, memGet (s.wrote d x pc).mem b = memGet s.mem b)

/-- The register operations of R121 but the products and quotients: the operands are the old S[a] and S[b], the result is
kept to its low 64 bits.

CLZ and POPC of R121: the leading zeros of the operand as 64 bits, and its ones. -/
def Obligations.RegisterOperationsAndCounts : Prop :=
  (∀ (s : State) (d a b : Reg), s.ready [a, b] d →
     let x := s.here.s a.toNat
     let y := s.here.s b.toNat
     let n := y.toNat % 64
     exec (.add d a b) s = .next (s.wrote d (BitVec.ofNat 64 (x.toNat + y.toNat)) s.nextPc)
     ∧ exec (.sub d a b) s = .next (s.wrote d (BitVec.ofInt 64 ((x.toNat : Int) - y.toNat)) s.nextPc)
     ∧ exec (.and d a b) s = .next (s.wrote d (BitVec.ofNat 64 (x.toNat &&& y.toNat)) s.nextPc)
     ∧ exec (.or d a b) s = .next (s.wrote d (BitVec.ofNat 64 (x.toNat ||| y.toNat)) s.nextPc)
     ∧ exec (.xor d a b) s = .next (s.wrote d (BitVec.ofNat 64 (x.toNat ^^^ y.toNat)) s.nextPc)
     ∧ exec (.andn d a b) s = .next (s.wrote d (BitVec.ofNat 64 (x.toNat &&& (2 ^ 64 - 1 - y.toNat))) s.nextPc)
     ∧ exec (.sll d a b) s = .next (s.wrote d (BitVec.ofNat 64 (x.toNat * 2 ^ n)) s.nextPc)
     ∧ exec (.srl d a b) s = .next (s.wrote d (BitVec.ofNat 64 (x.toNat / 2 ^ n)) s.nextPc)
     ∧ exec (.sra d a b) s = .next (s.wrote d (BitVec.ofInt 64 (x.toInt / 2 ^ n)) s.nextPc)
     ∧ exec (.slt d a b) s = .next (s.wrote d (if x.toInt < y.toInt then 1 else 0) s.nextPc)
     ∧ exec (.sltZ d a b) s = .next (s.wrote d (if x.toNat < y.toNat then 1 else 0) s.nextPc)
     ∧ exec (.seq d a b) s = .next (s.wrote d (if x = y then 1 else 0) s.nextPc)
     ∧ exec (.min d a b) s = .next (s.wrote d (BitVec.ofInt 64 (min x.toInt y.toInt)) s.nextPc)
     ∧ exec (.max d a b) s = .next (s.wrote d (BitVec.ofInt 64 (max x.toInt y.toInt)) s.nextPc)
     ∧ exec (.minZ d a b) s = .next (s.wrote d (BitVec.ofNat 64 (min x.toNat y.toNat)) s.nextPc)
     ∧ exec (.maxZ d a b) s = .next (s.wrote d (BitVec.ofNat 64 (max x.toNat y.toNat)) s.nextPc))
  ∧ (∀ (s : State) (d a : Reg), s.ready [a] d →
       let x := s.here.s a.toNat
       (∃ n, exec (.clz d a) s = .next (s.wrote d (BitVec.ofNat 64 n) s.nextPc)
           ∧ n ≤ 64 ∧ x.toNat < 2 ^ (64 - n) ∧ (n < 64 → 2 ^ (63 - n) ≤ x.toNat))
       ∧ exec (.popc d a) s
           = .next (s.wrote d (BitVec.ofNat 64 ((List.range 64).filter fun i => x.toNat / 2 ^ i % 2 = 1).length) s.nextPc))

/-- Products of R121, and quotients and remainders of R122 with the two cases that are decided apart. -/
def Obligations.ProductsAndQuotients : Prop :=
  ∀ (s : State) (d a b : Reg), s.ready [a, b] d →
    let x := s.here.s a.toNat
    let y := s.here.s b.toNat
    let q : Int := if y = 0 then -1 else x.toInt.tdiv y.toInt
    let qz : Nat := if y = 0 then 2 ^ 64 - 1 else x.toNat / y.toNat
    exec (.mul d a b) s = .next (s.wrote d (BitVec.ofInt 64 (x.toInt * y.toInt)) s.nextPc)
    ∧ exec (.mul d a b) s = .next (s.wrote d (BitVec.ofNat 64 (x.toNat * y.toNat)) s.nextPc)
    ∧ exec (.mulh d a b) s = .next (s.wrote d (BitVec.ofInt 64 (x.toInt * y.toInt / 2 ^ 64)) s.nextPc)
    ∧ exec (.mulhZ d a b) s = .next (s.wrote d (BitVec.ofNat 64 (x.toNat * y.toNat / 2 ^ 64)) s.nextPc)
    ∧ exec (.div d a b) s = .next (s.wrote d (BitVec.ofInt 64 q) s.nextPc)
    ∧ exec (.divZ d a b) s = .next (s.wrote d (BitVec.ofNat 64 qz) s.nextPc)
    ∧ exec (.rem d a b) s = .next (s.wrote d (if y = 0 then x else BitVec.ofInt 64 (x.toInt - y.toInt * q)) s.nextPc)
    ∧ exec (.remZ d a b) s = .next (s.wrote d (if y = 0 then x else BitVec.ofNat 64 (x.toNat - y.toNat * qz)) s.nextPc)
    ∧ (x.toInt = -(2 ^ 63) → y.toInt = -1 → exec (.div d a b) s = .next (s.wrote d (BitVec.ofInt 64 (-(2 ^ 63))) s.nextPc)
        ∧ exec (.rem d a b) s = .next (s.wrote d 0 s.nextPc))

/-- The immediate forms of R123 to R125: a 16-bit immediate is sign-extended for every one but LSI, whose immediate fills
the low 16 bits; a shift immediate gives the amount. -/
def Obligations.ImmediateForms : Prop :=
  ∀ (s : State) (d a : Reg) (i : BitVec 16) (n : BitVec 6), s.ready [a] d →
    let x := s.here.s a.toNat
    let y : Dword := BitVec.ofInt 64 i.toInt
    exec (.addImm d a i) s = .next (s.wrote d (x + y) s.nextPc)
    ∧ exec (.andImm d a i) s = .next (s.wrote d (x &&& y) s.nextPc)
    ∧ exec (.orImm d a i) s = .next (s.wrote d (x ||| y) s.nextPc)
    ∧ exec (.xorImm d a i) s = .next (s.wrote d (x ^^^ y) s.nextPc)
    ∧ exec (.sltImm d a i) s = .next (s.wrote d (if x.toInt < i.toInt then 1 else 0) s.nextPc)
    ∧ exec (.sltZImm d a i) s = .next (s.wrote d (if x.toNat < y.toNat then 1 else 0) s.nextPc)
    ∧ exec (.li d i) s = .next (s.wrote d y s.nextPc)
    ∧ exec (.lsi d a i) s = .next (s.wrote d (BitVec.ofNat 64 (x.toNat * 2 ^ 16 + i.toNat)) s.nextPc)
    ∧ exec (.sllImm d a n) s = .next (s.wrote d (BitVec.ofNat 64 (x.toNat * 2 ^ n.toNat)) s.nextPc)
    ∧ exec (.srlImm d a n) s = .next (s.wrote d (BitVec.ofNat 64 (x.toNat / 2 ^ n.toNat)) s.nextPc)
    ∧ exec (.sraImm d a n) s = .next (s.wrote d (BitVec.ofInt 64 (x.toInt / 2 ^ n.toNat)) s.nextPc)

/-- The six branches of R126: no register is written, no trap is taken, the counter moves by four times the signed offset
when the condition holds and to the next word when it does not.

JAL and JALR of R127 and R128: the link is the address of the next word; JALR takes its target from the old S[a], and
a target that is no multiple of 4 takes ALIGN with the target in TVAL before anything is written. A pending source
stalls each of them, and a pending link register takes TOKEN_CLOBBER. -/
def Obligations.BranchesAndJumps : Prop :=
  (∀ (s : State) (a b : Reg) (o : BitVec 16), s.here.srcPend [a, b] = false →
     let x := s.here.s a.toNat
     let y := s.here.s b.toNat
     let at_ (taken : Prop) [Decidable taken] : Out := .next (s.setHere (s.here.goto
       (if taken then BitVec.ofInt 64 (s.here.pc.toNat + 4 * o.toInt) else s.nextPc)))
     exec (.beq a b o) s = at_ (x = y) ∧ exec (.bne a b o) s = at_ (x ≠ y)
     ∧ exec (.blt a b o) s = at_ (x.toInt < y.toInt) ∧ exec (.bge a b o) s = at_ (x.toInt ≥ y.toInt)
     ∧ exec (.bltZ a b o) s = at_ (x.toNat < y.toNat) ∧ exec (.bgeZ a b o) s = at_ (x.toNat ≥ y.toNat))
  ∧ (∀ (s : State) (a b : Reg) (o : BitVec 16), s.here.srcPend [a, b] = true →
       exec (.beq a b o) s = .next s ∧ exec (.bne a b o) s = .next s ∧ exec (.blt a b o) s = .next s
       ∧ exec (.bge a b o) s = .next s ∧ exec (.bltZ a b o) s = .next s ∧ exec (.bgeZ a b o) s = .next s)
  ∧ (∀ (s : State) (d a : Reg) (o : BitVec 21) (i : BitVec 16),
       let x := BitVec.ofInt 64 ((s.here.s a.toNat).toNat + i.toInt)
       (s.here.isPend d.toNat = false →
         exec (.jal d o) s = .next (s.wrote d s.nextPc (BitVec.ofInt 64 (s.here.pc.toNat + 4 * o.toInt))))
       ∧ (s.ready [a] d → x.toNat % 4 = 0 → exec (.jalr d a i) s = .next (s.wrote d s.nextPc x))
       ∧ (s.here.srcPend [a] = false → x.toNat % 4 ≠ 0 → s.handles →
           exec (.jalr d a i) s = .next (s.entered causeAlign x))
       ∧ (s.here.srcPend [a] = true → exec (.jalr d a i) s = .next s)
       ∧ (s.here.isPend d.toNat = true → s.handles →
           let t := s.entered causeClobber (BitVec.ofNat 64 d.toNat)
           exec (.jal d o) s = .next t ∧ (s.here.srcPend [a] = false → x.toNat % 4 = 0 → exec (.jalr d a i) s = .next t)))

/-- The scoreboard of R120 for every scalar instruction and the scalar stores: a pending source stalls the instruction, which
then has no effect; a pending destination, where no source is pending, takes TOKEN_CLOBBER with the register's number in TVAL.

A scalar load and TAGL test S[d] first, as the pseudocode of R106 and R112 has it (R8): TOKEN_CLOBBER also where S[a] is
pending. That R120, which has sources read first, does not reorder them is the model's inference (log 66). -/
def Obligations.Scoreboard : Prop :=
  ∀ (s : State) (d a b : Reg) (i : BitVec 16) (n : BitVec 6) (o : BitVec 21),
    let pairs : List Instr :=
      [.add d a b, .sub d a b, .and d a b, .or d a b, .xor d a b, .andn d a b, .sll d a b, .srl d a b, .sra d a b, .slt d a b
      , .sltZ d a b, .seq d a b, .min d a b, .max d a b, .minZ d a b, .maxZ d a b, .mul d a b, .mulh d a b, .mulhZ d a b
      , .div d a b, .divZ d a b, .rem d a b, .remZ d a b]
    let singles : List Instr :=
      [.clz d a, .popc d a, .addImm d a i, .andImm d a i, .orImm d a i, .xorImm d a i, .sltImm d a i, .sltZImm d a i, .lsi d a i
      , .sllImm d a n, .srlImm d a n, .sraImm d a n]
    let loads : List Instr :=
      [.ldB d a i, .ldH d a i, .ldW d a i, .ldD d a i, .ldBz d a i, .ldHz d a i, .ldWz d a i, .ldaW d a, .ldaD d a, .tagl d a]
    let branches : List Instr := [.beq a b i, .bne a b i, .blt a b i, .bge a b i, .bltZ a b i, .bgeZ a b i]
    let stores : List Instr := [.stB b a i, .stH b a i, .stW b a i, .stD b a i, .stlW b a, .stlD b a]
    (s.here.srcPend [a, b] = true → ∀ x, x ∈ pairs ++ branches ++ stores → exec x s = .next s)
    ∧ (s.here.srcPend [a] = true → ∀ x, x ∈ singles ++ [.jalr d a i] → exec x s = .next s)
    ∧ (s.here.srcPend [a] = true → s.here.isPend d.toNat = false → ∀ x, x ∈ loads → exec x s = .next s)
    ∧ (s.here.isPend d.toNat = true → s.handles →
        let t := s.entered causeClobber (BitVec.ofNat 64 d.toNat)
        (∀ x, x ∈ [Instr.li d i, .jal d o] ++ loads → exec x s = .next t)
        ∧ (s.here.srcPend [a] = false → ∀ x, x ∈ singles → exec x s = .next t)
        ∧ (s.here.srcPend [a, b] = false → ∀ x, x ∈ pairs → exec x s = .next t))

/-! ## Control, traps and their return -/

/-- NOP has no effect but the step to the next word; IFENCE also drops the fetch block of the slot; FENCE and FENCE.X take
their place among the stores on their way, and only where there is one before them; of what the slot has read ahead of its
loads a FENCE keeps at most a part (R131, R231, R233, R290).

WAITI at supervisor level completes when the high mailbox of its core holds a message; else it waits (R293). The clause
that it completes too when a message has entered the mailbox since the wait began, though another task took it, is the
model's reading (log 26). -/
def Obligations.SequencingAndFences : Prop :=
  (∀ (s : State) (k : BitVec 4) (x : Scope),
     exec .nop s = .next (s.setHere (s.here.goto s.nextPc))
     ∧ exec .ifence s = .next (s.setHere (({ s.here with block := none } : Slot).goto s.nextPc))
     ∧ ((kindSl k || kindSs k) = false ∨ s.here.replay = [] →
         ∃ es : List Early, (∀ e, e ∈ es → e ∈ s.here.early)
           ∧ exec (.fence k x) s = .next (s.setHere (({ s.here with
               sbuf := if s.here.sbuf = [] then [] else s.here.sbuf ++ [.fence s.tick k x], early := es } : Slot).goto s.nextPc)))
     ∧ (s.here.replay = [] → exec .fenceX s = .next (s.setHere (({ s.here with
         sbuf := if s.here.sbuf = [] then [] else s.here.sbuf ++ [.fenceX s.tick] } : Slot).goto s.nextPc)))
     ∧ (s.here.replay ≠ [] → exec .fenceX s = .next s
         ∧ ((kindSl k || kindSs k) = true → exec (.fence k x) s = .next s)))
  ∧ (∀ s : State, s.here.sup = true →
       let woken := (s.core s.myCore).high ≠ [] ∨ s.here.bell = some true
       (woken → exec .waiti s = .next (s.setHere (({ s.here with bell := none } : Slot).goto s.nextPc)))
       ∧ (¬ woken → exec .waiti s = .next (s.setHere { s.here with bell := some false })))

/-- Taking a trap at task level (R284): EPC, TCAUSE and TVAL are written, the level is supervisor, s1 of the bank names
the slot's live block, the counter is TVEC; the task's own registers, the vector, predicate and message registers, the
pending marks, the queues, the stores, memory and every other slot stay. TRAP_ENTRY takes the first due trap of a slot
at its boundary in that way (R283, R336). The START mark, which a trap before the first instruction sets, is as the trap says
(R253). -/
def Obligations.TrapEntry : Prop :=
  ∀ (s : State) (u code : Nat) (tval epc : Dword) (mark : Bool),
    (s.slot u).sup = false → (s.core (u / 4)).tvec ≠ 0 →
    let t := s.trapAt u code tval epc mark
    let x := t.slot u
    x.epc = epc ∧ x.tcause = BitVec.ofNat 64 code ∧ x.tval = tval ∧ x.sup = true ∧ x.pc = (s.core (u / 4)).tvec
    ∧ x.start = mark
    ∧ x.s 1 = BitVec.ofNat 64 (liveAddr u) ∧ x.s 0 = 0
    ∧ (∀ a, 2 ≤ a → a ≤ 7 → x.s a = (s.slot u).bank.getD (a - 1) 0)
    ∧ (∀ a, 8 ≤ a → a < 32 → x.s a = (s.slot u).s a)
    ∧ x.regs = (s.slot u).regs ∧ x.v = (s.slot u).v ∧ x.p = (s.slot u).p ∧ x.m = (s.slot u).m
    ∧ x.pend = (s.slot u).pend ∧ x.cpq = (s.slot u).cpq ∧ x.mxq = (s.slot u).mxq ∧ x.ssq = (s.slot u).ssq
    ∧ x.ixq = (s.slot u).ixq ∧ x.sbuf = (s.slot u).sbuf ∧ x.replay = (s.slot u).replay
    ∧ x.fpctl = (s.slot u).fpctl ∧ x.mxcfg = (s.slot u).mxcfg
    ∧ t.mem = s.mem ∧ (∀ w, w ≠ u → t.slot w = s.slot w)
    ∧ (∀ cause v, s.working u = true → (s.slot u).busy = true → (s.slot u).conv = false →
        (s.slot u).dueTrap (s.ctx (s.ctxOf u)).pcount = some (cause, v) →
        ∃ r, exec (.trapEntry u) s = .next r ∧ (r.slot u).epc = (s.slot u).pc ∧ (r.slot u).tcause = BitVec.ofNat 64 cause
          ∧ (r.slot u).tval = v ∧ (r.slot u).sup = true ∧ (r.slot u).pc = (s.core (u / 4)).tvec
          ∧ (r.slot u).regs = (s.slot u).regs ∧ (r.slot u).replay = (s.slot u).replay ∧ r.mem = s.mem)

/-- A trap at supervisor level, or with TVEC 0, kills the context with the cause's code (R284, R285, R302): the context is
KILLED, its code is kept, it holds no facet, and the slots of its set hold no task. -/
def Obligations.TrapThatKills : Prop :=
  ∀ (s : State) (u code : Nat) (tval epc : Dword) (mark : Bool),
    (s.slot u).sup = true ∨ (s.core (u / 4)).tvec = 0 →
    let c := s.ctxOf u
    (s.ctx c).st = .running →
    let t := s.trapAt u code tval epc mark
    (t.ctx c).st = .killed ∧ (t.ctx c).kcode = code ∧ (∀ f, (t.facet f).ctx ≠ some c)
      ∧ ∀ w, w / 256 ∈ (s.ctx c).set → (t.slot w).busy = false

/-- TRAP #n takes its cause with n in TVAL; a word that the decoder refuses takes ILLEGAL with the word in TVAL (R38,
R287).

The instructions of the supervisor level take PROT at task level, with the word in TVAL (R39): ERET, WAITI, the
control space forms, and the named forms on a supervisor register; a named form on a number that no register has takes
ILLEGAL with the word.

A load or store whose address is no multiple of its size takes ALIGN before anything else, with the address in TVAL
(R106, R107, R108). Where no fence holds the access back an address of 2^56 or more takes PROT (R66), a load whose walk
has faulted PAGE (R75), a store to a macro that is not in DATA STATIONARY_WRITE (R110), so does an atomic, an access that a
watchpoint matches WATCH (R297), and a load of poisoned bytes POISON (R85, R115). A fetch takes ALIGN at a counter that is no
word's address (the model's inference, log 18), PROT from 2^40 on (R67), PAGE, WATCH and POISON in the same way, with the
counter in TVAL (R282). That a fetch meets the poison of memory whatever the caches hold is the model's choice (log 60). -/
def Obligations.TrapsAtIssue : Prop :=
  (∀ (s : State) (n : BitVec 8) (w : Word), s.handles →
     exec (.trap n) s = .next (s.entered 0x0C (BitVec.ofNat 64 n.toNat))
     ∧ exec (.illegalWord w) s = .next (s.entered 0x01 (BitVec.ofNat 64 w.toNat)))
  ∧ (∀ (s : State) (d a : Reg) (n o : BitVec 16), s.handles →
       let prot (i : Instr) : Out := .next (s.entered 0x05 ((encode i).setWidth 64))
       exec .eret s = .next (s.entered 0x05 0x4C000002) ∧ exec .waiti s = .next (s.entered 0x05 0x4C000004)
       ∧ exec (.ctlrSpace d a o) s = prot (.ctlrSpace d a o) ∧ exec (.ctlwSpace d a o) s = prot (.ctlwSpace d a o)
       ∧ (n.toNat ∈ [0x20, 0x21, 0x22, 0x23, 0x30, 0x31] →
           (s.here.isPend d.toNat = false → exec (.ctlr d n) s = prot (.ctlr d n))
           ∧ (s.here.srcPend [d] = false → exec (.ctlw d n) s = prot (.ctlw d n)))
       ∧ (n.toNat ∉ [0x00, 0x01, 0x02, 0x03, 0x04, 0x10, 0x20, 0x21, 0x22, 0x23, 0x30, 0x31] →
           let illegal (i : Instr) : Out := .next (s.entered 0x01 ((encode i).setWidth 64))
           (s.here.isPend d.toNat = false → exec (.ctlr d n) s = illegal (.ctlr d n))
           ∧ (s.here.srcPend [d] = false → exec (.ctlw d n) s = illegal (.ctlw d n))))
  ∧ (∀ (s : State) (d a : Reg) (o : BitVec 16) (i : Instr) (x n : Nat), s.handles → s.here.srcPend [a] = false →
       s.here.isPend d.toNat = false ∨ i = .vld d a o ∨ i = .vst d a o →
       let ea := s.here.ea a o
       let base := (s.here.s a.toNat).toNat
       let trapped (code : Nat) : Prop := exec i s = .next (s.entered code (BitVec.ofNat 64 x))
       let loads : List (Instr × Nat × Nat) :=
         [(.ldB d a o, ea, 1), (.ldBz d a o, ea, 1), (.ldH d a o, ea, 2), (.ldHz d a o, ea, 2), (.ldW d a o, ea, 4)
         , (.ldWz d a o, ea, 4), (.ldD d a o, ea, 8), (.vld d a o, ea, 32), (.ldaW d a, base, 4), (.ldaD d a, base, 8)]
       let stores (k : StoreKind) : List (Instr × Nat × Nat) :=
         match k with
         | .plain => [(.stB d a o, ea, 1), (.stH d a o, ea, 2), (.stW d a o, ea, 4), (.stD d a o, ea, 8), (.vst d a o, ea, 32)]
         | .release => [(.stlW d a, base, 4), (.stlD d a, base, 8)]
         | .lane => []
       ((i, x, n) ∈ loads ++ stores .plain ++ stores .release → x % n ≠ 0 → trapped 0x06)
       ∧ ((i, x, n) ∈ loads → x % n = 0 → s.here.fencedLoad s.myCore = false →
           (2 ^ 56 ≤ x → s.here.xf = none → trapped 0x05)
           ∧ (s.here.xf = some ⟨x / 65536, 0x04⟩ → trapped 0x04)
           ∧ ∀ p, s.look .load true x = .ok p →
               (s.here.watched 0 x n = true → trapped 0x0E)
               ∧ (s.here.watched 0 x n = false → s.here.early = [] → s.here.loadHeld s.myCore x p.pa n = false →
                   s.arrivalAhead s.cur p.pa n = false → s.asleep p.pa = false → s.sound → s.poisoned p.pa n = true →
                   trapped 0x07))
       ∧ (∀ k, (i, x, n) ∈ stores k → x % n = 0 → s.here.storeStalls s.myCore k = false → s.here.replay = [] →
           (2 ^ 56 ≤ x → trapped 0x05)
           ∧ ∀ p, s.xlate s.myFacet s.myCtx .store true x = .ok p →
               (s.stationaryAt p.pa = true → trapped 0x08)
               ∧ (s.stationaryAt p.pa = false → s.here.watched 1 x n = true → trapped 0x0E)))
  ∧ (∀ (s : State) (d a b : Reg) (c : Scope) (o : Order) (z : ASize) (p : Place) (i : Instr), s.handles →
       s.here.srcPend [a, b, d] = false →
       let x := (s.here.s a.toNat).toNat
       let n := asizeBytes z
       let words : List Instr :=
         [.amoAdd d a b c o z, .amoAnd d a b c o z, .amoOr d a b c o z, .amoXor d a b c o z, .amoMin d a b c o z
         , .amoMax d a b c o z, .amoMinZ d a b c o z, .amoMaxZ d a b c o z, .amoXchg d a b c o z, .amoCas d a b c o z]
       i ∈ words ∧ x % n = 0 ∨ i = .amoFaddF32 d a b c o ∧ x % 4 = 0 ∨ i = .amoXadd d a b c o ∧ x % 16 = 0 →
       s.here.fencedLoad s.myCore = false → s.here.fencedStore s.myCore = false → s.look .amo false x = .ok p →
       s.stationaryAt p.pa = true → exec i s = .next (s.entered 0x08 (BitVec.ofNat 64 x)))
  ∧ (∀ (s : State) (u : Nat), u < numSlots →
       let s0 : State := { s with cur := u }
       let t := s.slot u
       let trapped (code : Nat) : Prop := s.attempt u = .next (s0.entered code t.pc)
       s0.handles → s0.takeDue u = none → t.conv = false →
       (t.pc.toNat % 4 ≠ 0 → trapped 0x06)
       ∧ (t.pc.toNat % 4 = 0 →
           (2 ^ 40 ≤ t.pc.toNat → t.xf = none → trapped 0x05)
           ∧ (t.xf = some ⟨t.pc.toNat / 65536, 0x04⟩ → trapped 0x04)
           ∧ ∀ p, s0.look .fetch true t.pc.toNat = .ok p →
               (t.watched 2 t.pc.toNat 4 = true → trapped 0x0E)
               ∧ (t.watched 2 t.pc.toNat 4 = false → s.asleep p.pa = false → s.sound → s.poisoned p.pa 4 = true →
                   trapped 0x07)))

/-- ERET (R286) at supervisor level where no register of the bank is pending, no store is parked and the task has started:
the level is task level again, the counter is EPC, s1 to s7 are the task's own and the hold of the stream queue is released,
but for a hold that a command set anew while this ERET waited; each parked engine command, index request and CODEPUB
request walks again, and its trap is no longer due. Nothing else changes: no register of either level, no vector,
predicate or message register, no control register, no queue but for those entries, no store on its way, no key and no
join of the task, no byte of memory, no other slot, core, facet or context, nothing in flight.

Where the task has not started, so that its START mark is set, the ERET does all that and then repeats step 3 of R253 in place
of the return to EPC: a continuation starts at its resume word, any other task at the entry of the handler table; where that
read faults or no address is found there the handler is entered again with EPC 0 and the mark set.

A parked store walks again first of all (R238): where its page translates to no stationary macro it leaves the slot with its
place, where it stands in program order among the stores on their way, and its trap is no longer due; else it stays parked with
the cause of what it met, its trap is due again, the counter is EPC, and EPC and the START mark are as they were. -/
def Obligations.ReturnFromHandler : Prop :=
  ∀ s : State, s.here.sup = true → (∀ n ∈ s.here.pend, n ≤ 32) →
    (s.here.start = true → s.here.fencedLoad s.myCore = false ∧ s.here.walkHeld s.myCore = false) →
    (∀ c : Cmd, c.phase ≠ .parked → c.again = c) ∧ (∀ r : IxReq, r.fault = none → r.again = r)
    ∧ (s.here.replay = [] →
      let codeReqs := s.codeReqs.map fun r =>
        if r.slot = s.cur ∧ r.ctx = s.myCtx then { r with parked := false } else r
      let back (pc : Dword) : Slot := { s.here with
        sup := false, pc := pc, hold := s.here.leaving && s.here.hold, leaving := false, wait := none, xf := none
        cpq := s.here.cpq.map Cmd.again, mxq := s.here.mxq.map Cmd.again, ixq := s.here.ixq.map IxReq.again
        duePage := [], dueStore := false }
      let returns (pc : Dword) : Out := .next { s.setHere (back pc) with codeReqs := codeReqs }
      let hdr := s.here.hdr.toNat
      let va := ((s.core s.myCore).htab + BitVec.ofNat 64 (8 * hdrHandler hdr)).toNat
      let found := s.xlateAgain s.myFacet s.myCtx .load true va
      let entersAgain (code : Nat) (tval : Dword) : Prop :=
        (s.core s.myCore).tvec ≠ 0 → ∃ t, exec .eret s = .next t ∧ t.here.sup = true ∧ t.here.pc = (s.core s.myCore).tvec
          ∧ t.here.epc = 0 ∧ t.here.tcause = BitVec.ofNat 64 code ∧ t.here.tval = tval ∧ t.here.start = true
          ∧ t.here.regs = s.here.regs ∧ t.mem = s.mem
      (s.here.start = false → exec .eret s = returns s.here.epc)
      ∧ (∀ a pc, a < 32 → a ≠ 0 → (back pc).s a = s.here.regs.getD a 0)
      ∧ (s.here.start = true → hdrCont hdr = true → exec .eret s = returns (BitVec.ofNat 64 (4 * hdrResume hdr)))
      ∧ (s.here.start = true → hdrCont hdr = false → s.sound →
          (va % 8 ≠ 0 → entersAgain 0x06 (BitVec.ofNat 64 va))
          ∧ (va % 8 = 0 → found = .page → entersAgain 0x04 (BitVec.ofNat 64 va))
          ∧ (va % 8 = 0 → found = .prot → entersAgain 0x05 (BitVec.ofNat 64 va))
          ∧ ∀ p, va % 8 = 0 → found = .ok p → spaceOf p.pa = 0 →
              (s.poisoned p.pa 8 = true → entersAgain 0x07 (BitVec.ofNat 64 va))
              ∧ (s.poisoned p.pa 8 = false →
                  let x := s.rdNat p 8
                  (x = 0 ∨ 2 ^ 56 ≤ x → entersAgain 0x05 s.here.hdr)
                  ∧ (0 < x → x < 2 ^ 56 → x % 4 ≠ 0 → entersAgain 0x06 (BitVec.ofNat 64 x))
                  ∧ (0 < x → x < 2 ^ 56 → x % 4 = 0 → exec .eret s = returns (BitVec.ofNat 64 x)))))
    ∧ (∀ r : Parked, s.here.replay = [r] → s.sound →
        let found := s.xlateAgain s.myFacet s.myCtx .store true r.va
        let stays (code : Nat) : Prop :=
          ∃ t, exec .eret s = .next t ∧ t.here.replay = [{ r with cause := code }] ∧ t.here.dueStore = true
            ∧ t.here.sbuf = s.here.sbuf ∧ t.here.sup = false ∧ t.here.pc = s.here.epc ∧ t.mem = s.mem
            ∧ t.here.epc = s.here.epc ∧ t.here.start = s.here.start ∧ t.here.regs = s.here.regs
        (∀ p, s.here.start = false → found = .ok p → s.stationaryAt p.pa = false →
          ∃ t pre post, exec .eret s = .next t ∧ t.here.replay = [] ∧ t.here.dueStore = false ∧ s.here.sbuf = pre ++ post
            ∧ t.here.sbuf = pre ++ .store r.seq r.va (some p) r.data r.kind false :: post
            ∧ (∀ e, e ∈ pre → e.seq ≤ r.seq) ∧ (∀ e, post.head? = some e → r.seq < e.seq)
            ∧ t.here.sup = false ∧ t.here.pc = s.here.epc ∧ t.mem = s.mem)
        ∧ (∀ p, found = .ok p → s.stationaryAt p.pa = true → stays causeStationary)
        ∧ (found = .prot → stays causeProt) ∧ (found = .page → stays causePage))

/-- END of a task without join and keys orders nothing: once no register is pending and every store is translated, the
slot is free; its stores stay on their way (R132).

END at supervisor level kills the task (R286): the parked stores, the held commands of the stream queue and what is unread
go with their tokens, the slot is free at task level, its keys are released and its arrival is sent; a join reference that
fails the checks of R266 receives none, and the loss is logged as KIND 12 (that a first event counts 1 is the model's choice,
log 19). -/
def Obligations.EndOfTask : Prop :=
  (∀ s : State, s.here.sup = false → s.here.pend = [] → s.here.sbuf.any (·.untranslated) = false → s.here.replay = [] →
    (hdrJoin s.here.hdr.toNat = false → s.here.keys = [] →
      ∃ t, exec .endTask s = .next t ∧ s.onlyHere t ∧ t.here.busy = false ∧ t.here.ixo = [] ∧ t.here.sso = []
        ∧ t.here.sbuf = s.here.sbuf)
    ∧ (hdrJoin s.here.hdr.toNat = false → s.here.keys ≠ [] → s.released .sys →
        ∃ t, exec .endTask s = .next t ∧ t.here.busy = false
          ∧ t.keyRels = s.keyRels ++ s.here.keys.map fun k => ⟨s.myCtx, k⟩)
    ∧ (∀ p, hdrJoin s.here.hdr.toNat = true → s.joinCheck s.myFacet s.myCtx s.here.joinRef = .ok p → s.sound →
        s.here.walkHeld s.myCore = false → s.here.endHeld s.myCore = false →
        s.here.sbuf.any (·.mayOverlap p.pa 8) = false →
        ∃ t, exec .endTask s = .next t ∧ t.here.busy = false
          ∧ t.arrivals = s.arrivals ++ [{ ctx := s.myCtx, pa := p.pa, src := s.cur }]))
  ∧ (∀ s : State, s.here.sup = true → s.here.discard.pend = [] → (∀ c, c ∈ s.here.mxq → c.phase ≠ .parked) →
      (∀ r, r ∈ s.codeReqs → r.slot ≠ s.cur) → s.here.discard.endHeld s.myCore = false → s.sound →
      let gone (t : State) : Prop :=
        t.here.busy = false ∧ t.here.sup = false ∧ t.here.replay = [] ∧ t.here.ixo = [] ∧ t.here.sso = []
          ∧ (s.here.hold = true → t.here.ssq = []) ∧ t.mem = s.mem ∧ (∀ u, u ≠ s.cur → t.slot u = s.slot u)
          ∧ t.keyRels = s.keyRels ++ s.here.keys.map fun k => ⟨s.myCtx, k⟩
      (hdrJoin s.here.hdr.toNat = false → ∃ t, exec .endTask s = .next t ∧ gone t ∧ t.arrivals = s.arrivals)
      ∧ (∀ p, hdrJoin s.here.hdr.toNat = true → s.joinCheck s.myFacet s.myCtx s.here.joinRef = .ok p →
          ∃ t, exec .endTask s = .next t ∧ gone t
            ∧ t.arrivals = s.arrivals ++ [{ ctx := s.myCtx, pa := p.pa, src := s.cur }])
      ∧ (∀ code v, hdrJoin s.here.hdr.toNat = true → s.joinCheck s.myFacet s.myCtx s.here.joinRef = .trap code v →
          ∃ t, exec .endTask s = .next (t.logEvent (.facet s.myFacet) 12 (some s.myCtx) 1 (s.here.joinRef.toNat / 8 * 8) true)
            ∧ gone t ∧ t.arrivals = s.arrivals))

/-! ## Loads, stores and memory -/

/-- A write at its owner and a read back (R6, R33, R82, R85): the bytes of an unencrypted place read as written, in
little-endian order, and no other byte changes; through encryption no byte outside the granule changes. Registers and
slots stay, and memory keeps its canonical form.

Two memories in canonical form that read alike at every address are the same list. -/
def Obligations.MemoryLaws : Prop :=
  (∀ (s : State) (p : Place) (x n : Nat),
     let t := s.wr p (toBytes x n)
     (p.enc = none → ofBytes (t.rd p n) = x % 2 ^ (8 * n)
       ∧ (∀ i, i < n → (memGet t.mem (p.pa + i)).toNat = x / 2 ^ (8 * i) % 256)
       ∧ ∀ a, a < p.pa ∨ p.pa + n ≤ a → memGet t.mem a = memGet s.mem a)
     ∧ (p.pa % 64 + n ≤ 64 → ∀ a, a < p.pa / 64 * 64 ∨ p.pa / 64 * 64 + 64 ≤ a → memGet t.mem a = memGet s.mem a)
     ∧ (s.Inv → t.Inv) ∧ (∀ u, t.slot u = s.slot u) ∧ (∀ c, t.ctx c = s.ctx c))
  ∧ (∀ m m' : List Host.Cell, Memory.wf m = true → Memory.wf m' = true → (∀ a, memGet m a = memGet m' a) → m = m')

/-- Scalar loads and acquire loads (R106, R107): an aligned, permitted read of `n` bytes goes to S[d] sign-extended, zero-
extended or as read; nothing else changes. The address is S[a] plus the signed offset, or S[a]. A load whose bytes the slot
has read ahead takes what was read then, and the slot no longer keeps it (R224, R225).

VLD (R105, R108): 32 bytes at an address aligned to 32 go to V[d]. -/
def Obligations.Loads : Prop :=
  (∀ (s : State) (d a : Reg) (o : BitVec 16) (n : Nat) (p : Place), s.ready [a] d →
     let reads (ea : Nat) : Prop :=
       ea % n = 0 ∧ s.look .load true ea = .ok p ∧ s.here.watched 0 ea n = false ∧ s.readable ea p n
     let x := ofBytes (s.rd p n)
     let signed : Out := .next (s.wrote d (BitVec.ofInt 64 (BitVec.ofNat (8 * n) x).toInt) s.nextPc)
     let plain : Out := .next (s.wrote d (BitVec.ofNat 64 x) s.nextPc)
     s.here.ea a o = (BitVec.ofInt 64 ((s.here.s a.toNat).toNat + o.toInt)).toNat
     ∧ (reads (s.here.ea a o) →
         (n = 1 → exec (.ldB d a o) s = signed ∧ exec (.ldBz d a o) s = plain)
         ∧ (n = 2 → exec (.ldH d a o) s = signed ∧ exec (.ldHz d a o) s = plain)
         ∧ (n = 4 → exec (.ldW d a o) s = signed ∧ exec (.ldWz d a o) s = plain)
         ∧ (n = 8 → exec (.ldD d a o) s = plain))
     ∧ (reads (s.here.s a.toNat).toNat →
         (n = 4 → exec (.ldaW d a) s = signed) ∧ (n = 8 → exec (.ldaD d a) s = plain)))
  ∧ (∀ (s : State) (d a : Reg) (o : BitVec 16) (p : Place) (e : Early), s.ready [a] d →
       let ea := s.here.ea a o
       ea % 8 = 0 → s.look .load true ea = .ok p → s.here.watched 0 ea 8 = false → s.here.fencedLoad s.myCore = false →
       s.here.early = [e] → e.place = p → e.data.length = 8 →
       exec (.ldD d a o) s = .next (s.setHere
         ((({ s.here with early := [] } : Slot).setS d.toNat (BitVec.ofNat 64 (ofBytes e.data))).goto s.nextPc)))
  ∧ (∀ (s : State) (d a : Reg) (o : BitVec 16) (p : Place), s.here.srcPend [a] = false →
       let ea := s.here.ea a o
       ea % 32 = 0 → s.look .load true ea = .ok p → s.here.watched 0 ea 32 = false → s.readable ea p 32 →
       exec (.vld d a o) s = .next (s.setHere ((s.here.setV d.toNat (BitVec.ofNat 256 (ofBytes (s.rd p 32)))).goto s.nextPc)))

/-- Scalar stores and release stores (R75, R106, R107): the low `n` bytes of S[d] leave the slot toward the translated
place; no register, no byte of memory and no other slot changes when the instruction completes, and of what the slot has read
ahead of its loads it keeps what the store does not overlap. A release is among the stores as one, and asks that no store is
parked (R237); that it stalls too while a store of its slot awaits translation is the model's choice (log 27).

VST (R105, R108): V[d] leaves the slot as a store of 32 bytes at an address aligned to 32.

A scalar store that misses (R75, R237) leaves the slot without a place and asks for the walk of its page; while sixteen stores
of the slot await translation it stalls. A walk that faults parks it, and its trap is due. A store to the 64 KiB range of a
parked one parks behind it; one to another range goes its way. -/
def Obligations.Stores : Prop :=
  let left (s : State) (i : Instr) (ea : Nat) (p : Option Place) (b : List Byte) (kind : StoreKind) (t : State) : Prop :=
    ∃ es : List Early, exec i s = .next (t.setHere (({ s.here with
        sbuf := s.here.sbuf ++ [.store s.tick ea p b kind s.here.sup], early := es } : Slot).goto s.nextPc))
      ∧ ∀ e, e ∈ es ↔ e ∈ s.here.early
          ∧ (SEntry.store s.tick ea p b kind s.here.sup).overlaps e.va e.place.pa e.data.length = false
  let apart (s : State) (ea : Nat) : Prop := ∀ r, r ∈ s.here.replay → r.va / 65536 ≠ ea / 65536
  let writes (s : State) (ea n : Nat) (p : Place) (kind : StoreKind) : Prop :=
    ea % n = 0 ∧ apart s ea ∧ s.xlate s.myFacet s.myCtx .store true ea = .ok p ∧ s.stationaryAt p.pa = false
      ∧ s.here.watched 1 ea n = false ∧ s.here.storeStalls s.myCore kind = false
  (∀ (s : State) (d a : Reg) (o : BitVec 16) (n : Nat) (p : Place),
     s.here.srcPend [a, d] = false →
     let at_ := s.here.ea a o
     let base := (s.here.s a.toNat).toNat
     let b := toBytes (s.here.s d.toNat).toNat n
     (writes s at_ n p .plain →
       (n = 1 → left s (.stB d a o) at_ (some p) b .plain s) ∧ (n = 2 → left s (.stH d a o) at_ (some p) b .plain s)
       ∧ (n = 4 → left s (.stW d a o) at_ (some p) b .plain s) ∧ (n = 8 → left s (.stD d a o) at_ (some p) b .plain s))
     ∧ (writes s base n p .release →
         (n = 4 → left s (.stlW d a) base (some p) b .release s) ∧ (n = 8 → left s (.stlD d a) base (some p) b .release s)))
  ∧ (∀ s : State, (s.here.sbuf.any (·.untranslated) = true ∨ s.here.replay ≠ []) → s.here.storeStalls s.myCore .release = true)
  ∧ (∀ (s : State) (d a : Reg), s.here.storeStalls s.myCore .release = true → s.here.srcPend [a, d] = false →
       let base := (s.here.s a.toNat).toNat
       (base % 4 = 0 → exec (.stlW d a) s = .next s) ∧ (base % 8 = 0 → exec (.stlD d a) s = .next s))
  ∧ (∀ (s : State) (d a : Reg) (o : BitVec 16) (p : Place), s.here.srcPend [a] = false →
       writes s (s.here.ea a o) 32 p .plain →
       left s (.vst d a o) (s.here.ea a o) (some p) (toBytes (s.here.vreg d.toNat).toNat 32) .plain s)
  ∧ (∀ (s : State) (d a : Reg) (o : BitVec 16) (n : Nat) (i : Instr), s.here.srcPend [a, d] = false →
       s.here.storeStalls s.myCore .plain = false →
       n = 1 ∧ i = .stB d a o ∨ n = 2 ∧ i = .stH d a o ∨ n = 4 ∧ i = .stW d a o ∨ n = 8 ∧ i = .stD d a o →
       let ea := s.here.ea a o
       let b := toBytes (s.here.s d.toNat).toNat n
       let page : Miss := ⟨s.myCtx, ea / 65536⟩
       (ea % n = 0 → apart s ea → s.xlate s.myFacet s.myCtx .store true ea = .miss →
         (16 ≤ s.here.awaiting → exec i s = .next s)
         ∧ (s.here.awaiting < 16 → s.here.watched 1 ea n = false → s.here.fencedStore s.myCore = false →
             s.here.walkHeld s.myCore = false →
             ∃ t, left s i ea none b .plain t ∧ t.mem = s.mem ∧ t.slots = s.slots
               ∧ ((s.facet s.myFacet).miss.length < 16 → (t.facet s.myFacet).miss.contains page = true)))
       ∧ (ea % n = 0 → ¬ apart s ea → s.here.replay.length < 16 → s.here.watched 1 ea n = false →
           ∃ es : List Early, (∀ e, e ∈ es → e ∈ s.here.early)
             ∧ exec i s = .next (s.setHere (({ s.here with
                 replay := s.here.replay ++ [⟨s.tick, ea, b, .plain, causePage⟩], early := es } : Slot).goto s.nextPc))))
  ∧ (∀ (s : State) (w j u seq va : Nat) (b : List Byte) (k : Walk), (s.walker w).running[j]? = some k → k.facets = [u / 256] →
       k.drop = false → k.result = .fault → (s.facet (u / 256)).ctx = some k.ctx → va / 65536 = k.page →
       (s.slot u).sbuf = [.store seq va none b .plain false] → (s.slot u).replay = [] →
       ∃ t, exec (.walkResult w j) s = .next t ∧ (t.slot u).sbuf = [] ∧ (t.slot u).dueStore = true ∧ t.mem = s.mem
         ∧ (t.slot u).replay = [⟨seq, va, b, .plain, causePage⟩] ∧ (t.slot u).pc = (s.slot u).pc)

/-- A load waits while a store of its own slot that overlaps it has not performed (R222), and while a fence of kind sl
stands behind a store within its scope, wherever among the stores on their way the two stand (R232): it has no effect and
issues again. That is said of every scalar load, LDA and VLD, of the lane loads, of which one lane that overlaps is enough, and
of the atomics, which a fence of kind ss holds back too. An atomic also waits for an earlier store of its slot that awaits
translation and has its page offset (log 55).

The order of stores of one slot (R222, R226, R232), for a store at any position: PERFORM has no effect on a store behind an
earlier one that overlaps it (or that awaits translation and has its page offset, which is the model's reading, log 55), on a
store behind a fence of kind ss that stands after an earlier store within its scope, and on a release store behind any
earlier store. -/
def Obligations.OrderWithinOneSlot : Prop :=
  let fenced (s : State) (bit : Nat) : Prop :=
    ∃ (pre post : List SEntry) (m : Nat) (k : BitVec 4) (x : Scope),
      s.here.sbuf = pre ++ .fence m k x :: post ∧ k.getLsbD bit = true ∧ ∃ e ∈ pre, e.within x s.myCore = true
  (∀ (s : State) (d a : Reg) (o : BitVec 16) (p : Place) (i : Instr) (x n : Nat), s.ready [a] d →
     let ea := s.here.ea a o
     let base := (s.here.s a.toNat).toNat
     (i, x, n) ∈ [(Instr.ldB d a o, ea, 1), (.ldBz d a o, ea, 1), (.ldH d a o, ea, 2), (.ldHz d a o, ea, 2), (.ldW d a o, ea, 4)
       , (.ldWz d a o, ea, 4), (.ldD d a o, ea, 8), (.vld d a o, ea, 32), (.ldaW d a, base, 4), (.ldaD d a, base, 8)] →
     x % n = 0 →
     ((∃ e ∈ s.here.sbuf, e.overlaps x p.pa n = true) → s.look .load true x = .ok p → s.here.watched 0 x n = false →
       s.here.early = [] → exec i s = .next s)
     ∧ (fenced s 2 → exec i s = .next s))
  ∧ (∀ (s : State) (d a b : Reg) (q : PReg) (f : Fmt) (i : Instr) (near : Bool) (w n : Nat) (on : Nat → Bool) (ea : Nat → Nat)
        (pl : Nat → Place), s.here.srcPend [a, b] = false →
      let x := (s.here.s a.toNat).toNat
      let strided (j : Nat) : Nat := (x + j * (s.here.s b.toNat).toNat) % 2 ^ 64
      i = .vldsH d a b ∧ near = true ∧ w = 2 ∧ n = 16 ∧ on = (fun _ => true) ∧ ea = strided
        ∨ i = .vldsW d a b ∧ near = true ∧ w = 4 ∧ n = 8 ∧ on = (fun _ => true) ∧ ea = strided
        ∨ i = .vgth d a b q f ∧ f ≠ .i8 ∧ near = false ∧ w = f.width / 8 ∧ n = f.lanes
          ∧ on = (fun j => active (s.here.preg q.toNat) j f.width)
          ∧ ea = (fun j => (x + w * lane (s.here.vreg b.toNat) j f.width) % 2 ^ 64) →
      ((∀ j, j < n → on j = true → ea j % w = 0 ∧ s.look .load near (ea j) = .ok (pl j) ∧ s.here.watched 0 (ea j) w = false) →
        (∃ j e, j < n ∧ on j = true ∧ e ∈ s.here.sbuf ∧ e.overlaps (ea j) (pl j).pa w = true) → exec i s = .next s)
      ∧ (fenced s 2 → exec i s = .next s))
  ∧ (∀ (s : State) (d a b : Reg) (c : Scope) (o : Order) (z : ASize) (i : Instr) (n : Nat) (p : Place), s.here.srcPend [a, b] = false →
      s.here.isPend d.toNat = false →
      let x := (s.here.s a.toNat).toNat
      n = asizeBytes z ∧ i ∈ [Instr.amoAdd d a b c o z, .amoAnd d a b c o z, .amoOr d a b c o z, .amoXor d a b c o z
          , .amoMin d a b c o z, .amoMax d a b c o z, .amoMinZ d a b c o z, .amoMaxZ d a b c o z, .amoXchg d a b c o z
          , .amoCas d a b c o z] ∨ n = 4 ∧ i = .amoFaddF32 d a b c o ∨ n = 16 ∧ i = .amoXadd d a b c o →
      x % n = 0 →
      (s.look .amo false x = .ok p → s.stationaryAt p.pa = false → s.here.watchedAmo x n = false →
        (∃ e ∈ s.here.sbuf, e.overlaps x p.pa n = true ∨ e.mayOverlap p.pa n = true) → exec i s = .next s)
      ∧ (fenced s 2 ∨ fenced s 3 → exec i s = .next s))
  ∧ (∀ (s : State) (u k seq va : Nat) (p : Place) (b : List Byte) (kind : StoreKind) (sup : Bool),
       (s.slot u).sbuf[k]? = some (.store seq va (some p) b kind sup) →
       let before := (s.slot u).sbuf.take k
       ((∃ e ∈ before, e.mayOverlap p.pa b.length = true) → exec (.perform u k) s = .next s)
       ∧ (∀ (pre post : List SEntry) (e : SEntry), kind = .release → before = pre ++ e :: post → e.isStore = true →
           (∀ y, y ∈ e :: pre → y.seq < seq) → exec (.perform u k) s = .next s)
       ∧ (∀ (pre post : List SEntry) (m : Nat) (f : BitVec 4) (x : Scope), before = pre ++ .fence m f x :: post →
           f.getLsbD 3 = true → (∃ e ∈ pre, e.within x (u / 4) = true) → m < seq → (∀ y, y ∈ pre → y.seq < seq) →
           exec (.perform u k) s = .next s))

/-- PERFORM (R33, R222): a store that nothing holds writes its bytes at its place and is the one that leaves the slot's list,
in which every other store stays in its order, as do the fences but for those that no store stands before any more; no byte
outside them changes, or none outside their granule where the place is encrypted. Nothing else of the slot changes, no register
of it and no queue, but that it keeps at most a part of what it has read ahead of its loads; no other slot changes. -/
def Obligations.StorePerforms : Prop :=
  ∀ (s : State) (u k seq va : Nat) (p : Place) (b : List Byte) (kind : StoreKind) (sup : Bool),
    (s.slot u).sbuf[k]? = some (.store seq va (some p) b kind sup) →
    s.performHeld u k seq va p.pa b.length kind sup = false → s.stationaryAt p.pa = false → s.asleep p.pa = false →
    s.cutOff p.pa = false →
    ∃ t, exec (.perform u k) s = .next t
      ∧ (p.enc = none → rdBytes t.mem p.pa b.length = b
          ∧ ∀ a, a < p.pa ∨ p.pa + b.length ≤ a → memGet t.mem a = memGet s.mem a)
      ∧ (p.pa % 64 + b.length ≤ 64 →
          ∀ a, a < p.pa / 64 * 64 ∨ p.pa / 64 * 64 + 64 ≤ a → memGet t.mem a = memGet s.mem a)
      ∧ (∃ idle left : List SEntry, (s.slot u).sbuf.take k ++ (s.slot u).sbuf.drop (k + 1) = idle ++ left
          ∧ (∀ e, e ∈ idle → e.isStore = false)
          ∧ ∃ es : List Early, (es.map (·.data)).Sublist ((s.slot u).early.map (·.data))
            ∧ t.slot u = { s.slot u with sbuf := left, early := es })
      ∧ (∀ w, w ≠ u → t.slot w = s.slot w)

/-- The integer atomics (R234 to R236): in one access the old value is read and Op of it written; S[d] receives the old
value, sign-extended in the w forms; cas writes S[b] where the old value equals S[d]. Only those bytes and S[d]
change.

fadd.f32 and xadd (R234 to R236): the first adds in binary32 to nearest even without FTZ, as FloatLanes says of VADD, the
second adds S[b], sign-extended, to 16 bytes modulo 2^128 and returns the low doubleword of the old value. -/
def Obligations.Atomics : Prop :=
  (∀ (s : State) (d a b : Reg) (c : Scope) (o : Order) (z : ASize) (p : Place),
     let n := asizeBytes z
     let va := (s.here.s a.toNat).toNat
     s.ready [a, b] d → va % n = 0 → s.look .amo false va = .ok p → s.stationaryAt p.pa = false →
     s.here.watchedAmo va n = false → (o = .rel ∨ o = .ar → s.released c) → s.here.amoHeld s.myCore va p.pa n = false →
     s.cutOff p.pa = false → s.readable va p n →
     let old := s.rdNat p n
     let v := (s.here.s b.toNat).toNat % 2 ^ (8 * n)
     let e := (s.here.s d.toNat).toNat % 2 ^ (8 * n)
     let int (x : Nat) : Int := (BitVec.ofNat (8 * n) x).toInt
     let done (new : Nat) : Out := .next ((s.wr p (toBytes new n)).wrote d
       (if n = 4 then BitVec.ofInt 64 (int old) else BitVec.ofNat 64 old) s.nextPc)
     exec (.amoAdd d a b c o z) s = done ((old + v) % 2 ^ (8 * n))
     ∧ exec (.amoAnd d a b c o z) s = done ((old &&& v) % 2 ^ (8 * n))
     ∧ exec (.amoOr d a b c o z) s = done ((old ||| v) % 2 ^ (8 * n))
     ∧ exec (.amoXor d a b c o z) s = done ((old ^^^ v) % 2 ^ (8 * n))
     ∧ exec (.amoMin d a b c o z) s = done ((if int old < int v then old else v) % 2 ^ (8 * n))
     ∧ exec (.amoMax d a b c o z) s = done ((if int old < int v then v else old) % 2 ^ (8 * n))
     ∧ exec (.amoMinZ d a b c o z) s = done (min old v % 2 ^ (8 * n))
     ∧ exec (.amoMaxZ d a b c o z) s = done (max old v % 2 ^ (8 * n))
     ∧ exec (.amoXchg d a b c o z) s = done v
     ∧ exec (.amoCas d a b c o z) s = done ((if old = e then v else old) % 2 ^ (8 * n)))
  ∧ (∀ (s : State) (d a b : Reg) (c : Scope) (o : Order) (p : Place) (n : Nat),
       let va := (s.here.s a.toNat).toNat
       s.ready [a, b] d → va % n = 0 → s.look .amo false va = .ok p → s.stationaryAt p.pa = false →
       s.here.watchedAmo va n = false → (o = .rel ∨ o = .ar → s.released c) → s.here.amoHeld s.myCore va p.pa n = false →
       s.cutOff p.pa = false → s.readable va p n →
       let old := s.rdNat p n
       let v := (s.here.s b.toNat).toNat % 2 ^ 32
       let sum := (b32.finish .rne false ((b32.decode false old).add .rne (b32.decode false v))).1
       (n = 4 → exec (.amoFaddF32 d a b c o) s = .next ((s.wr p (toBytes sum 4)).wrote d (BitVec.ofNat 64 old) s.nextPc))
       ∧ (n = 16 → exec (.amoXadd d a b c o) s
           = .next ((s.wr p (toBytes (((old : Int) + (s.here.s b.toNat).toInt) % 2 ^ 128).toNat 16)).wrote d
               (BitVec.ofNat 64 (old % 2 ^ 64)) s.nextPc)))

/-! ## Loads and stores by lanes, the tag table -/

/-- The strided loads (R109): lane i is the half or word at S[a] + i·S[b], each read on its own; every lane of V[d] is
written and nothing else changes.

The gather (R168, R169): an active lane i receives the element at S[a] + i's index · w/8, an inactive lane keeps its
value and sends nothing; nothing but V[d] changes. -/
def Obligations.LaneLoads : Prop :=
  (∀ (s : State) (d a b : Reg) (w n : Nat) (pl : Nat → Place), s.here.srcPend [a, b] = false →
     let ea (i : Nat) : Nat := ((s.here.s a.toNat).toNat + i * (s.here.s b.toNat).toNat) % 2 ^ 64
     (∀ i, i < n → ea i % w = 0 ∧ s.look .load true (ea i) = .ok (pl i) ∧ s.here.watched 0 (ea i) w = false
       ∧ s.readable (ea i) (pl i) w ∧ s.cutOff (pl i).pa = false) →
     (w = 2 → n = 16 → ∃ r : Vec, exec (.vldsH d a b) s = .next (s.setHere ((s.here.setV d.toNat r).goto s.nextPc))
       ∧ ∀ i, i < 16 → lane r i 16 = s.rdNat (pl i) 2 % 2 ^ 16)
     ∧ (w = 4 → n = 8 → ∃ r : Vec, exec (.vldsW d a b) s = .next (s.setHere ((s.here.setV d.toNat r).goto s.nextPc))
         ∧ ∀ i, i < 8 → lane r i 32 = s.rdNat (pl i) 4 % 2 ^ 32))
  ∧ (∀ (s : State) (d a b : Reg) (q : PReg) (f : Fmt) (pl : Nat → Place), s.here.srcPend [a] = false → f ≠ .i8 →
       let w := f.width
       let on (i : Nat) : Bool := active (s.here.preg q.toNat) i w
       let ea (i : Nat) : Nat := ((s.here.s a.toNat).toNat + w / 8 * lane (s.here.vreg b.toNat) i w) % 2 ^ 64
       (∀ i, i < f.lanes → on i = true → ea i % (w / 8) = 0 ∧ s.look .load false (ea i) = .ok (pl i)
         ∧ s.here.watched 0 (ea i) (w / 8) = false ∧ s.readable (ea i) (pl i) (w / 8) ∧ s.cutOff (pl i).pa = false) →
       s.sound → s.here.fencedLoad s.myCore = false →
       ∃ r : Vec, exec (.vgth d a b q f) s = .next (s.setHere ((s.here.setV d.toNat r).goto s.nextPc))
         ∧ ∀ i, i < f.lanes →
           lane r i w = if on i then s.rdNat (pl i) (w / 8) % 2 ^ w else lane (s.here.vreg d.toNat) i w)

/-- The scatter (R168, R170): when its checks have passed, the active lanes are committed as stores of the slot, in ascending
order, each with its own element; no register, no byte of memory and no other slot changes at the commit. A committed lane that
nothing holds writes its element and no byte outside it; one behind an earlier store of the same bytes (or one that awaits
translation and has its page offset, which is the model's reading, log 55), or behind a lower lane at the same owner, waits for
it, so that an owner performs the lanes in ascending order and the highest lane's element stands at the end. -/
def Obligations.Scatter : Prop :=
  ∀ (s : State) (d a b : Reg) (q : PReg) (f : Fmt) (pl : Nat → Place), s.here.srcPend [a] = false → f ≠ .i8 →
    let w := f.width
    let on (i : Nat) : Bool := active (s.here.preg q.toNat) i w
    let ea (i : Nat) : Nat := ((s.here.s a.toNat).toNat + w / 8 * lane (s.here.vreg b.toNat) i w) % 2 ^ 64
    let entry (i : Nat) : SEntry :=
      .store s.tick (ea i) (some (pl i)) (toBytes (lane (s.here.vreg d.toNat) i w) (w / 8)) .lane s.here.sup
    let lanes := ((List.range f.lanes).filter on).map entry
    (∀ i, i < f.lanes → on i = true → ea i % (w / 8) = 0 ∧ s.look .store false (ea i) = .ok (pl i)
      ∧ s.here.watched 1 (ea i) (w / 8) = false ∧ s.writeHeld s.cur (ea i) (pl i).pa (w / 8) = false
      ∧ s.stationaryAt (pl i).pa = false ∧ s.asleep (pl i).pa = false ∧ s.cutOff (pl i).pa = false) →
    s.here.fencedStore s.myCore = false →
    (∃ es : List Early, (∀ e, e ∈ es → e ∈ s.here.early)
      ∧ exec (.vsct d a b q f) s = .next (s.setHere (({ s.here with
          sbuf := s.here.sbuf ++ lanes, early := es } : Slot).goto s.nextPc)))
    ∧ ∀ (r : State) (u k i : Nat), (r.slot u).sbuf[k]? = some (entry i) →
        ((∃ j, j < k ∧ ∃ e, (r.slot u).sbuf[j]? = some e ∧ e.mayOverlap (pl i).pa (w / 8) = true) →
          exec (.perform u k) r = .next r)
        ∧ (∀ j m, j < k → (r.slot u).sbuf[j]? = some (entry m) → sameOwner (pl m).pa (pl i).pa = true →
            exec (.perform u k) r = .next r)
        ∧ (k = 0 → (r.slot u).replay = [] → r.arrivalAhead u (pl i).pa (w / 8) = false → r.asleep (pl i).pa = false →
            r.cutOff (pl i).pa = false → (pl i).enc = none →
            ∃ t, exec (.perform u k) r = .next t ∧ t.rdNat (pl i) (w / 8) = lane (s.here.vreg d.toNat) i w
              ∧ (∀ x, x < (pl i).pa ∨ (pl i).pa + w / 8 ≤ x → memGet t.mem x = memGet r.mem x)
              ∧ (t.slot u).regs = (r.slot u).regs ∧ ∀ v, v ≠ u → t.slot v = r.slot v)

/-- The tag table (R111 to R113): TAGS binds an entry of the own facet to the line of an address and unbinds every other
entry of that line; TAGI makes an entry invalid; TAGL gives the entry that binds a line, or −1; one that
gives an entry acquires, so that the slot keeps nothing it has read ahead (R226). Nothing but the facet's table and the slot
changes, and of the slot only what going on to the next word does. -/
def Obligations.TagTable : Prop :=
  ∀ (s : State) (d a b : Reg),
    let va := (s.here.s a.toNat).toNat
    let n := (s.here.s b.toNat).toNat
    let m := (s.here.s a.toNat).toNat
    let tableOnly (t : State) : Prop :=
      t = (s.setFacet s.myFacet { s.facet s.myFacet with tags := (t.facet s.myFacet).tags }).setHere (s.here.goto s.nextPc)
    (s.here.srcPend [a, b] = false → s.here.replay = [] → va < 2 ^ 56 → n ≤ 255 → s.tagForeign n = false →
      (s.mac s.myFacet (n / 16)).st = .data → s.released .facet →
      ∃ t, exec (.tags a b) s = .next t ∧ tableOnly t
        ∧ (s.myCtx < 512 → tagBinds s.myCtx (lineOf va) ((t.facet s.myFacet).tag n) = true)
        ∧ (∀ k, k ≠ n → tagBinds s.myCtx (lineOf va) ((t.facet s.myFacet).tag k) = false)
        ∧ (∀ k, k ≠ n → tagBinds s.myCtx (lineOf va) ((s.facet s.myFacet).tag k) = false →
            (t.facet s.myFacet).tag k = (s.facet s.myFacet).tag k))
    ∧ (s.here.srcPend [a] = false → m ≤ 255 → s.tagForeign m = false → s.released .facet →
        ∃ t, exec (.tagi a) s = .next t ∧ tableOnly t
          ∧ tagValid ((t.facet s.myFacet).tag m) = false
          ∧ ∀ k, k ≠ m → (t.facet s.myFacet).tag k = (s.facet s.myFacet).tag k)
    ∧ (s.ready [a] d →
        (∀ k, k < 256 → va < 2 ^ 56 → tagBinds s.myCtx (lineOf va) ((s.facet s.myFacet).tag k) = true →
          (∀ j, j < k → tagBinds s.myCtx (lineOf va) ((s.facet s.myFacet).tag j) = false) →
          exec (.tagl d a) s = .next (s.setHere
            ((({ s.here with early := [] } : Slot).setS d.toNat (BitVec.ofNat 64 k)).goto s.nextPc)))
        ∧ ((2 ^ 56 ≤ va ∨ ∀ k, k < 256 → tagBinds s.myCtx (lineOf va) ((s.facet s.myFacet).tag k) = false) →
            exec (.tagl d a) s = .next (s.wrote d (-1) s.nextPc)))

/-- RETX (R118): at an address of the own scratchpad it starts the exit of a retained macro, it leaves a macro that is
awake as it is, and it completes at once; no register and no byte of memory changes.

Retention and the scrubber (R84, R116): an idle macro in DATA enters retention, is retained when entering ends, or
leaves again at once when an access came; the end of an exit wakes it; without struck words nothing else changes. The
scrubber corrects a granule with one bad bit and poisons one with more. That an entry of `latent` counts the bad bits of a
unit is the model's choice (log 15), and so are the tags 6 and 7 by which `apexReports` names the scrubber's two reports
(log 42). -/
def Obligations.RetentionOfMacros : Prop :=
  (∀ (s : State) (a : Reg) (p : Place), s.here.srcPend [a] = false →
     s.look .load true (s.here.s a.toNat).toNat = .ok p → spaceOf p.pa = 2 → devOf p.pa = 0 → s.stationaryAt p.pa = false →
     ∃ t, exec (.retx a) s = .next t ∧ t.here = s.here.goto s.nextPc ∧ t.mem = s.mem
       ∧ ((s.mac (spadFacet p.pa) (macroOf p.pa)).ret = .retained →
           (t.mac (spadFacet p.pa) (macroOf p.pa)).ret = .exiting)
       ∧ ((s.mac (spadFacet p.pa) (macroOf p.pa)).ret = .awake →
           t.mac (spadFacet p.pa) (macroOf p.pa) = s.mac (spadFacet p.pa) (macroOf p.pa)))
  ∧ (∀ (s : State) (f m k : Nat),
       let y := s.mac f m
       let to_ (y' : Mac) : Out := .next (s.setMac f m y')
       ((s.facet f).idle ≠ 0 → y.st = .data → y.ret = .awake →
         exec (.idleCountExpiry f m) s = to_ { y with ret := .entering, wake := false, waker := none })
       ∧ (y.ret = .entering → y.wake = false → exec (.enteringEnd f m) s = to_ { y with ret := .retained })
       ∧ (y.ret = .entering → y.wake = true → exec (.enteringEnd f m) s = to_ { y with ret := .exiting, wake := false })
       ∧ (y.ret = .exiting → s.latent = [] →
           exec (.exitingEnd f m) s = to_ { y with ret := .awake, wake := false, waker := none })
       ∧ (Tbl.get 0 s.latent (64 * k) = 1 →
           ∃ t, exec (.patrolScrub k) s = .next t ∧ t.poison = s.poison ∧ Tbl.get 0 t.latent (64 * k) = 0 ∧ t.mem = s.mem
             ∧ t.apexReports = s.apexReports ++ [(6, 64 * k)])
       ∧ (2 ≤ Tbl.get 0 s.latent (64 * k) →
           ∃ t, exec (.patrolScrub k) s = .next t ∧ t.poisoned (64 * k) 1 = true ∧ Tbl.get 0 t.latent (64 * k) = 0 ∧ t.mem = s.mem
             ∧ t.apexReports = s.apexReports ++ [(7, 64 * k)]))

/-! ## Vector instructions -/

/-- Integer lane arithmetic (R152 to R156): signed lanes, results kept to their low w bits, shifts by the low bits of the
other lane; no flag is set. -/
def Obligations.IntegerLanes : Prop :=
  ∀ (s : State) (d a b : Reg) (q : PReg) (f : Fmt), f.isFloat = false →
    let w := f.width
    let x (k : Nat) : Nat := lane (s.here.vreg a.toNat) k w
    let y (k : Nat) : Nat := lane (s.here.vreg b.toNat) k w
    let X (k : Nat) : Int := laneInt (s.here.vreg a.toNat) k w
    let Y (k : Nat) : Int := laneInt (s.here.vreg b.toNat) k w
    let low (n : Int) : Nat := (n % 2 ^ w).toNat
    s.laneWise (.vadd d a b q f) d q f (fun k => low (X k + Y k))
    ∧ s.laneWise (.vsub d a b q f) d q f (fun k => low (X k - Y k))
    ∧ s.laneWise (.vmul d a b q f) d q f (fun k => low (X k * Y k))
    ∧ s.laneWise (.vmin d a b q f) d q f (fun k => low (min (X k) (Y k)))
    ∧ s.laneWise (.vmax d a b q f) d q f (fun k => low (max (X k) (Y k)))
    ∧ s.laneWise (.vabs d a q f) d q f (fun k => low (if X k < 0 then -X k else X k))
    ∧ s.laneWise (.vneg d a q f) d q f (fun k => low (-X k))
    ∧ s.laneWise (.vand d a b q f) d q f (fun k => x k &&& y k)
    ∧ s.laneWise (.vor d a b q f) d q f (fun k => x k ||| y k)
    ∧ s.laneWise (.vxor d a b q f) d q f (fun k => x k ^^^ y k)
    ∧ s.laneWise (.vsll d a b q f) d q f (fun k => x k * 2 ^ (y k % w) % 2 ^ w)
    ∧ s.laneWise (.vsrl d a b q f) d q f (fun k => x k / 2 ^ (y k % w))
    ∧ s.laneWise (.vsra d a b q f) d q f (fun k => low (X k / 2 ^ (y k % w)))

/-- Float lane arithmetic (R153, R154, R157, R158): each active lane is one operation on the lanes as read, rounded as
FPCTL says, the special functions to nearest even whatever FPCTL says; inactive lanes keep their value; the sticky flags set
are those of the active lanes' operations, each at its bit of FPCTL (R63).

What rounding is (R136, without FTZ): the result is the multiple of the spacing of the format's values at the exact value that
the mode chooses; beyond the largest finite value it is what the mode's last column says. Under FTZ a result that is tiny after
rounding is a zero of its sign (R137). It sets OF and NX where the value rounded without a bound on the exponent exceeds the
largest finite; else NX where it differs, and UF where it is tiny and differs, or tiny under FTZ, which sets NX too.

What a pattern stands for (R135), and what the operations are (R138, R157): sums, products and fused sums are exact, with the
signs of zeros, infinities and NaNs of IEEE 754; VMIN and VMAX give the lesser or greater input as read, −0 below +0; VABS
and VNEG clear or invert the sign. A NaN gives the canonical one. A signalling NaN and an invalid operation set NV, a quiet NaN
sets nothing.

The special functions (R139, R158) at NaNs, infinities, zeros and negative values, with NV and DZ; VRCP and VRSQ of every other
value, VEXP2 of every whole number and VLOG2 of every power of two are the exact result rounded to nearest even, with its
flags; of any other value VEXP2 and VLOG2 set NX. -/
def Obligations.FloatLanes : Prop :=
  (∀ (F : BinFmt) (rm : Rm) (neg : Bool) (mag : Nat) (e : Int), F = b16 ∨ F = b32 → 0 < mag →
     let least := F.emin - F.fb
     let own := e + (Nat.log2 mag : Int) - F.fb
     let q := if own < least then least else own
     let r := (F.round rm false neg mag e false).1
     ∃ m, roundsTo rm neg mag e m q ∧ m ≤ 2 ^ (F.fb + 1)
       ∧ (m * 2 ^ (q - least).toNat < 2 ^ F.fb * 2 ^ (F.bias + 1 - F.emin).toNat →
           ∃ m' q', F.decode false r = .fin neg m' q' ∧ least ≤ q'
             ∧ m' * 2 ^ (q' - least).toNat = m * 2 ^ (q - least).toNat)
       ∧ (2 ^ F.fb * 2 ^ (F.bias + 1 - F.emin).toNat ≤ m * 2 ^ (q - least).toNat →
           r = if rm = .rne ∨ rm = .rdn ∧ neg = true ∨ rm = .rup ∧ neg = false then F.infBits neg else F.maxBits neg))
  ∧ (∀ (F : BinFmt) (rm : Rm) (ftz neg : Bool) (mag x y : Nat) (e : Int), F = b16 ∨ F = b32 →
     let least := F.emin - F.fb
     let own := e + (Nat.log2 mag : Int) - F.fb
     let k := minInt own least
     let s := decide (x / F.signBit % 2 = 1)
     let ex := x / 2 ^ F.fb % 2 ^ F.eb
     let fr := x % 2 ^ F.fb
     let none_ : Fl := ⟨false, false, false, false, false⟩
     let sig (z : Nat) : Bool := F.decode ftz z == .nan true
     let nv (b : Bool) : Fl := ⟨b, false, false, false, false⟩
     let less := F.key (F.seen ftz x) < F.key (F.seen ftz y)
       ∨ F.key (F.seen ftz x) = F.key (F.seen ftz y) ∧ F.signBit ≤ F.seen ftz x
     (∀ ctl : Dword, fpFtz ctl = ctl.getLsbD 2
         ∧ fpRm ctl = match ctl.toNat % 4 with | 0 => .rne | 1 => .rtz | 2 => .rdn | _ => .rup)
       ∧ F.finish rm ftz (.fin neg mag e) = F.round rm ftz neg mag e false
       ∧ F.finish rm ftz (.inf neg) = (F.infBits neg, none_) ∧ (∀ fl, F.finish rm ftz (.nan fl) = (F.nanBits, fl))
       ∧ F.round rm ftz neg 0 e false = (F.zeroBits neg, none_)
       ∧ (∀ (fl : Fl) (j : Nat), fl.mask.getLsbD j = true
           ↔ j = 8 ∧ fl.nv ∨ j = 9 ∧ fl.dz ∨ j = 10 ∧ fl.of_ ∨ j = 11 ∧ fl.uf ∨ j = 12 ∧ fl.nx)
       ∧ (0 < mag → ∃ m n : Nat,
           let q := if own < least then least else own
           let beyond := decide (2 ^ F.fb * 2 ^ (F.bias + 1 - F.emin).toNat * 2 ^ (least - k).toNat ≤ m * 2 ^ (own - k).toNat)
           let tiny := decide (m * 2 ^ (own - k).toNat < 2 ^ F.fb * 2 ^ (least - k).toNat)
           let differs := decide (n * 2 ^ (q - minInt e q).toNat ≠ mag * 2 ^ (e - minInt e q).toNat)
           roundsTo rm neg mag e m own ∧ roundsTo rm neg mag e n q
             ∧ (F.round rm ftz neg mag e false).2
               = ⟨false, false, beyond, !beyond && tiny && (ftz || differs), beyond || differs || (tiny && ftz)⟩)
       ∧ (0 < mag → ∃ m, roundsTo rm neg mag e m own
           ∧ (F.round rm true neg mag e false).1 = if m * 2 ^ (own - k).toNat < 2 ^ F.fb * 2 ^ (least - k).toNat
               then F.zeroBits neg else (F.round rm false neg mag e false).1)
       ∧ F.decode ftz x = (if ex = 2 ^ F.eb - 1 then (if fr = 0 then .inf s else .nan (decide (fr < 2 ^ (F.fb - 1))))
           else if ex = 0 then .fin s (if ftz then 0 else fr) (F.emin - F.fb)
           else .fin s (2 ^ F.fb + fr) ((ex : Int) - F.bias - F.fb))
       ∧ (x < 2 * F.signBit → y < 2 * F.signBit →
           (F.isNaN x ∨ F.isNaN y → ∀ g, F.extreme ftz g x y = (F.nanBits, nv (sig x || sig y)))
           ∧ (¬ F.isNaN x → ¬ F.isNaN y → (∀ g, (F.extreme ftz g x y).2 = none_) ∧
               (less → (F.extreme ftz false x y).1 = F.seen ftz x ∧ (F.extreme ftz true x y).1 = F.seen ftz y)
               ∧ (¬ less → (F.extreme ftz false x y).1 = F.seen ftz y ∧ (F.extreme ftz true x y).1 = F.seen ftz x))
           ∧ (F.isNaN x → ∀ g, F.resign ftz g x = (F.nanBits, nv (sig x)))
           ∧ (¬ F.isNaN x → (∀ g, (F.resign ftz g x).2 = none_) ∧ (F.resign ftz false x).1 = F.seen ftz x % F.signBit
               ∧ (F.resign ftz true x).1 = (F.seen ftz x + F.signBit) % (2 * F.signBit))))
  ∧ (∀ (rm : Rm) (n1 n2 n3 : Bool) (m1 m2 m3 : Nat) (e1 e2 e3 : Int) (v w : Val) (sig : Bool),
     let zero (a b : Bool) : Bool := if a = b then a else decide (rm = .rdn)
     let nan (b : Bool) : Exact := .nan ⟨b, false, false, false, false⟩
     let sg (v : Val) : Bool := v == .nan true
     (∃ n m e, (Val.fin n1 m1 e1).add rm (.fin n2 m2 e2) = .fin n m e ∧ (m = 0 → n = zero n1 n2)
         ∧ ∀ k, k ≤ e → k ≤ e1 → k ≤ e2 → inUnits n m e k = inUnits n1 m1 e1 k + inUnits n2 m2 e2 k)
     ∧ (Val.fin n1 m1 e1).mul (.fin n2 m2 e2) = .fin (n1 != n2) (m1 * m2) (e1 + e2)
     ∧ (∃ n m e, (Val.fin n1 m1 e1).fma rm (.fin n2 m2 e2) (.fin n3 m3 e3) = .fin n m e ∧ (m = 0 → n = zero (n1 != n2) n3)
         ∧ ∀ k, k ≤ e → k ≤ e1 + e2 → k ≤ e3 →
           inUnits n m e k = inUnits (n1 != n2) (m1 * m2) (e1 + e2) k + inUnits n3 m3 e3 k)
     ∧ (Val.inf n1).add rm (.inf n1) = .inf n1 ∧ (Val.inf n1).add rm (.inf (!n1)) = nan true
     ∧ (Val.inf n1).add rm (.fin n2 m2 e2) = .inf n1 ∧ (Val.fin n2 m2 e2).add rm (.inf n1) = .inf n1
     ∧ (Val.inf n1).mul (.inf n2) = .inf (n1 != n2)
     ∧ (0 < m2 → (Val.inf n1).mul (.fin n2 m2 e2) = .inf (n1 != n2) ∧ (Val.fin n2 m2 e2).mul (.inf n1) = .inf (n2 != n1))
     ∧ (Val.inf n1).mul (.fin n2 0 e2) = nan true ∧ (Val.fin n2 0 e2).mul (.inf n1) = nan true
     ∧ (Val.nan sig).add rm v = nan (sig || sg v) ∧ v.add rm (.nan sig) = nan (sig || sg v)
     ∧ (Val.nan sig).mul v = nan (sig || sg v) ∧ v.mul (.nan sig) = nan (sig || sg v)
     ∧ (∀ b z, v.mul w = nan b → v.fma rm w z = nan (b || sg z))
     ∧ ((∀ b, v.mul w ≠ nan b) → v.fma rm w (.nan sig) = nan sig)
     ∧ (v.mul w = .inf n1 → v.fma rm w (.inf n1) = .inf n1 ∧ v.fma rm w (.inf (!n1)) = nan true
         ∧ v.fma rm w (.fin n3 m3 e3) = .inf n1)
     ∧ (Val.fin n1 m1 e1).fma rm (.fin n2 m2 e2) (.inf n3) = .inf n3
     ∧ (Val.fin n1 m1 e1).neg = .fin (!n1) m1 e1 ∧ (Val.inf n1).neg = .inf (!n1) ∧ (Val.nan sig).neg = .nan sig)
  ∧ (∀ (F : BinFmt) (x : Nat), F = b16 ∨ F = b32 →
     let v := F.decode false x
     let none_ : Fl := ⟨false, false, false, false, false⟩
     let invalid : Nat × Fl := (F.nanBits, ⟨true, false, false, false, false⟩)
     let byZero : Fl := ⟨false, true, false, false, false⟩
     (∀ sig, v = .nan sig →
       let r : Nat × Fl := (F.nanBits, ⟨sig, false, false, false, false⟩)
       F.vexp2 x = r ∧ F.vlog2 x = r ∧ F.vrcp x = r ∧ F.vrsq x = r)
     ∧ (v = .inf false → F.vexp2 x = (F.infBits false, none_) ∧ F.vlog2 x = (F.infBits false, none_)
         ∧ F.vrcp x = (F.zeroBits false, none_) ∧ F.vrsq x = (F.zeroBits false, none_))
     ∧ (v = .inf true → F.vexp2 x = (F.zeroBits false, none_) ∧ F.vlog2 x = invalid ∧ F.vrcp x = (F.zeroBits true, none_)
         ∧ F.vrsq x = invalid)
     ∧ ∀ neg mag e, v = .fin neg mag e →
       let rounds (p : Nat) (neg : Bool) (num den : Nat) (r : Nat × Fl) : Prop :=
         F.nearestRoot p neg num den r.1 ∧ F.resultFlags p num den r.1 r.2
       (mag = 0 → F.vlog2 x = (F.infBits true, byZero) ∧ F.vrcp x = (F.infBits neg, byZero) ∧ F.vrsq x = (F.infBits neg, byZero))
       ∧ (0 < mag → neg = true → F.vlog2 x = invalid ∧ F.vrsq x = invalid)
       ∧ (0 < mag → rounds 1 neg (2 ^ (-e).toNat) (mag * 2 ^ e.toNat) (F.vrcp x))
       ∧ (0 < mag → neg = false → rounds 2 false (2 ^ (-e).toNat) (mag * 2 ^ e.toNat) (F.vrsq x))
       ∧ (∀ n : Nat, mag * 2 ^ e.toNat = n * 2 ^ (-e).toNat →
           rounds 1 false (if neg then 1 else 2 ^ n) (if neg then 2 ^ n else 1) (F.vexp2 x))
       ∧ (∀ n : Nat, mag = 2 ^ n → neg = false →
           rounds 1 (decide ((n : Int) + e < 0)) ((n : Int) + e).natAbs 1 (F.vlog2 x))
       ∧ ((∀ n : Nat, mag * 2 ^ e.toNat ≠ n * 2 ^ (-e).toNat) →
           (F.vexp2 x).2.nx = true ∧ (F.vexp2 x).2.nv = false ∧ (F.vexp2 x).2.dz = false)
       ∧ (0 < mag → neg = false → (∀ n : Nat, mag ≠ 2 ^ n) →
           (F.vlog2 x).2.nx = true ∧ (F.vlog2 x).2.nv = false ∧ (F.vlog2 x).2.dz = false))
  ∧ ∀ (s : State) (d a b : Reg) (q : PReg) (f : Fmt), f.isFloat = true →
    let w := f.width
    let F := if f = .f16 then b16 else b32
    let rm := fpRm s.here.fpctl
    let ftz := fpFtz s.here.fpctl
    let x (k : Nat) : Nat := lane (s.here.vreg a.toNat) k w
    let X (k : Nat) : Val := F.decode ftz (x k)
    let y (k : Nat) : Nat := lane (s.here.vreg b.toNat) k w
    let Y (k : Nat) : Val := F.decode ftz (y k)
    let Z (k : Nat) : Val := F.decode ftz (lane (s.here.vreg d.toNat) k w)
    s.laneOps (.vadd d a b q f) d q f (fun k => F.finish rm ftz ((X k).add rm (Y k)))
    ∧ s.laneOps (.vsub d a b q f) d q f (fun k => F.finish rm ftz ((X k).add rm (Y k).neg))
    ∧ s.laneOps (.vmul d a b q f) d q f (fun k => F.finish rm ftz ((X k).mul (Y k)))
    ∧ s.laneOps (.vfma d a b q f) d q f (fun k => F.finish rm ftz ((X k).fma rm (Y k) (Z k)))
    ∧ s.laneOps (.vmin d a b q f) d q f (fun k => F.extreme ftz false (x k) (y k))
    ∧ s.laneOps (.vmax d a b q f) d q f (fun k => F.extreme ftz true (x k) (y k))
    ∧ s.laneOps (.vabs d a q f) d q f (fun k => F.resign ftz false (x k))
    ∧ s.laneOps (.vneg d a q f) d q f (fun k => F.resign ftz true (x k))
    ∧ s.laneOps (.vexp2 d a q f) d q f (fun k => F.vexp2 (x k))
    ∧ s.laneOps (.vlog2 d a q f) d q f (fun k => F.vlog2 (x k))
    ∧ s.laneOps (.vrcp d a q f) d q f (fun k => F.vrcp (x k))
    ∧ s.laneOps (.vrsq d a q f) d q f (fun k => F.vrsq (x k))

/-- The bit moves (R153, R154, R156, R159, R165, R166): VSEL takes every lane from V[a] or V[b], VBC copies the low bits
of S[a], VXL moves the lane that an index names, zero beyond the last, VPERM moves the lane that R166's table
names for its pattern; no flag is set.

VCMP and VNZS (R153, R160, R167): VCMP writes every bit of P[d], the bits of a lane's byte group being its condition
where the lane is active and 0 where it is not, and sets NV alone, where an active lane holds a signalling NaN, or a quiet one
under a condition of order; VNZS writes the numbers of the active lanes that are not zero, in
rising order, to the lanes of V[d], zero to the others, and their count to S[b]. -/
def Obligations.LaneMovesAndCompares : Prop :=
  (∀ (s : State) (d a b n : Reg) (q : PReg) (f : Fmt),
     let w := f.width
     let x (k : Nat) : Nat := lane (s.here.vreg a.toNat) k w
     let y (k : Nat) : Nat := lane (s.here.vreg b.toNat) k w
     (∃ r : Vec, exec (.vsel d a b q f) s = .next (s.wroteV d r 0)
       ∧ ∀ k, k < f.lanes → lane r k w = if active (s.here.preg q.toNat) k w then x k else y k)
     ∧ (s.here.srcPend [a] = false →
         s.laneWise (.vbc d a q f) d q f (fun _ => (s.here.s a.toNat).toNat % 2 ^ w))
     ∧ s.laneWise (.vxl d a b q f) d q f (fun k => if y k < f.lanes then x (y k) else 0)
     ∧ (let L := f.lanes
        let moves (source : Nat → Nat) : Prop :=
          s.laneWise (.vperm d a n q f) d q f (fun k => x (source k)) ∧ ∀ k, k < L → source k < L
        (n.toNat = 0 → moves fun k => k) ∧ (n.toNat = 1 → moves fun k => L - 1 - k)
        ∧ (2 ≤ n.toNat → n.toNat ≤ 6 → 2 ^ (n.toNat - 2) < L → moves fun k => k ^^^ 2 ^ (n.toNat - 2))
        ∧ (n.toNat = 7 → moves fun k => (k + 1) % L) ∧ (n.toNat = 8 → moves fun k => ((k : Int) - 1).emod L |>.toNat)
        ∧ (n.toNat = 9 → moves fun k => if k < L / 2 then 2 * k else 2 * (k - L / 2) + 1)
        ∧ (n.toNat = 10 → moves fun k => if k % 2 = 0 then k / 2 else L / 2 + (k - 1) / 2)
        ∧ (n.toNat = 11 → moves fun _ => 0)
        ∧ (permAssigned n.toNat f = true ↔
            n.toNat < 2 ∨ 2 ≤ n.toNat ∧ n.toNat ≤ 6 ∧ 2 ^ (n.toNat - 2) < L ∨ 7 ≤ n.toNat ∧ n.toNat ≤ 11)))
  ∧ (∀ (s : State) (d a b : Reg) (q : PReg) (f : Fmt) (c : Cond),
       let w := f.width
       let x (k : Nat) : Nat := lane (s.here.vreg a.toNat) k w
       let y (k : Nat) : Nat := lane (s.here.vreg b.toNat) k w
       let X (k : Nat) : Int := laneInt (s.here.vreg a.toNat) k w
       let Y (k : Nat) : Int := laneInt (s.here.vreg b.toNat) k w
       let on (k : Nat) : Bool := active (s.here.preg q.toNat) k w
       let F := if f = .f16 then b16 else b32
       let ftz := fpFtz s.here.fpctl
       let holds (k : Nat) : Bool :=
         if f.isFloat then
           let X := F.key (F.seen ftz (x k))
           let Y := F.key (F.seen ftz (y k))
           if F.infBits false < x k % F.signBit ∨ F.infBits false < y k % F.signBit then c == .ne || c == .un
           else match c with
             | .eq => X == Y | .ne => X != Y | .lt => X < Y | .le => X ≤ Y | .gt => X > Y | .ge => X ≥ Y
             | .ltz | .lez | .gtz | .gez | .un => false
         else match c with
           | .eq => x k == y k | .ne => x k != y k | .lt => X k < Y k | .le => X k ≤ Y k | .gt => X k > Y k | .ge => X k ≥ Y k
           | .ltz => x k < y k | .lez => x k ≤ y k | .gtz => x k > y k | .gez => x k ≥ y k | .un => false
       let V (z : Nat) : Val := F.decode ftz z
       let nan (z : Nat) : Bool := V z == .nan false || V z == .nan true
       let invalid (k : Nat) : Bool := f.isFloat && (nan (x k) || nan (y k))
         && (V (x k) == .nan true || V (y k) == .nan true || !(c == .eq || c == .ne || c == .un))
       (∃ r : BitVec 32, exec (.vcmp d a b q f c) s
           = .next (s.setHere (({ s.here.setP d.toNat r with
               fpctl := s.here.fpctl ||| (if (List.range f.lanes).any fun k => on k && invalid k then 0x100 else 0) } : Slot).goto
                 s.nextPc))
         ∧ ∀ k j, k < f.lanes → j < w / 8 → r.getLsbD (k * (w / 8) + j) = (on k && holds k))
       ∧ (s.here.isPend b.toNat = false →
           let hits := (List.range f.lanes).filter fun k =>
             on k && decide ((if f.isFloat then F.key (F.seen ftz (x k)) else x k) ≠ 0)
           ∃ r : Vec, exec (.vnzs d a b q f) s
             = .next (s.setHere (((s.here.setV d.toNat r).setS b.toNat (BitVec.ofNat 64 hits.length)).goto s.nextPc))
             ∧ (∀ k, k < f.lanes → lane r k w = hits.getD k 0)))

/-- VCVT (R152, R161): result lane k is the conversion of source lane k where its destination lane is active and keeps its
value where it is not; a narrowing conversion zeroes the bytes above its results. The sticky flags set are those of the
conversions of the active lanes.

What a source lane stands for (R135, R140 to R142, R152): an integer, a binary value as FloatLanes has it, or the value of a
CONE code by the regimes of R141 and R142; a CONE6 lane ignores bits 7:6.

The conversion of a non-number, of an infinity and into a binary format (R143); of a finite value (R136, R144): into an integer
it is the whole number that the mode chooses, clamped to the range; into CONE8 or CONE6, in RNE, no other magnitude of the
format is nearer, and one as near only where the result's code is even; in RTZ it is the greatest magnitude that does not
exceed the value. A non-number sets NV, into a binary format a signalling one only; into an integer an infinity and a clamp
that changes the value set NV, and nothing sets NX; into CONE8 or CONE6 a value beyond the largest sets OF and NX, another NX
where the result differs and UF where it is 0 (R143, R144). -/
def Obligations.LaneConversion : Prop :=
  (∀ (ftz : Bool) (x : Nat),
     let int (w : Nat) : Int := (BitVec.ofNat w x).toInt
     let cone (n es : Nat) : Val :=
       if x % 2 ^ (n - 1) = 0 then (if x / 2 ^ (n - 1) % 2 = 1 then .nan false else .fin false 0 (-12))
       else .fin (decide (x / 2 ^ (n - 1) % 2 = 1)) (coneUnits (n - 1) es (x % 2 ^ (n - 1))) (-12)
     nfDecode .int8 ftz x = .fin (decide (int 8 < 0)) (int 8).natAbs 0
     ∧ nfDecode .int32 ftz x = .fin (decide (int 32 < 0)) (int 32).natAbs 0
     ∧ nfDecode .f16 ftz x = b16.decode ftz x ∧ nfDecode .f32 ftz x = b32.decode ftz x
     ∧ nfDecode .cone8 ftz x = cone 8 1 ∧ nfDecode .cone6 ftz x = cone 6 0)
  ∧ (∀ (lo eb nf e f : Nat) (k : Int),
       let units := (2 ^ nf + f) * 2 ^ (12 + k - nf).toNat
       e < 2 ^ eb → f < 2 ^ nf →
       ((lo, k, eb, nf) ∈ [(1, (-12 : Int), 0, 0), (2, -10, 1, 0), (4, -8, 1, 1), (8, -6, 1, 2), (0x10, -4, 1, 3), (0x20, -2, 1, 4)
         , (0x40, 0, 1, 4), (0x60, 2, 1, 3), (0x70, 4, 1, 2), (0x78, 6, 1, 1), (0x7C, 8, 1, 0), (0x7E, 10, 0, 0), (0x7F, 12, 0, 0)] →
         coneUnits 7 1 (lo + e * 2 ^ nf + f) = units * 2 ^ e)
       ∧ ((lo, k, eb, nf) ∈ [(1, (-4 : Int), 0, 0), (2, -3, 0, 1), (4, -2, 0, 2), (8, -1, 0, 3), (0x10, 0, 0, 3), (0x18, 1, 0, 2)
         , (0x1C, 2, 0, 1), (0x1E, 3, 0, 0), (0x1F, 4, 0, 0)] →
         coneUnits 5 0 (lo + f) = units))
  ∧ (∀ (rm : Rm) (ftz neg sig : Bool) (mag : Nat) (e : Int),
       let to_ (dst : NFmt) (v : Val) : Nat × Fl := nfEncode dst rm ftz v
       let signed (n c : Nat) : Nat := c + if neg then 2 ^ (n - 1) else 0
       let none_ : Fl := ⟨false, false, false, false, false⟩
       let nv : Fl := ⟨true, false, false, false, false⟩
       let ofnx : Fl := ⟨false, false, true, false, true⟩
       to_ .f16 (.fin neg mag e) = b16.round rm ftz neg mag e false
       ∧ to_ .f32 (.fin neg mag e) = b32.round rm ftz neg mag e false
       ∧ to_ .f16 (.inf neg) = (b16.infBits neg, none_) ∧ to_ .f32 (.inf neg) = (b32.infBits neg, none_)
       ∧ to_ .f16 (.nan sig) = (b16.nanBits, if sig then nv else none_)
       ∧ to_ .f32 (.nan sig) = (b32.nanBits, if sig then nv else none_)
       ∧ to_ .cone8 (.inf neg) = (signed 8 0x7F, ofnx) ∧ to_ .cone6 (.inf neg) = (signed 6 0x1F, ofnx)
       ∧ to_ .cone8 (.nan sig) = (0x80, nv) ∧ to_ .cone6 (.nan sig) = (0x20, nv)
       ∧ to_ .int8 (.inf neg) = (if neg then 0x80 else 0x7F, nv)
       ∧ to_ .int32 (.inf neg) = (if neg then 0x80000000 else 0x7FFFFFFF, nv)
       ∧ to_ .int8 (.nan sig) = (0, nv) ∧ to_ .int32 (.nan sig) = (0, nv)
       ∧ (∀ dst, dst ≠ .f16 → dst ≠ .f32 → nfEncode dst rm ftz (.fin neg mag e) = nfEncode dst rm false (.fin neg mag e))
       ∧ ∀ src dst x, convert src dst rm ftz x = nfEncode dst rm ftz (nfDecode src ftz x))
  ∧ (∀ (dst : NFmt) (rm : Rm) (neg : Bool) (mag : Nat) (e : Int), dst = .int8 ∨ dst = .int32 →
     let w := nfWidth dst
     ∃ m, roundsTo rm neg mag e m 0
       ∧ (let whole : Int := if neg then -(m : Int) else m
         let clamped := max (-(2 ^ (w - 1))) (min (2 ^ (w - 1) - 1) whole)
         nfEncode dst rm false (.fin neg mag e)
           = ((BitVec.ofInt w clamped).toNat, ⟨decide (clamped ≠ whole), false, false, false, false⟩)))
  ∧ (∀ (dst : NFmt) (neg : Bool) (mag : Nat) (e : Int), dst = .cone8 ∨ dst = .cone6 → 0 < mag →
       let n := if dst = .cone8 then 8 else 6
       let es := if dst = .cone8 then 1 else 0
       let k := minInt e (-12)
       let x := mag * 2 ^ (e - k).toNat
       let value (c : Nat) : Nat := coneUnits (n - 1) es c * 2 ^ (-12 - k).toNat
       let code (rm : Rm) : Nat := (nfEncode dst rm false (.fin neg mag e)).1 % 2 ^ (n - 1)
       (∀ rm, (nfEncode dst rm false (.fin neg mag e)).1 / 2 ^ (n - 1) = if neg = true ∧ code rm ≠ 0 then 1 else 0)
       ∧ (∀ rm, (nfEncode dst rm false (.fin neg mag e)).2
           = if value (2 ^ (n - 1) - 1) < x then ⟨false, false, true, false, true⟩
             else ⟨false, false, false, decide (code rm = 0), decide (value (code rm) ≠ x)⟩)
       ∧ (∀ c, c < 2 ^ (n - 1) → apart x (value (code .rne)) ≤ apart x (value c)
           ∧ (c ≠ code .rne → apart x (value (code .rne)) = apart x (value c) → code .rne % 2 = 0))
       ∧ value (code .rtz) ≤ x ∧ ∀ c, c < 2 ^ (n - 1) → value c ≤ x → value c ≤ value (code .rtz))
  ∧ ∀ (s : State) (d a : Reg) (q : PReg) (src dst : NFmt), src ≠ dst →
    let ws := nfWidth src
    let wd := nfWidth dst
    let n := 256 / max ws wd
    let op (k : Nat) : Nat × Fl := convert src dst (fpRm s.here.fpctl) (fpFtz s.here.fpctl) (lane (s.here.vreg a.toNat) k ws)
    let on (k : Nat) : Bool := active (s.here.preg q.toNat) k wd
    ∃ (r : Vec) (fl : Dword), exec (.vcvt d a q src dst) s = .next (s.wroteV d r fl) ∧ flagsOf fl n on op
      ∧ (∀ k, k < n → lane r k wd = if on k then (op k).1 % 2 ^ wd else lane (s.here.vreg d.toNat) k wd)
      ∧ (wd < ws → ∀ k, n ≤ k → k < 256 / wd → lane r k wd = 0)

/-- Integer reductions and products (R163, R164, R134): the exact sum over the active lanes, wrapped to INT32 or, under
ISAT, clamped to it, sign-extended; the extreme of the active lanes, or the format's other end where none is active. OF alone is
set, where a clamp changes the sum.

Float reductions and products (R162 to R164): the leaves, the active lanes as read or their products in binary32, combine in
the fixed tree, an inactive lane being a hole, by the addition or the lesser or greater of FloatLanes; a NaN is canonical. With
no active lane the sum and the product are +0, the least is +Infinity and the greatest −Infinity. The flags are those of the
products and of the nodes of the tree, and NV where a signalling NaN reaches the root alone (R138, R154, R162). Only S[d], the
counter and these flags change. -/
def Obligations.Reductions : Prop :=
  (∀ (s : State) (d a b : Reg) (q : PReg) (f : Fmt), f.isFloat = false → s.here.isPend d.toNat = false →
     let w := f.width
     let X (k : Nat) : Int := laneInt (s.here.vreg a.toNat) k w
     let Y (k : Nat) : Int := laneInt (s.here.vreg b.toNat) k w
     let on (k : Nat) : Bool := active (s.here.preg q.toNat) k w
     let sum (g : Nat → Int) : Int := ((List.range f.lanes).map fun k => if on k then g k else 0).sum
     let int32 (n : Int) : Int :=
       if s.here.fpctl.getLsbD 3 then max (-(2 ^ 31)) (min (2 ^ 31 - 1) n) else (BitVec.ofInt 32 n).toInt
     let done (i : Instr) (n : Int) : Prop := exec i s = .next (s.wroteF d (BitVec.ofInt 64 n) 0)
     let sums (i : Instr) (n : Int) : Prop :=
       exec i s = .next (s.wroteF d (BitVec.ofInt 64 (int32 n))
         (if s.here.fpctl.getLsbD 3 ∧ (n < -(2 ^ 31) ∨ 2 ^ 31 ≤ n) then 0x400 else 0))
     sums (.vredAdd d a q f) (sum X)
     ∧ (f = .i8 → sums (.vdot d a b q f) (sum fun k => X k * Y k) ∧ done (.vsqd d a b q) (sum fun k => (X k - Y k) ^ 2))
     ∧ (∃ n, done (.vredMin d a q f) n ∧ (∀ k, k < f.lanes → on k = true → n ≤ X k)
         ∧ ((∃ k, k < f.lanes ∧ on k = true ∧ n = X k) ∨ ((∀ k, k < f.lanes → on k = false) ∧ n = 2 ^ (w - 1) - 1)))
     ∧ (∃ n, done (.vredMax d a q f) n ∧ (∀ k, k < f.lanes → on k = true → X k ≤ n)
         ∧ ((∃ k, k < f.lanes ∧ on k = true ∧ n = X k) ∨ ((∀ k, k < f.lanes → on k = false) ∧ n = -(2 ^ (w - 1))))))
  ∧ (∀ (s : State) (d a b : Reg) (q : PReg) (f : Fmt), f.isFloat = true → s.here.isPend d.toNat = false →
       let w := f.width
       let F := if f = .f16 then b16 else b32
       let depth := if f = .f16 then 4 else 3
       let rm := fpRm s.here.fpctl
       let ftz := fpFtz s.here.fpctl
       let x (k : Nat) : Nat := lane (s.here.vreg a.toNat) k w
       let y (k : Nat) : Nat := lane (s.here.vreg b.toNat) k w
       let none_ : Fl := ⟨false, false, false, false, false⟩
       let leaf (g : Nat → Nat × Fl) (k : Nat) : Option (Nat × Fl) :=
         if active (s.here.preg q.toNat) k w then some (g k) else none
       let sum (F : BinFmt) (m n : Nat) : Nat × Fl := F.finish rm ftz ((F.decode ftz m).add rm (F.decode ftz n))
       let product (k : Nat) : Nat × Fl := b32.finish rm ftz ((F.decode ftz (x k)).mul (F.decode ftz (y k)))
       let done (i : Instr) (F : BinFmt) (r : Option (Nat × Fl)) (empty : Nat) : Prop :=
         match r with
         | some (n, fl) => exec i s = .next (s.wroteF d (BitVec.ofNat 64 (F.canon n))
             (fl.or { none_ with nv := F.decode ftz n == .nan true }).mask)
         | none => exec i s = .next (s.wroteF d (BitVec.ofNat 64 empty) 0)
       let seen := leaf fun k => (F.seen ftz (x k), none_)
       done (.vredAdd d a q f) F (treeOf (sum F) depth seen) 0
       ∧ done (.vredMin d a q f) F (treeOf (F.extreme ftz false) depth seen) (F.infBits false)
       ∧ done (.vredMax d a q f) F (treeOf (F.extreme ftz true) depth seen) (F.infBits true)
       ∧ done (.vdot d a b q f) b32 (treeOf (sum b32) depth (leaf product)) 0)

/-! ## Queues, messages, joins -/

/-- ENQ (R55, R57, R62, R97, R181): the command word S[a+3]:S[a+2]:S[a+1]:S[a] enters the queue with its captures, its token
register turns pending, the slot goes on to the next word, and nothing else changes; a token of 0 takes ILLEGAL with the
word; a full queue, a pending token, a parked store and the release stall. What a command captures is MXCFG, SCA, SCB, FPCTL and
SWIN as they are, the token register of the level, and for a TMM or TMMB with ASRC = 1 the eight vector registers from the one
it names. What the handler of a slot whose SSQ is held pushes to SSQ goes past the held commands, and waits while the one before
it has not started (R199).

An STGA that names a barrier with an OVERRUN of the slot's context takes STAGE_OVERRUN with the barrier in TVAL, pushes nothing
and clears OVERRUN, so that it does not trap again (R96). It examines the barrier once, before its release: one that waits there
is marked, and does not trap for an OVERRUN set meanwhile (that the mark lasts until the slot goes on, log 72). -/
def Obligations.Enqueue : Prop :=
  ∀ (s : State) (a q : Reg), s.here.srcPend [a, a + 1, a + 2, a + 3] = false → q.toNat ≤ 2 →
    let w := s.here.tile a.toNat
    let k := wToken w
    let past : Bool := q.toNat == 2 && s.here.hold && s.here.sup
    let n := wf w 4 0
    let x := s.facet s.myFacet
    let stage : Prop := q.toNat = 0 ∧ wOpc w = 0x05
    let caught : Prop :=
      stage ∧ s.here.examined = false ∧ (x.bar n).overrun = true ∧ (x.bar n).owner = some s.myCtx
    let open_ : Prop := k ≠ 0 ∧ s.here.isPend k = false ∧ s.here.queueFull q.toNat = false ∧ s.here.replay = []
    let free : Prop := s.released (scopeCode (wScope w)) ∧ fenceXHeld s.here.sbuf false = false
    (∀ i, i < 4 → w.toNat / 2 ^ (64 * i) % 2 ^ 64 = (s.here.s (a.toNat + i)).toNat)
    ∧ (let c := s.here.capture q.toNat w
       c.word = w ∧ c.mxcfg = s.here.mxcfg ∧ c.sca = s.here.sca ∧ c.scb = s.here.scb ∧ c.fpctl = s.here.fpctl
       ∧ c.swin = s.here.swin ∧ c.tok = s.here.regNo k ∧ c.phase = .queued ∧ c.pos = 0 ∧ c.out = [] ∧ c.todo = []
       ∧ ∀ i, i < 8 → c.vcap.getD i 0 =
           if q.toNat = 1 ∧ (wOpc w = 0x12 ∨ wOpc w = 0x13) ∧ wf w 169 169 = 1 ∧ wf w 4 0 + i ≤ 31
           then s.here.vreg (wf w 4 0 + i) else 0)
    ∧ (s.here.queueFull q.toNat = true ↔ if past then s.here.bypass ≠ [] else if q.toNat = 0 then 16 ≤ s.here.cpq.length
        else if q.toNat = 1 then 8 ≤ s.here.mxq.length else 8 ≤ s.here.ssq.length)
    ∧ (open_ → ¬ caught → free →
      ∃ t, exec (.enq a q) s = .next t ∧ s.onlyHere t ∧ t.here.isPend k = true
        ∧ (∀ n, n ≠ s.here.regNo k → t.here.pend.contains n = s.here.pend.contains n)
        ∧ sameEarly t.here.early s.here.early
        ∧ t.here = ({ s.here with
            pend := t.here.pend, early := t.here.early
            cpq := if q.toNat = 0 then s.here.cpq ++ [s.here.capture 0 w] else s.here.cpq
            mxq := if q.toNat = 1 then s.here.mxq ++ [s.here.capture 1 w] else s.here.mxq
            ssq := if q.toNat = 2 ∧ past = false then s.here.ssq ++ [s.here.capture 2 w] else s.here.ssq
            bypass := if past then s.here.bypass ++ [s.here.capture 2 w] else s.here.bypass } : Slot).goto s.nextPc)
    ∧ (open_ → caught → s.handles →
        let s1 := s.setFacet s.myFacet (x.setBar n { x.bar n with overrun := false })
        exec (.enq a q) s = .next (s1.entered 0x0A (BitVec.ofNat 64 n)) ∧ s1.stageOverrun 0 w = false)
    ∧ (k = 0 → s.handles → exec (.enq a q) s = .next (s.entered 0x01 ((encode (.enq a q)).setWidth 64)))
    ∧ (k ≠ 0 → ¬ open_ → exec (.enq a q) s = .next s)
    ∧ (open_ → ¬ caught → ¬ free →
        ∃ b, exec (.enq a q) s = .next (s.setHere { s.here with examined := b }) ∧ (b = true ↔ stage))

/-- DEQ, WTOK and TOKQ (R98, R99): DEQ takes the oldest record of IXO into a register pair or the oldest element of SSO into
one register, and stalls on an empty queue of either; a record acquires the release that inserted its identity, and nothing
else, so that of what the slot has read ahead it drops what it read before that (R217, R226). A pending destination takes
TOKEN_CLOBBER with its number in TVAL before anything is popped, the lower one first. WTOK waits for a token; TOKQ reads
whether it is pending and never stalls on it, and a pending S[d] takes TOKEN_CLOBBER (R120).

What reading a token acquires (R87, R94, R99): of what the slot has read ahead, an instruction whose sources are not pending
drops the bytes of the deliveries that one of its source registers stands for, and nothing else; while one is pending it drops
nothing. -/
def Obligations.DequeueAndTokens : Prop :=
  ∀ (s : State) (d a q : Reg),
    let n := d.toNat
    (∀ r rest, q.toNat = 4 → 1 ≤ n → n ≤ 30 → s.here.isPend n = false → s.here.isPend (n + 1) = false → s.here.ixo = r :: rest →
      exec (.deq d q) s = .next (s.setHere (((({ s.here with
        ixo := rest, early := s.here.early.filter fun e => r.rel ≤ e.born } : Slot).setS n r.lo).setS (n + 1) r.hi).goto s.nextPc)))
    ∧ (∀ x rest, q.toNat = 5 → s.here.isPend n = false → s.here.sso = x :: rest →
        exec (.deq d q) s = .next (s.setHere ((({ s.here with sso := rest } : Slot).setS n x).goto s.nextPc)))
    ∧ (q.toNat = 4 → s.here.isPend n = false → s.here.isPend (n + 1) = false → s.here.ixo = [] → exec (.deq d q) s = .next s)
    ∧ (q.toNat = 5 → s.here.isPend n = false → s.here.sso = [] → exec (.deq d q) s = .next s)
    ∧ (s.handles → s.here.isPend n = true →
        exec (.deq d q) s = .next (s.entered 0x02 (BitVec.ofNat 64 n)) ∧ exec (.tokq d a) s = .next (s.entered 0x02 (BitVec.ofNat 64 n)))
    ∧ (s.handles → q.toNat = 4 → s.here.isPend n = false → s.here.isPend (n + 1) = true →
        exec (.deq d q) s = .next (s.entered 0x02 (BitVec.ofNat 64 (n + 1))))
    ∧ (s.here.isPend a.toNat = false → exec (.wtok a) s = .next (s.setHere (s.here.goto s.nextPc)))
    ∧ (s.here.isPend a.toNat = true → exec (.wtok a) s = .next s)
    ∧ (s.here.isPend n = false →
        exec (.tokq d a) s = .next (s.wrote d (if s.here.isPend a.toNat then 1 else 0) s.nextPc))
    ∧ sources (.wtok a) = [a] ∧ sources (.tokq d a) = [a] ∧ sources (.add d a q) = [a, q]
    ∧ ∀ i : Instr, (s.readSources i).mem = s.mem ∧ (∀ u, u ≠ s.cur → (s.readSources i).slot u = s.slot u)
        ∧ (s.readSources i).here = if s.here.srcPend (sources i) then s.here else { s.here with
            early := s.here.early.filter fun e => (sources i).all fun r => !e.behind.contains (s.here.regNo r.toNat) }

/-- MVM, SEND and SENDH (R250 to R252): MVM writes a message register; a send whose header is good and whose destination
resolves transmits m0 to m7 with its priority, takes a unit of allowance and writes 0 to S[d]; without allowance it
sends nothing and writes 1.

SPAWN (R254): the record of m0 to m7 becomes the newest of the core's deque and S[d] receives 0; a full deque writes
1, or takes SPAWN_LIMIT with 96 in TVAL when d is 0. -/
def Obligations.MessagesAndRecords : Prop :=
  (∀ (s : State) (d a : Reg) (r : Dest),
     (s.here.srcPend [a] = false →
       exec (.mvm d a) s = .next (s.setHere ((s.here.setM d.toNat (s.here.s a.toNat)).goto s.nextPc)))
     ∧ (s.ready [a] d → s.here.message.bad = false → s.resolve (s.here.s a.toNat).toNat true = .ok r →
         (s.here.allow = 0 → exec (.send d a) s = .next (s.wrote d 1 s.nextPc) ∧ exec (.sendh d a) s = .next (s.wrote d 1 s.nextPc))
         ∧ (0 < s.here.allow → s.released (destScope s.myCore r) →
             let packet (pri : Bool) : Packet :=
               { src := some s.cur, away := none, ctx := some s.myCtx, pri := pri, dest := r, via := none, frozen := s.frozenAt r
                 held := ⟨{ s.here.message with hdr := withPri s.here.message.hdr pri }, false⟩ }
             let sent (i : Instr) (pri : Bool) : Prop :=
               ∃ t, exec i s = .next t ∧ t.msgs = s.msgs ++ [packet pri] ∧ t.here.allow = s.here.allow - 1
                 ∧ (d ≠ 0 → t.here.s d.toNat = 0) ∧ t.here.pc = s.nextPc ∧ t.mem = s.mem ∧ t.here.m = s.here.m
                 ∧ (∀ u, u ≠ s.cur → t.slot u = s.slot u) ∧ hdrPri (withPri s.here.message.hdr pri).toNat = pri
             sent (.send d a) false ∧ sent (.sendh d a) true)))
  ∧ (∀ (s : State) (d : Reg), s.here.isPend d.toNat = false → s.here.message.bad = false →
       hdrPri s.here.message.hdr.toNat = false → hdrCont s.here.message.hdr.toNat = false →
       ((s.core s.myCore).dqFull = false → s.released .dev →
         ∃ t, exec (.spawn d) s = .next t ∧ (t.core s.myCore).deque.getLast? = some ⟨s.here.message, false⟩
           ∧ (t.core s.myCore).records = (s.core s.myCore).records + 1 ∧ (d ≠ 0 → t.here.s d.toNat = 0) ∧ t.here.pc = s.nextPc
           ∧ (∀ g, g ≠ s.myCore → t.core g = s.core g))
       ∧ ((s.core s.myCore).dqFull = true → d ≠ 0 → exec (.spawn d) s = .next (s.wrote d 1 s.nextPc))
       ∧ ((s.core s.myCore).dqFull = true → d = 0 → s.handles → exec (.spawn d) s = .next (s.entered 0x0B 96)))

/-- Join records (R265, R266): JINIT writes the counter word of a record in the core's own local memory, count in bits
31:0 and scope from bit 32, and remembers the record; ARRIVE and ARRIVE.RLX send one arrival to a record. -/
def Obligations.JoinRecords : Prop :=
  ∀ (s : State) (a b : Reg) (p : Place),
    let x := (s.here.s a.toNat).toNat
    let va := x / 8 * 8
    (s.here.srcPend [a, b] = false → x % 8 ≤ 4 → (s.here.s b.toNat).toNat < 2 ^ 32 → s.look .store true va = .ok p →
      spaceOf p.pa = 1 → localCore p.pa = s.myCore → p.pa % 16384 + 72 ≤ 16384 → s.here.watched 1 va 8 = false →
      s.writeHeld s.cur va p.pa 8 = false →
      ∃ t, exec (.jinit a b) s = .next t ∧ t.here.pendJoin = some (BitVec.ofNat 64 va) ∧ t.here.pc = s.nextPc
        ∧ t.here.regs = s.here.regs
        ∧ (p.enc = none → t.rdNat p 8 = (s.here.s b.toNat).toNat + x % 8 * 2 ^ 32
          ∧ ∀ y, y < p.pa ∨ p.pa + 8 ≤ y → memGet t.mem y = memGet s.mem y))
    ∧ (s.here.srcPend [a] = false → x % 8 ≤ 4 → s.look .store false va = .ok p → spaceOf p.pa = 1 →
        s.here.sbuf.any (·.mayOverlap p.pa 8) = false → s.here.replay.any (fun r => meets r.va r.data.length va 8) = false →
        let sent (i : Instr) : Prop := ∃ es : List Early, (∀ e, e ∈ es → e ∈ s.here.early)
          ∧ exec i s = .next { s.setHere (({ s.here with early := es } : Slot).goto s.nextPc) with
              arrivals := s.arrivals ++ [⟨s.myCtx, p.pa, s.cur⟩] }
        sent (.arriveRlx a) ∧ (s.released (scopeCode (x % 8)) → sent (.arrive a)))

/-- SUSP and MIGR at task level (R256 to R258): once nothing is pending and every store is translated and performed, a
task without keys becomes a continuation that resumes at the given word: SUSP without a pending join record puts it on
top of the core's deque, MIGR sends it and takes a unit of allowance; the slot is free. With keys held both take
KEY_HELD.

SUSP with a pending join record (R257, R266, R267): the continuation is parked in the record behind its counter word, whose
PARKED bit is set and whose count stays; where the count is 0 the continuation enters the core's mailbox at once.

SUSP at supervisor level (R286): with an offset of 0 the slot returns to task level, its parked commands walk again and the
conversion goes on there; once nothing is pending it releases the keys, and the continuation that resumes at EPC is on top of
the deque. With another offset, and MIGR at this level, the trap kills the context.

What a continuation carries (R256): its header says CONT and the resume word, S[25] to S[31] are its arguments, and
with JOIN the last argument is the retained reference. -/
def Obligations.ContinuationsOfTasks : Prop :=
  (∀ (s : State) (a : Reg) (o : BitVec 21) (i : BitVec 16) (r : Dest),
     s.here.sup = false → s.here.conv = false → s.here.pend = [] → s.here.sbuf.any (·.untranslated) = false →
     let m (pc : Dword) : Held := ⟨s.here.continuation pc.toNat, false⟩
     let target := BitVec.ofInt 64 ((s.here.pc.toNat : Int) + 4 * o.toInt)
     let far := BitVec.ofInt 64 ((s.here.pc.toNat : Int) + 4 * i.toInt)
     (s.here.keys = [] → target.toNat < 2 ^ 34 → s.released .sys → s.here.pendJoin = none → (s.core s.myCore).dqFull = false →
       ∃ t, exec (.susp o) s = .next t ∧ t.here.busy = false
         ∧ (t.core s.myCore).deque.getLast? = some (m target) ∧ (t.core s.myCore).records = (s.core s.myCore).records + 1)
     ∧ (s.here.keys = [] → far.toNat < 2 ^ 34 → s.released .sys → 0 < s.here.allow →
         s.resolve (s.here.s a.toNat).toNat false = .ok r →
         ∃ t, exec (.migr a i) s = .next t ∧ t.here.busy = false ∧ t.here.allow = s.here.allow - 1 ∧ t.mem = s.mem
           ∧ t.msgs = s.msgs ++ [Packet.mk (some s.cur) none (some s.myCtx) (hdrPri s.here.hdr.toNat) (m far) r none
               (s.frozenAt r)])
     ∧ (s.here.keys ≠ [] → s.handles → exec (.susp o) s = .next (s.entered 0x03 0) ∧ exec (.migr a i) s = .next (s.entered 0x03 0))
     ∧ (∀ va p, s.here.keys = [] → target.toNat < 2 ^ 34 → s.released .sys → s.here.pendJoin = some va → s.clean →
         s.xlateAgain s.myFacet s.myCtx .store true va.toNat = .ok p → spaceOf p.pa = 1 → localCore p.pa = s.myCore →
         devOf p.pa = 0 →
         let w := s.joinWord p.pa
         (joinCount w ≠ 0 → ∃ t, exec (.susp o) s = .next t ∧ t.here.busy = false ∧ t.parkedMsg p.pa = (m target).msg
           ∧ joinParked (t.joinWord p.pa) = true ∧ joinCount (t.joinWord p.pa) = joinCount w
           ∧ (∀ g, t.core g = s.core g) ∧ ∀ x, x < p.pa ∨ p.pa + 72 ≤ x → memGet t.mem x = memGet s.mem x)
         ∧ (joinCount w = 0 → (s.ctx s.myCtx).st = .running → coreIn (s.ctx s.myCtx).set s.myCore = true →
             (s.core s.myCore).ring (hdrPri s.here.hdr.toNat) = [] →
             ((s.core s.myCore).box (hdrPri s.here.hdr.toNat)).length < boxDepth (hdrPri s.here.hdr.toNat) →
             ∃ t, exec (.susp o) s = .next t ∧ t.here.busy = false
               ∧ (t.core s.myCore).box (hdrPri s.here.hdr.toNat)
                 = (s.core s.myCore).box (hdrPri s.here.hdr.toNat) ++ [m target])))
  ∧ (∀ (s : State) (a : Reg) (o : BitVec 21) (i : BitVec 16), s.here.sup = true → s.here.conv = false →
       exec (.migr a i) s = .next (s.kill s.myCtx 0x05)
       ∧ (o ≠ 0 → exec (.susp o) s = .next (s.kill s.myCtx 0x01))
       ∧ (o = 0 → s.here.start = true → exec (.susp o) s = .next (s.kill s.myCtx 0x05))
       ∧ (o = 0 → s.here.start = false → s.here.replay = [] →
           ∃ t, exec (.susp o) s = .next t
             ∧ t.here = { s.here with
                 sup := false, leaving := false, conv := true, duePage := [], dueStore := false
                 cpq := s.here.cpq.map Cmd.again, mxq := s.here.mxq.map Cmd.again, ixq := s.here.ixq.map IxReq.again }
             ∧ t.mem = s.mem ∧ ∀ u, u ≠ s.cur → t.slot u = s.slot u))
  ∧ (∀ s : State, s.here.conv = true → s.here.hold = false → s.here.pend = [] → s.here.sbuf.any (·.untranslated) = false →
       s.here.epc.toNat < 2 ^ 34 → s.released .sys → s.here.pendJoin = none → (s.core s.myCore).dqFull = false →
       ∃ t, exec (.susp 0) s = .next t ∧ t.here.busy = false
         ∧ (t.core s.myCore).deque.getLast? = some ⟨s.here.continuation s.here.epc.toNat, false⟩
         ∧ t.keyRels = s.keyRels ++ s.here.keys.map fun k => ⟨s.myCtx, k⟩)
  ∧ (∀ (t : Slot) (pc : Nat), pc < 2 ^ 34 → pc % 4 = 0 →
       let m := t.continuation pc
       hdrCont m.hdr.toNat = true ∧ 4 * hdrResume m.hdr.toNat = pc ∧ hdrPri m.hdr.toNat = hdrPri t.hdr.toNat
       ∧ hdrJoin m.hdr.toNat = hdrJoin t.hdr.toNat ∧ hdrKeyn m.hdr.toNat = 0 ∧ hdrHandler m.hdr.toNat = 0
       ∧ hdrRange m.hdr.toNat = false ∧ hdrGrain m.hdr.toNat = 0
       ∧ (∀ k, 1 ≤ k → k ≤ 6 → m.arg k = t.regs.getD (k + 24) 0)
       ∧ m.arg 7 = (if hdrJoin t.hdr.toNat then t.joinRef else t.regs.getD 31 0))

/-! ## The index instructions at issue, control registers -/

/-- The index instructions at issue (R207): when the token register, IXQ and the release allow it, the request enters IXQ
with its operands and the token turns pending; IXNEW has loaded its block of four doublewords, STV and LDN have
translated their vector. Only the slot changes, and none of its registers.

CODEPUB (R291): its token register turns pending, and the request is sent with its range, where no store that it must follow
awaits translation (which is the model's choice, log 54). -/
def Obligations.RequestsWithTokens : Prop :=
  (∀ (s : State) (d a b : Reg) (p : Place) (pl : Nat → Place), d ≠ 0 → s.indexHeld d = false →
     let x := s.here.s a.toNat
     let y := s.here.s b.toNat
     let sent (i : Instr) (n : Nat) (vec : Option Place) (y z : Dword) (block : IxReq → Prop) : Prop :=
       ∃ t r, exec i s = .next t ∧ s.onlyHere t ∧ t.here.ixq = s.here.ixq ++ [r] ∧ r.fn = n ∧ r.a = x ∧ r.pv = vec ∧ r.y = y
         ∧ r.z = z ∧ block r ∧ r.tok = s.here.regNo d.toNat ∧ r.phase = .queued ∧ t.here.isPend d.toNat = true
         ∧ t.here.pc = s.nextPc ∧ t.here.regs = s.here.regs
     (s.here.srcPend [a] = false →
       sent (.ixdel d a) 1 none 0 0 (fun _ => True) ∧ sent (.ixstat d a) 4 none 0 0 (fun _ => True))
     ∧ (s.here.srcPend [a] = false → x.toNat % 8 = 0 →
         (∀ k, k < 4 → s.look .load true (x.toNat + 8 * k) = .ok (pl k) ∧ s.here.watched 0 (x.toNat + 8 * k) 8 = false
           ∧ s.readable (x.toNat + 8 * k) (pl k) 8) →
         sent (.ixnew d a) 0 none 0 0 fun r => ∀ k, k < 4 → r.blk.getD k 0 = BitVec.ofNat 64 (ofBytes ((s.rd (pl k) 8).take 8)))
     ∧ (s.here.srcPend [a, b, b + 1] = false → y.toNat % 4 = 0 → s.look .load true y.toNat = .ok p →
         sent (.stv d a b) 2 (some p) y (s.here.s (b.toNat + 1)) (fun _ => True)
         ∧ sent (.ldn d a b) 3 (some p) y (s.here.s (b.toNat + 1)) (fun _ => True)))
  ∧ (∀ (s : State) (d a b : Reg), d ≠ 0 → s.ready [a, b] d → s.here.replay = [] →
       s.here.codeHeld s.myCore s.tick SEntry.untranslated = false →
       ∃ t, exec (.codepub d a b) s = .next t ∧ t.here.pc = s.nextPc ∧ t.here.isPend d.toNat = true
         ∧ t.here.regs = s.here.regs ∧ t.mem = s.mem
         ∧ t.codeReqs = s.codeReqs ++ [CodeReq.mk s.tick s.cur (s.here.regNo d.toNat) s.myCtx (s.here.s a.toNat).toNat
             (s.here.s b.toNat).toNat false])

/-- The named control registers (R61, R63 to R65, R288): CTLR reads the register of the slot or its core, CTLW writes it
under its Access column; FPCTL's sticky bits are cleared by ones and its upper bits stay zero.

The control-space forms at supervisor level (R289, R295): an aligned address of a register that the supervisor level
may reach is read into S[d], as an acquire, after which the slot keeps nothing it has read ahead, or written with S[d];
reading a register that it may not reach takes PROT, which at this level kills the context; a write checks the address
before it waits for S[d].

The map of control space (R294, R303): which register stands at which address of the device, under DEVICE 0 or its own
identity, and that the other offsets are unassigned, between the blocks and within each of them. What a read returns (R77, R79,
R117, R272, R296), what a write changes (R80, R95, R272, R296, R297, R303), and which registers a supervisor may read and write
(R295). That a write of a stream fault record has no effect is the model's choice (log 21). -/
def Obligations.ControlForms : Prop :=
  (∀ (s : State) (d : Reg) (x : Dword),
     let read (n : Nat) (v : Dword) : Prop := exec (.ctlr d (BitVec.ofNat 16 n)) s = .next (s.wrote d v s.nextPc)
     let write (n : Nat) (t : Slot) : Prop := exec (.ctlw d (BitVec.ofNat 16 n)) s = .next (s.setHere (t.goto s.nextPc))
     let t := s.here
     let k := s.core s.myCore
     (t.isPend d.toNat = false →
       read 0x00 t.fpctl ∧ read 0x01 t.mxcfg ∧ read 0x02 t.sca ∧ read 0x03 t.scb ∧ read 0x04 t.swin
       ∧ read 0x10 (s.ctxid s.cur)
       ∧ (t.sup = true → read 0x20 k.tvec ∧ read 0x21 t.tcause ∧ read 0x22 t.tval ∧ read 0x23 t.epc ∧ read 0x30 k.spillb
           ∧ read 0x31 k.htab))
     ∧ (t.srcPend [d] = false → t.s d.toNat = x →
         write 0x00 { t with fpctl := (x &&& 0xF) ||| (t.fpctl &&& 0x1F00 &&& ~~~x) }
         ∧ write 0x01 { t with mxcfg := x &&& 0x1FFFF } ∧ write 0x02 { t with sca := x } ∧ write 0x03 { t with scb := x }
         ∧ write 0x04 { t with swin := x &&& 3 } ∧ write 0x10 t
         ∧ (t.sup = true → write 0x21 { t with tcause := x &&& 0xFF } ∧ write 0x22 { t with tval := x }
             ∧ write 0x23 { t with epc := x }
             ∧ exec (.ctlw d 0x20) s = .next ((s.setCore s.myCore { k with tvec := x }).setHere (t.goto s.nextPc))
             ∧ exec (.ctlw d 0x31) s = .next ((s.setCore s.myCore { k with htab := x }).setHere (t.goto s.nextPc))
             ∧ (k.lowRing = [] → k.highRing = [] →
                 exec (.ctlw d 0x30) s = .next ((s.setCore s.myCore { k with spillb := x }).setHere (t.goto s.nextPc))))))
  ∧ (∀ (s : State) (d a : Reg) (o : BitVec 16) (r : CReg), s.here.sup = true →
       let ea := s.here.ea a o
       ea % 8 = 0 → s.creg ea = some r →
       (s.here.srcPend [a] = false → s.here.isPend d.toNat = false → s.mayRead (.sup s.myCtx s.cur) r = true →
         exec (.ctlrSpace d a o) s = .next (s.setHere
           ((({ s.here with early := [] } : Slot).setS d.toNat (BitVec.ofNat 64 (s.cread r))).goto s.nextPc)))
       ∧ (s.here.srcPend [a, d] = false → s.myCtx < 512 → s.mayWrite (.sup s.myCtx s.cur) r (s.here.s d.toNat) = true → s.released .dev →
           let t := s.cwrite (.sup s.myCtx s.cur) r (s.here.s d.toNat)
           (t.here.busy = true → exec (.ctlwSpace d a o) s = .next (t.setHere (t.here.goto (t.here.pc + 4))))
           ∧ (t.here.busy = false → exec (.ctlwSpace d a o) s = .next t))
       ∧ (s.here.srcPend [a] = false → s.mayRead (.sup s.myCtx s.cur) r = false →
           exec (.ctlrSpace d a o) s = .next (s.kill s.myCtx 0x05))
       ∧ (s.here.srcPend [a] = false → s.mayWrite (.sup s.myCtx s.cur) r (BitVec.ofNat 64 s.myCtx) = false →
           exec (.ctlwSpace d a o) s = .next (s.kill s.myCtx 0x05))
       ∧ (s.here.srcPend [a] = false → s.here.srcPend [d] = true →
           s.mayWrite (.sup s.myCtx s.cur) r (BitVec.ofNat 64 s.myCtx) = true → exec (.ctlwSpace d a o) s = .next s))
  ∧ (∀ (s : State) (a o : Nat),
       let at_ (o : Nat) : Option CReg := s.creg (3 * 2 ^ 48 + o)
       at_ 0 = some .xinv ∧ at_ 8 = some .xstat
       ∧ (∀ q j, q < 64 → j < 40 →
           at_ (0x10000 + 512 * q) = some (.lqctl q) ∧ at_ (0x10008 + 512 * q + 8 * j) = some (.lqmask q j))
       ∧ (∀ q j, q < 64 → 41 ≤ j → j < 64 → at_ (0x10000 + 512 * q + 8 * j) = none)
       ∧ (∀ c i, c < 512 → i < 32 → at_ (0x100000 + 256 * c + 8 * i) = some (.record c i))
       ∧ (∀ n i, n < 4096 → i < 4 → at_ (0x200000 + 32 * n + 8 * i) = some (.region n i))
       ∧ (∀ k i j, k < 8 → i < 32 → j < 2 →
           at_ (0x400000 + 4096 * k) = some (.logHead (.stack k))
           ∧ at_ (0x400010 + 4096 * k + 16 * i + 8 * j) = some (.logEntry (.stack k) i j)
           ∧ at_ 0x500000 = some (.logHead .device) ∧ at_ (0x500010 + 16 * i + 8 * j) = some (.logEntry .device i j))
       ∧ (∀ k x, k < 8 → x = 1 ∨ 66 ≤ x ∧ x < 512 → at_ (0x400000 + 4096 * k + 8 * x) = none ∧ at_ (0x500000 + 8 * x) = none)
       ∧ (∀ f, f < numFacets →
           let block (o : Nat) : Option CReg := at_ (0x100000000 + 0x400000 * f + o)
           (∀ n, n < 256 → block (8 * n) = some (.tag f n)) ∧ (∀ m, m < 16 → block (0x800 + 8 * m) = some (.mapEntry f m))
           ∧ block 0x880 = some (.retcfg f) ∧ block 0x888 = some (.retst f) ∧ block 0x890 = some (.ssown f)
           ∧ (∀ b, b < 32 → block (0xA00 + 16 * b) = some (.stgst f b) ∧ block (0xA08 + 16 * b) = some (.stgcan f b))
           ∧ block 0x1000 = some (.logHead (.facet f))
           ∧ (∀ i j, i < 32 → j < 2 → block (0x1010 + 16 * i + 8 * j) = some (.logEntry (.facet f) i j))
           ∧ (∀ lo hi x, (lo, hi) ∈ [(0x898, 0xA00), (0xC00, 0x1000), (0x1008, 0x1010), (0x1210, 0x100000), (0x200000, 0x400000)] →
               lo ≤ x → x < hi → block x = none)
           ∧ ∀ v, v < 256 →
               let live (o : Nat) : Option CReg := block (0x100000 + 0x1000 * v + o)
               (∀ o, o < 0x800 → live o = some (.live (256 * f + v) o))
               ∧ (∀ x, 0x820 ≤ x ∧ x < 0x840 ∨ 0x868 ≤ x ∧ x < 0x1000 → live x = none)
               ∧ (∀ i, i < 4 → live (0x800 + 8 * i) = some (.watch (256 * f + v) i))
               ∧ ∀ i, i < 5 → live (0x840 + 8 * i) = some (.faultWord (256 * f + v) i))
       ∧ (∀ lo hi, (lo, hi) ∈ [(0x10, 0x10000), (0x18000, 0x100000), (0x120000, 0x200000), (0x220000, 0x400000), (0x408000, 0x500000)
           , (0x500210, 0x100000000), (0x100000000 + numFacets * 0x400000, 2 ^ 48)] → lo ≤ o → o < hi → at_ o = none)
       ∧ (spaceOf a = 3 → devOf a = 0 ∨ devOf a = s.devId → s.creg a = at_ (offOf a))
       ∧ (spaceOf a ≠ 3 ∨ devOf a ≠ 0 ∧ devOf a ≠ s.devId → s.creg a = none))
  ∧ (∀ (s : State) (q j c n f m b u : Nat) (a : LogAt),
       let flag (x : Bool) (k : Nat) : Nat := if x then 2 ^ k else 0
       let x := s.queue q
       let y := s.ctx c
       let r := s.region n
       let z := s.mac f m
       let w := (s.facet f).bar b
       let t := s.slot u
       let state : Nat := match y.st with | .free => 0 | .running => 1 | .switchedOut => 2 | .killed => 3
       let macro_ : Nat := match z.st with | .data => 0 | .loading => 1 | .stationary => 2
       s.cread .xinv = 0 ∧ s.cread .xstat = (if s.xinv = [] then 0 else 1)
       ∧ s.cread (.lqctl q)
         = flag x.valid 63 + flag x.drain 62 + x.held.length * 2 ^ 40 + x.cursor * 2 ^ 20 + flag x.pri 16 + x.ctx
       ∧ s.cread (.lqmask q j) = (x.maskDw j).toNat
       ∧ s.cread (.record c 0) = y.kcode * 2 ^ 8 + state ∧ s.cread (.record c 1) = y.ptbase.toNat
       ∧ s.cread (.record c 2) = y.tvec.toNat ∧ s.cread (.record c 3) = y.htab.toNat ∧ s.cread (.record c 4) = y.dqsb.toNat
       ∧ s.cread (.record c 5) = y.saveb.toNat ∧ s.cread (.record c 6) = y.errh.toNat
       ∧ s.cread (.record c 7) = y.pcount % 2 ^ 16 * 2 ^ 48 + flag y.pnote 33 + flag y.memsave 32 + y.slice
       ∧ (∀ i, 8 ≤ i → s.cread (.record c i) = 0)
       ∧ s.cread (.region n 0) = r.base ∧ s.cread (.region n 1) = r.len
       ∧ s.cread (.region n 2) = r.perm * 2 ^ 10 + flag r.claimed 9 + r.owner ∧ s.cread (.region n 3) = r.gen
       ∧ s.cread (.logHead a) = (s.log a).next + (s.log a).lost * 2 ^ 32
       ∧ s.cread (.logEntry a j 0) = ((s.log a).entry j).1.toNat ∧ s.cread (.logEntry a j 1) = ((s.log a).entry j).2.toNat
       ∧ s.cread (.tag f n) = ((s.facet f).tag n).toNat ∧ s.cread (.retcfg f) = (s.facet f).idle.toNat
       ∧ s.cread (.mapEntry f m)
         = macro_ * 2 ^ 62 + z.owner * 2 ^ 53 + z.bfmt * 2 ^ 50 + z.lb * 2 ^ 47 + z.kst * 2 ^ 38 + flag z.resm 37
       ∧ (m < 16 → s.cread (.retst f) / 4 ^ m % 4
           = match z.ret with | .awake => 0 | .entering => 1 | .retained => 2 | .exiting => 3)
       ∧ s.cread (.ssown f) = (match (s.facet f).sOwner with | some d => 2 ^ 63 + d | none => 0)
       ∧ s.cread (.stgst f b) = flag w.armed 63 + flag w.overrun 62 + w.owner.getD 0 * 2 ^ 33 + w.count
       ∧ s.cread (.stgcan f b) = 0
       ∧ s.cread (.watch u 0) = t.waddr0.toNat ∧ s.cread (.watch u 1) = t.wctl0.toNat ∧ s.cread (.watch u 2) = t.waddr1.toNat
       ∧ s.cread (.watch u 3) = t.wctl1.toNat
       ∧ (∀ i, i < 4 → s.cread (.faultWord u i) = t.faultWord.toNat / 2 ^ (64 * i) % 2 ^ 64)
       ∧ s.cread (.faultWord u 4) = t.faultWin
       ∧ (∀ i, i < 32 → s.cread (.live u (8 * i)) = (t.phys i).toNat) ∧ s.cread (.live u 0x108) = t.pc.toNat
       ∧ (∀ i, i < 7 → s.cread (.live u (0x188 + 8 * i)) = (t.bank.getD i 0).toNat)
       ∧ s.cread (.live u 0x140) = t.tcause.toNat ∧ s.cread (.live u 0x148) = t.tval.toNat ∧ s.cread (.live u 0x150) = t.epc.toNat
       ∧ ∀ i k, i < 32 → k < 4 → s.cread (.live u (0x400 + 32 * i + 8 * k)) = lane (t.vreg i) k 64)
  ∧ (∀ (s : State) (w : Who) (x : Dword) (q j c n f b u i : Nat) (a : LogAt),
       let put (r : CReg) : State := s.cwrite w r x
       let who : Option Nat := match w with | .sup d _ => some d | .apex => none
       let y := s.ctx c
       let mask (j : Nat) : Dword := (s.queue q).maskDw j
       exec (.xinv x) s = .next (put .xinv) ∧ exec (.retcfg f x) s = .next (put (.retcfg f))
       ∧ exec (.rel f x) s = .next (put (.ssown f)) ∧ (b < 32 → exec (.cancel f b x) s = .next (put (.stgcan f b)))
       ∧ exec (.regionLen who n x) s = .next (put (.region n 1)) ∧ exec (.claimed who n x) s = .next (put (.region n 2))
       ∧ put (.region n 3) = s
       ∧ (who = none ∨ (s.region n).claimed = true ∧ who = some (s.region n).owner →
           put (.region n 0) = s.setRegion n { s.region n with base := x.toNat % 2 ^ 56 })
       ∧ (who ≠ none → ¬ ((s.region n).claimed = true ∧ who = some (s.region n).owner) → put (.region n 0) = s)
       ∧ (who ≠ none → put (.lqctl q) = s ∧ put (.lqmask q j) = s)
       ∧ (who = none → exec (.lqctl q x) s = .next (put (.lqctl q)) ∧ ((s.queue q).valid = true → put (.lqmask q j) = s)
           ∧ ((s.queue q).valid = false → ∃ l, put (.lqmask q j) = s.setQueue q { s.queue q with mask := l }
               ∧ Tbl.get 0 l j = x ∧ ∀ k, k ≠ j → Tbl.get 0 l k = mask k))
       ∧ (y.st = .running → i ∈ [1, 2, 3, 4, 5, 7] → put (.record c i) = s)
       ∧ (y.st ≠ .running → put (.record c 1) = s.setCtx c { y with ptbase := x }
           ∧ put (.record c 2) = s.setCtx c { y with tvec := x } ∧ put (.record c 3) = s.setCtx c { y with htab := x }
           ∧ put (.record c 4) = s.setCtx c { y with dqsb := x } ∧ put (.record c 5) = s.setCtx c { y with saveb := x }
           ∧ put (.record c 7) = s.setCtx c { y with
               pnote := x.getLsbD 33, memsave := x.getLsbD 32, slice := x.toNat % 2 ^ 32 })
       ∧ put (.record c 6) = s.setCtx c { y with errh := x &&& 0x8000000FFFFCFFFF }
       ∧ (x = 1 → exec (.preempt c) s = .next (put (.record c 8))) ∧ (x = 2 → exec (.kill c) s = .next (put (.record c 8)))
       ∧ (x = 4 → (who = none → exec (.free c) s = .next (put (.record c 8))) ∧ (who ≠ none → put (.record c 8) = s))
       ∧ put (.record c 0) = s ∧ (9 ≤ i → put (.record c i) = s)
       ∧ (x.getLsbD 63 = false → put (.logEntry a i 0) = s) ∧ put (.logEntry a i 1) = s
       ∧ (x.getLsbD 63 = true → ∃ l : ErrLog, put (.logEntry a i 0) = s.setLog a l ∧ l.next = (s.log a).next
           ∧ l.lost = (s.log a).lost ∧ l.entry i = (((s.log a).entry i).1 &&& 0x7FFFFFFFFFFFFFFF, ((s.log a).entry i).2)
           ∧ ∀ k, k ≠ i → l.entry k = (s.log a).entry k)
       ∧ put (.watch u 0) = s.setSlot u { s.slot u with waddr0 := x &&& 0x00FFFFFFFFFFFFF8 }
       ∧ put (.watch u 1) = s.setSlot u { s.slot u with wctl0 := x &&& 0xFF07 }
       ∧ put (.watch u 2) = s.setSlot u { s.slot u with waddr1 := x &&& 0x00FFFFFFFFFFFFF8 }
       ∧ put (.watch u 3) = s.setSlot u { s.slot u with wctl1 := x &&& 0xFF07 }
       ∧ (i < 32 → put (.live u (8 * i)) = s.setSlot u (((s.slot u).unmark i).setPhys i x))
       ∧ (i < 7 → put (.live u (0x188 + 8 * i)) = s.setSlot u (((s.slot u).unmark (33 + i)).setPhys (33 + i) x))
       ∧ put .xstat = s ∧ put (.logHead a) = s ∧ put (.tag f n) = s ∧ put (.mapEntry f n) = s ∧ put (.retst f) = s
       ∧ put (.stgst f b) = s ∧ put (.faultWord u i) = s)
  ∧ (∀ (s : State) (c u : Nat) (r : CReg) (x : Dword),
       let own (f : Nat) : Prop := (s.ctx c).st = .running ∧ f ∈ (s.ctx c).set
       s.mayRead .apex r = true ∧ s.mayWrite .apex r x = true
       ∧ (s.mayRead (.sup c u) r = true ↔
           match r with
           | .xstat | .lqctl _ | .lqmask _ _ | .region _ _ => True
           | .record d _ => d = c
           | .tag f _ | .mapEntry f _ | .retcfg f | .retst f | .ssown f | .stgst f _ | .stgcan f _ => own f
           | .logHead (.facet f) | .logEntry (.facet f) _ _ => own f
           | .live v _ | .watch v _ | .faultWord v _ => own (v / 256)
           | _ => False)
       ∧ (s.mayWrite (.sup c u) r x = true ↔
           match r with
           | .xinv => x.toNat % 512 = c
           | .lqctl _ | .lqmask _ _ | .region _ _ => True
           | .record d i => d = c ∧ (i = 6 ∨ i = 8)
           | .retcfg f | .ssown f => own f
           | .stgcan f b => own f ∧ ((s.facet f).bar b).owner = some c
           | .logEntry (.facet f) i 0 =>
             own f ∧ ((s.log (.facet f)).entry i).1.toNat / 2 ^ 32 % 512 = c
               ∧ ((s.log (.facet f)).entry i).1.getLsbD 41 = false
           | .live v _ | .watch v _ | .faultWord v _ => v = u
           | _ => False))

/-! ## The copy engine -/

/-- A copy command that begins (R59, R86, R88, R333): an unassigned opcode, a reserved bit or a scope above 4 answers −1, a
limit −8, a stale handle −5, a range outside its region or a direction that the region's PERM does not give −4; a command of
no bytes answers 0; any other one is started. A command that names a region of another device waits while no route leads
there (R90, R314). An STGA arms its barrier for its token, answers −7 at an armed one and 0 for a count of 0 (R95).

What is reserved and what a limit is (R89, R90, R92, R95): the reserved bits of each command; two handles, a handle of another
KIND, rows that overlap in the destination, an index list that is not aligned; and which handle, offset, count and total a
command names. -/
def Obligations.CopyChecks : Prop :=
  (∀ (w : Tile) (c : Cmd),
     let f (hi lo : Nat) : Nat := w.toNat / 2 ^ lo % 2 ^ (hi + 1 - lo)
     let sh : Prop := f 239 239 = 1
     let dh : Prop := f 238 238 = 1
     let rows := max (f 223 208) 1
     (wOpc w = 1 → (copyReserved w = true ↔ f 231 224 ≠ 0 ∨ (sh ∨ dh) ∧ f 183 160 ≠ 0))
     ∧ (wOpc w = 4 → (copyReserved w = true ↔ f 231 224 ≠ 0 ∨ sh ∨ dh ∧ f 183 160 ≠ 0 ∨ ¬ dh ∧ f 207 184 ≠ 0))
     ∧ (wOpc w = 2 ∨ wOpc w = 3 → (copyReserved w = true ↔ f 239 238 ≠ 0) ∧ (copyLimit w = true ↔ f 191 128 % 4 ≠ 0))
     ∧ (wOpc w = 5 → (copyReserved w = true ↔ f 239 96 ≠ 0 ∨ f 63 5 ≠ 0) ∧ copyLimit w = false)
     ∧ (wOpc w = 1 ∨ wOpc w = 4 → ¬ (wOpc w = 4 ∧ sh) →
         (copyLimit w = true ↔ sh ∧ dh ∨ sh ∧ f 51 48 ≠ 1 ∨ dh ∧ f 115 112 ≠ 1
           ∨ ¬ sh ∧ ¬ dh ∧ 1 < rows ∧ f 183 160 < f 159 128)
         ∧ (sh → copyHandle w = some (f 63 0)) ∧ (¬ sh → dh → copyHandle w = some (f 127 64))
         ∧ (¬ sh → ¬ dh → copyHandle w = none) ∧ cHoff w = f 223 184 ∧ cCount w = f 159 128
         ∧ (c.word = w → (sh ∨ dh → c.total = f 159 128) ∧ (¬ sh → ¬ dh → c.total = rows * f 159 128)))
     ∧ (wOpc w = 2 ∨ wOpc w = 3 → copyHandle w = none ∧ (c.word = w → c.total = f 215 192 * f 231 216)))
  ∧ (∀ (s : State) (u : Nat) (c : Cmd) (rest : List Cmd) (i : Instr),
       s.engineAt u .cp c rest → c.phase = .queued → c.out = [] →
       let w := c.word
       let answers (st : Int) : Prop := exec i s = .next (s.answered u .cp c rest (BitVec.ofInt 64 st))
       let reserved := 5 ≤ wScope w ∨ copyReserved w = true
       (wOpc w = 1 ∧ i = .cpy u ∨ wOpc w = 2 ∧ i = .cpyg u ∨ wOpc w = 3 ∧ i = .cpys u ∨ wOpc w = 4 ∧ i = .cpyf u →
         (reserved → answers (-1))
         ∧ (¬ reserved → copyLimit w = true → answers (-8))
         ∧ (¬ reserved → copyLimit w = false → ∀ h, copyHandle w = some h → hDevice h = 0 ∨ hDevice h = s.devId →
             let x := s.region (hSlot h)
             (s.staleRegion h = true → answers (-5))
             ∧ (s.staleRegion h = false → x.len < cHoff w + cCount w → answers (-4))
             ∧ (s.staleRegion h = false →
                 (if wOpc w = 1 ∧ cSH w = true then x.perm % 2 = 0 else x.perm / 2 % 2 = 0) → answers (-4)))
         ∧ (s.handleWaits c = true → exec i s = .next s)
         ∧ (∀ h, copyHandle w = some h → s.handleHere h = true → s.handleWaits c = false)
         ∧ (s.handleWaits c = false → s.copyCheck c = none → c.total = 0 → answers 0)
         ∧ (s.handleWaits c = false → s.copyCheck c = none → c.total ≠ 0 →
             ∃ c', exec i s = .next (s.headed u .cp c' rest) ∧ c'.word = w ∧ c'.phase = .started ∧ c'.pos = 0 ∧ c'.out = []))
       ∧ (wOpc w = 0 ∨ 5 < wOpc w → i = .cpy u → answers (-1))
       ∧ (wOpc w = 5 → i = .stga u →
           let f := u / 256
           let n := wf w 4 0
           (reserved → answers (-1))
           ∧ (¬ reserved → ((s.facet f).bar n).armed = true → answers (-7))
           ∧ (¬ reserved → ((s.facet f).bar n).armed = false →
               ∃ t, exec i s = .next t ∧ ((t.facet f).bar n).owner = some (s.ctxOf u)
                 ∧ (wf w 95 64 = 0 → t.slot u = (s.answered u .cp c rest 0).slot u)
                 ∧ (wf w 95 64 ≠ 0 → t.slot u = (s.slot u).setQueue .cp rest ∧ ((t.facet f).bar n).armed = true
                     ∧ ((t.facet f).bar n).count = wf w 95 64 ∧ ((t.facet f).bar n).slot = u ∧ ((t.facet f).bar n).tok = c.tok))))

/-- A started copy command goes on (R87, R89 to R93). CPY and CPYF send the next piece of a row toward its destination:
the source's bytes, or those of the pattern. R87 bounds a piece, which stays within its row and its 64-byte granule; that the
model takes the greatest such piece, cut at the 256-byte boundaries of a region, is its own choice (log 11), and so is that a
region's side keeps the BASE and OWNER that stood at the start of the command (log 65). CPYG and CPYS read the elements of
their chunk, then send what they have read. A command that has sent its last byte has its byte count as its status. -/
def Obligations.CopyMoves : Prop :=
  ∀ (s : State) (u : Nat) (c : Cmd) (rest : List Cmd) (p : Place) (b : List Byte),
    s.engineAt u .cp c rest → c.phase = .started → c.poisoned = false → c.ending = 0 →
    let w := c.word
    let ctx := s.ctxOf u
    let row := c.pos / cCount w
    let col := c.pos % cCount w
    let dst := if cDH w then (c.hbase + cHoff w + c.pos, c.howner) else (cDst w + row * cDPitch w + col, ctx)
    let src := if cSH w then (c.hbase + cHoff w + c.pos, c.howner) else (cSrc w + row * cSPitch w + col, ctx)
    let n := pieceLen w c.pos dst.1
    let sends (i : Instr) (va d : Nat) (data : List Byte) (bad : List Nat) (more : List (Nat × List Byte × List Nat)) : Prop :=
      ∃ c', exec i s = .next (s.headed u .cp c' rest) ∧ c'.word = w ∧ c'.tok = c.tok ∧ c'.pos = c.pos + data.length
        ∧ c'.out = c.out ++ [⟨va, d, p, data, bad, c.pos⟩] ∧ c'.todo = more
        ∧ (c.pos + data.length < c.total → c'.phase = .started)
        ∧ (c.total ≤ c.pos + data.length → more = [] → bad = [] →
            c'.phase = .finished ∧ c'.status = BitVec.ofNat 64 c.total)
    (c.pos < c.total → wOpc w = 1 ∨ wOpc w = 4 → 0 < n ∧ col + n ≤ cCount w ∧ dst.1 % 64 + n ≤ 64)
    ∧ (c.pos < c.total → c.todo = [] → s.remoteHandle w = none → s.revokedAt c = false → c.atBoundary = false →
      s.writable u dst.2 dst.1 p →
      (wOpc w = 1 → s.reads u src.2 src.1 n b → sends (.cpy u) dst.1 dst.2 b [] [])
      ∧ (wOpc w = 4 → ∃ q : List Byte, q.length = n ∧ sends (.cpyf u) dst.1 dst.2 q [] []
          ∧ ∀ k, k < n → (q.getD k 0).toNat = cSrc w / 2 ^ (8 * ((col + k) % 8)) % 256))
    ∧ (∀ i, wOpc w = 2 ∧ i = .cpyg u ∨ wOpc w = 3 ∧ i = .cpys u →
        let k := c.rpos / gElen w
        (∀ x : List Byte, c.rpos < chunkEnd c → s.reads u ctx (gIdx w + 4 * k) 4 x →
          let from_ := if wOpc w = 2 then ofBytes x else k
          let to_ := if wOpc w = 2 then k else ofBytes x
          s.reads u ctx (cSrc w + from_ * gElen w) (gElen w) b →
          ∃ l, exec i s = .next (s.headed u .cp { c with rpos := c.rpos + gElen w, wait := none, todo := c.todo ++ l } rest)
            ∧ piecesOf l (cDst w + to_ * gElen w) b ∧ ∀ y, y ∈ l → y.2.2 = [])
        ∧ (∀ va data bad more, chunkEnd c ≤ c.rpos → c.todo = (va, data, bad) :: more → bad = [] → s.writable u ctx va p →
            sends i va ctx data bad more))

/-- DELIVERY (R81, R86 to R88, R93, R94, R110, R115, R318, R325, R333). A delivery of an entry performs at its owner when nothing
holds it: no earlier one of a CPYS to the same owner, and no earlier one that would fail. Its bytes are written and no other
byte changes where the place is not encrypted; it leaves its command. A region revoked before its granule moved ends the
command with −6 at the start of the granule; a delivery that fails at its owner, behind an erased key slot, toward a device
out of reach, or in a stationary macro, ends it with −4 or −15 and the bytes before it, and is not written, nor is a later
one. One toward another device behind which a later byte was written counts as performed before that device was lost
(log 20). The tokens of finished commands are written in order.

A delivery that a stage barrier of its context counts lowers the count; one that reaches the count, or goes beyond it,
disarms the barrier and answers its token, and one that goes beyond it, or comes to a barrier that is not armed, sets OVERRUN.
What a slot has read ahead of its loads stays: the command's token register, and where a barrier counts the delivery that of its
STGA, is marked as standing for the bytes, and only the slot's reading of the register acquires them (R87, R94). -/
def Obligations.DeliveryPerforms : Prop :=
  ∀ (s : State) (u e k : Nat) (mx : Bool) (c : Cmd) (d : Deliv),
    let w : Which := if mx then .mx else .cp
    ((s.slot u).queue w)[e]? = some c → c.out[k]? = some d →
    let holds (x : Deliv) : Prop :=
      s.keyLost x.place = false ∧ (devOf x.place.pa ≠ 0 ∧ c.laterDone x = true
        ∨ s.cutOff x.place.pa = false ∧ s.stationaryAt x.place.pa = false)
    let waits : Prop := c.mustWait k d = true ∨ ∃ x, x ∈ c.out.take k ∧ ¬ holds x
    let same (a b : Slot) : Prop := sameEarly a.early b.early ∧ a = { b with early := a.early }
    let marked (l : List Early) (tok : Nat) : List Early := l.map fun e =>
      if e.meets d.place.pa d.data.length then { e with behind := insertNat tok e.behind } else e
    let complete (x : Cmd) : Prop := x.phase = .finished ∧ x.out = []
    let becomes (c' : Cmd) (a : Slot) : Prop :=
      ∃ done left : List Cmd, setAt ((s.slot u).queue w) e c' = done ++ left ∧ (∀ x, x ∈ done → complete x)
        ∧ (∀ x, left.head? = some x → ¬ complete x)
        ∧ same a ((done.foldl (fun (t : Slot) x => t.writeTok x.tok x.status) (s.slot u)).setQueue w left)
    let ends (code count : Nat) (out : List Deliv) : Prop :=
      ∃ t, exec (.delivery u e k mx) s = .next t ∧ t.mem = s.mem ∧ (∀ v, v ≠ u → t.slot v = s.slot v)
        ∧ ∃ c' : Cmd, c' = { c with
            phase := .finished, status := BitVec.ofInt 64 (-((code + 256 * count : Nat) : Int)), out := out, pos := c'.pos
            todo := [], wait := none } ∧ becomes c' (t.slot u)
    (waits → exec (.delivery u e k mx) s = .next s)
    ∧ (¬ waits → s.revokedAhead c d.pos = true → ends 6 ((cHoff c.word + d.pos) / 256 * 256 - cHoff c.word) [])
    ∧ (¬ waits → s.revokedAhead c d.pos = false → ¬ holds d →
        ends (if s.keyLost d.place = false ∧ s.cutOff d.place.pa = true then 15 else 4) d.pos (c.out.take k))
    ∧ (¬ waits → s.revokedAhead c d.pos = false → holds d → s.asleep d.place.pa = false →
        ∃ t, exec (.delivery u e k mx) s = .next t
          ∧ (d.place.enc = none → rdBytes t.mem d.place.pa d.data.length = d.data
              ∧ ∀ a, a < d.place.pa ∨ d.place.pa + d.data.length ≤ a → memGet t.mem a = memGet s.mem a)
          ∧ (c.barrier = none → becomes { c with out := dropAt c.out k } (t.slot u)
              ∧ (t.slot u).early = marked (s.slot u).early c.tok ∧ ∀ v, v ≠ u → t.slot v = s.slot v)
          ∧ (∀ b, c.barrier = some b →
              let y := (s.facet (u / 256)).bar b
              let z := (t.facet (u / 256)).bar b
              let n := d.data.length
              (y.armed = true → y.owner = some (s.ctxOf u) →
                (y.slot = u → (t.slot u).early = marked (marked (s.slot u).early c.tok) y.tok)
                ∧ (y.slot ≠ u → (t.slot u).early = marked (s.slot u).early c.tok
                    ∧ (t.slot y.slot).early = marked (s.slot y.slot).early y.tok)
                ∧ (n < y.count → z = { y with count := y.count - n } ∧ becomes { c with out := dropAt c.out k } (t.slot u))
                ∧ (y.count ≤ n → z = { y with armed := false, count := 0, overrun := y.overrun || y.count < n }
                    ∧ (y.slot ≠ u → same (t.slot y.slot) ((s.slot y.slot).writeTok y.tok (BitVec.ofNat 64 y.total)))))
              ∧ (y.armed = false ∨ y.owner ≠ some (s.ctxOf u) → (t.slot u).early = marked (s.slot u).early c.tok)
              ∧ (y.armed = false → y.owner = some (s.ctxOf u) ∨ y.owner = none →
                  z = { y with overrun := true, owner := some (s.ctxOf u) } ∧ becomes { c with out := dropAt c.out k } (t.slot u))
              ∧ (y.owner ≠ none → y.owner ≠ some (s.ctxOf u) → z = y ∧ becomes { c with out := dropAt c.out k } (t.slot u))))

/-! ## The matrix unit -/

/-- TLW, TREL and TACZ (R114, R175, R177, R178). A TLW that begins turns a macro in DATA to LOADING, with its tag entries
invalid; one that has read its tile leaves it STATIONARY with the weights of the tile, 0 above KLD and NCOL, and the
scale store of its table, and answers the number of weights. TREL returns the macro to DATA, its weights kept as
bytes; TACZ clears the accumulators of its rows and sets their anchor. A macro that is not stationary answers −2,
another context's −4. Each of the three waits while a command that started earlier, be it one that waits itself, has not
finished its effect on the macro, and has its place in the start order from then on; it does not start while a pre-empted TLW of
its context holds the macro (R173). A TLW that is resumed and
fails before it begins again leaves its macro in DATA (R171, R187). That a TLW takes its effect in steps, and waits for a
write that is on its way to the macro, is the model's cut (logs 31 and 33). -/
def Obligations.MatrixTiles : Prop :=
  ∀ (s : State) (u : Nat) (c : Cmd) (rest : List Cmd) (m : Nat), s.engineAt u .mx c rest → c.out = [] → wScope c.word ≤ 4 →
    let w := c.word
    let f := u / 256
    let ctx := s.ctxOf u
    let y := s.mac f m
    let base := spadAddr f (65536 * m)
    let answers (i : Instr) (st : Int) : Prop := exec i s = .next (s.answered u .mx c rest (BitVec.ofInt 64 st))
    let of_ (i : Instr) : Prop :=
      wOpc w = 0x10 ∧ i = .tlw u ∧ c.phase = .queued ∧ tlwCheck c = none ∧ s.macroAt f ctx (tMaddr w) = (some m, .none)
      ∨ wOpc w = 0x11 ∧ i = .trel u ∧ c.phase = .queued ∧ wf w 239 64 = 0 ∧ s.macroAt f ctx (wf w 63 0) = (some m, .none)
      ∨ wOpc w = 0x14 ∧ i = .tacz u ∧ c.phase = .queued ∧ wf w 217 0 = 0 ∧ aRow w + aMn w ≤ 15 ∧ m = aMb w
    let kept : Prop := y.st = .loading ∧ y.resm = true ∧ y.owner = ctx ∧ ¬ (wOpc w = 0x10 ∧ c.loads = some m)
    (∀ i, of_ i → c.start = none → kept → exec i s = .next s)
    ∧ (∀ i, of_ i → ¬ kept → s.macroHeld u 0 m = true ∨ y.st = .loading ∧ y.resm = false
          ∨ wOpc w = 0x10 ∧ s.inboundTo f m = true →
        (c.start = none → exec i s = .next (s.headed u .mx { c with start := some s.tick } rest))
        ∧ (c.start ≠ none → rest = [] → exec i s = .next s))
    ∧ (∀ (v e : Nat) (x : Slot) (d : Cmd), ¬ (v = u ∧ e = 0) → v / 256 = f → (v, x) ∈ s.slots → x.mxq[e]? = some d →
        d.phase = .queued → d.start ≠ none → c.start = none → wOpc d.word = 0x14 → aMb d.word = m → s.macroHeld u 0 m = true)
    ∧ (wOpc w = 0x10 → c.phase = .queued → c.start = none → c.loads = some m → y.st = .loading → y.resm = true → y.owner = ctx →
        let fails (code : Nat) : Prop :=
          ∃ t, exec (.tlw u) s = .next t ∧ t.slot u = (s.answered u .mx c rest (BitVec.ofInt 64 (-code))).slot u
            ∧ (t.mac f m).st = .data ∧ (∀ n, n ≠ m → t.mac f n = s.mac f n)
            ∧ ∀ a, a < base ∨ base + 65536 ≤ a → memGet t.mem a = memGet s.mem a
        (∀ code, tlwCheck c = some code → fails code)
        ∧ (tlwCheck c = none → s.macroAt f ctx (tMaddr w) = (none, .none) → fails 4))
    ∧ (wOpc w = 0x10 → c.phase = .queued → tlwCheck c = none → s.macroAt f ctx (tMaddr w) = (some m, .none) →
      c.loads = none → s.macroHeld u 0 m = false → s.inboundTo f m = false →
      (y.st = .stationary → answers (.tlw u) (-11))
      ∧ (y.st = .data → ∃ t c', exec (.tlw u) s = .next t ∧ t.slot u = (s.headed u .mx c' rest).slot u ∧ c'.phase = .started
          ∧ c'.loads = some m ∧ (t.mac f m).st = .loading ∧ (t.mac f m).owner = ctx ∧ t.mem = s.mem
          ∧ ∀ n, n / 16 = m → tagValid ((t.facet f).tag n) = false))
    ∧ (∀ rows, wOpc w = 0x10 → c.phase = .started → tlwCheck c = none → c.loads = some m → m < 16 → y.ret = .awake →
        let b := mxB c.mxcfg
        let es := opSize b
        let nb := ceilDiv (tKst w) (blockLen (mxBlen c.mxcfg))
        s.fetchList f ctx (((List.range (tKld w)).map fun k => (tSrc w + k * tPitch w, es * tNcol w))
          ++ scaleRange c.scb.toNat (tNcol w * nb)) = ⟨s, rows, false, .none⟩ →
        let scales := (rows.drop (tKld w)).headD []
        let weight (k col : Nat) : Nat :=
          if k < tKld w ∧ col < tNcol w then ofBytes (((rows.getD k []).drop (es * col)).take es) else 0
        ∃ t, exec (.tlw u) s = .next t ∧ t.slot u = (s.answered u .mx c rest (BitVec.ofNat 64 (tKld w * tNcol w))).slot u
          ∧ (t.mac f m).st = .stationary ∧ (t.mac f m).owner = ctx ∧ (t.mac f m).bfmt = b
          ∧ (t.mac f m).lb = mxBlen c.mxcfg ∧ (t.mac f m).kst = tKst w
          ∧ (∀ k col, k < tKst w → col < 256 →
              weightAt t.mem f m b k col = weight k col % 2 ^ (match b with | 2 => 6 | 3 => 16 | _ => 8))
          ∧ (∀ col n, col < 256 → n < 64 → (t.mac f m).scaleAt col n
              = if col < tNcol w ∧ n < nb then scales.getD (col * nb + n) 0 else 0)
          ∧ (∀ r col, (t.mac f m).accAt r col = ⟨0, false⟩)
          ∧ ∀ a, a < base ∨ base + 65536 ≤ a → memGet t.mem a = memGet s.mem a)
    ∧ (wOpc w = 0x11 → wf w 239 64 = 0 → s.macroAt f ctx (wf w 63 0) = (some m, .none) → y.st ≠ .loading →
        s.macroHeld u 0 m = false →
        (y.st = .data → answers (.trel u) (-2))
        ∧ (y.st = .stationary → y.owner ≠ ctx → answers (.trel u) (-4))
        ∧ (y.st = .stationary → y.owner = ctx →
            ∃ t, exec (.trel u) s = .next t ∧ t.slot u = (s.answered u .mx c rest 0).slot u ∧ t.mem = s.mem
              ∧ (t.mac f m).st = .data ∧ (t.mac f m).scale = [] ∧ (t.mac f m).acc = [] ∧ (t.mac f m).anchor = []
              ∧ ∀ n, n ≠ m → t.mac f n = s.mac f n))
    ∧ (wOpc w = 0x14 → wf w 217 0 = 0 → aRow w + aMn w ≤ 15 → m = aMb w → y.st ≠ .loading →
        s.macroHeld u 0 m = false →
        (y.st = .data → answers (.tacz u) (-2))
        ∧ (y.st = .stationary → y.owner ≠ ctx → answers (.tacz u) (-4))
        ∧ (y.st = .stationary → y.owner = ctx →
            ∃ t, exec (.tacz u) s = .next t ∧ t.slot u = (s.answered u .mx c rest 0).slot u ∧ t.mem = s.mem
              ∧ (∀ r col, r < 16 → col < 256 → (t.mac f m).accAt r col = if inRows w r then ⟨0, false⟩ else y.accAt r col)
              ∧ (∀ r, r < 16 → (t.mac f m).anchorAt r = if inRows w r then sint (wf w 227 218) 10 else y.anchorAt r)))

/-- TACS and TDOT (R147, R149, R151, R179, R185). A TACS that begins reads the named elements, converts each at its row's
anchor and has their bytes to send, row by row; a TDOT that begins has to send the conversion of the narrowed sum of
its terms, which it reads element by element: x, its scale, y, its scale. The bytes of row i of a TACS go to its destination
address plus i times its pitch, in pieces that cross no 64-byte boundary. Each then sends its pieces in order. A TDOT waits
for no other command: behind one that waits for its macros it begins as at the head (R173).

What the arithmetic of a term is, here and in MatrixProduct (R145, R148, R149, R151): an operand is the exact value of its
pattern, or none; a term is the greatest whole number of anchor units that does not exceed the exact product with its scales; a
sum is clamped to 48 bits, or wrapped to them; an element converts as its value or, void, as a non-number. -/
def Obligations.MatrixResults : Prop :=
  (∀ (s : State) (u : Nat) (c : Cmd) (rest : List Cmd), s.engineAt u .mx c rest → c.out = [] → wScope c.word ≤ 4 →
     let w := c.word
     let f := u / 256
     let ctx := s.ctxOf u
     let y := s.mac f (aMb w)
     let o := mxO c.mxcfg
     let osz := outSize o
     (wOpc w = 0x15 → c.phase = .queued → wf w 211 88 = 0 → o ≤ 4 → aRow w + aMn w ≤ 15 → sC0 w + sNcm w ≤ 255 →
       (aMn w = 0 ∨ (sNcm w + 1) * osz ≤ sDPitch w) → y.st = .stationary → y.owner = ctx →
       s.macroHeld u 0 (aMb w) = false →
       ∃ c', exec (.tacs u) s = .next (s.headed u .mx c' rest) ∧ c'.phase = .started ∧ c'.pos = 0 ∧ c'.out = []
         ∧ c'.status.toNat % 2 ^ 32 = (aMn w + 1) * (sNcm w + 1) * osz
         ∧ ∃ pieces : Nat → List (Nat × List Byte × List Nat),
             c'.todo = (List.range (aMn w + 1)).flatMap pieces ∧ (∀ x, x ∈ c'.todo → x.2.2 = [])
             ∧ ∀ i, i ≤ aMn w → piecesOf (pieces i) (wf w 63 0 + i * sDPitch w)
                 ((List.range (sNcm w + 1)).flatMap fun j =>
                   let e := y.accAt (aRow w + i) (sC0 w + j)
                   toBytes (mxConvert o c.fpctl e.a (y.anchorAt (aRow w + i)) e.void).1 osz))
     ∧ (∀ (d : Cmd) (more : List Cmd) (rows : List (List Byte)), rest = d :: more → c.phase = .queued → c.start ≠ none →
         c.wait = none → wOpc w ≠ 0x16 → wOpc d.word = 0x16 → d.phase = .queued → d.out = [] → tdotCheck d = none →
         s.fetchList f ctx (tdotRanges d) = ⟨s, rows, false, .none⟩ →
         ∃ d', exec (.tdot u) s = .next (s.headed u .mx c (d' :: more)) ∧ d'.phase = .started ∧ d'.out = []
           ∧ piecesOf d'.todo (wf d.word 191 128) (tdotResult d rows).1)
     ∧ (∀ rows, wOpc w = 0x16 → c.phase = .queued → tdotCheck c = none →
         s.fetchList f ctx (tdotRanges c) = ⟨s, rows, false, .none⟩ →
         let a := mxA c.mxcfg
         let b := mxB c.mxcfg
         let i := if c.sca = 0 then 0 else 1
         let j := if c.scb = 0 then 0 else 1
         let num (k n : Nat) : Nat := ofBytes (rows.getD ((2 + i + j) * k + n) [])
         let term (k : Nat) : Option Int :=
           mxTerm (operand a (fpFtz c.fpctl) (num k 0)) (operand b (fpFtz c.fpctl) (num k (i + 1)))
             (if c.sca = 0 then 0 else sint (num k 1) 8) (if c.scb = 0 then 0 else sint (num k (i + 2)) 8) (dAnchor w)
         let terms := (List.range (dLen w)).map term
         let r := mxConvert o c.fpctl (mxNarrow (mxOvf c.mxcfg) (terms.filterMap id).sum).1 (dAnchor w) (terms.any (·.isNone))
         (tdotRanges c = (List.range (dLen w)).flatMap fun k =>
           [(wf w 63 0 + opSize a * k, opSize a)]
             ++ (if c.sca = 0 then [] else [(c.sca.toNat + k / blockLen (mxAlen c.mxcfg), 1)])
             ++ [(wf w 127 64 + opSize b * k, opSize b)]
             ++ (if c.scb = 0 then [] else [(c.scb.toNat + k / blockLen (mxBlen c.mxcfg), 1)]))
         ∧ ∃ c', exec (.tdot u) s = .next (s.headed u .mx c' rest) ∧ c'.phase = .started ∧ c'.pos = 0 ∧ c'.out = []
           ∧ piecesOf c'.todo (wf w 191 128) (toBytes r.1 osz) ∧ c'.status.toNat % 256 = osz
           ∧ c'.status.getLsbD 9 = terms.any (·.isNone))
     ∧ (∀ p va data bad more i, wOpc w = 0x15 ∧ i = .tacs u ∨ wOpc w = 0x16 ∧ i = .tdot u → c.phase = .started →
         c.todo = (va, data, bad) :: more → s.writable u ctx va p →
         ∃ c', exec i s = .next (s.headed u .mx c' rest) ∧ c'.todo = more ∧ c'.status = c.status
           ∧ (∃ n, c'.out = [⟨va, ctx, p, data, bad, n⟩]) ∧ (c'.phase = .finished ↔ more = [])))
  ∧ (∀ (ftz void : Bool) (fpctl : Dword) (x a o : Nat) (m1 m2 e1 e2 sa sb anchor u : Int),
       let format : NFmt := match a with | 0 => .int8 | 1 => .cone8 | 2 => .cone6 | _ => .f16
       let out : NFmt := match o with | 0 => .f16 | 1 => .f32 | 2 => .int32 | 3 => .int8 | _ => .cone8
       let exp := e1 + e2 + sa + sb - anchor
       (∀ neg mag e, nfDecode format ftz x = .fin neg mag e → operand a ftz x = some (if neg then -(mag : Int) else mag, e))
       ∧ ((∀ neg mag e, nfDecode format ftz x ≠ .fin neg mag e) → operand a ftz x = none)
       ∧ (∃ t : Int, mxTerm (some (m1, e1)) (some (m2, e2)) sa sb anchor = some t
           ∧ ∀ k : Int, k ≤ 0 → k ≤ exp → t * 2 ^ (-k).toNat ≤ m1 * m2 * 2 ^ (exp - k).toNat
               ∧ m1 * m2 * 2 ^ (exp - k).toNat < (t + 1) * 2 ^ (-k).toNat)
       ∧ (∀ y, mxTerm none y sa sb anchor = none ∧ mxTerm y none sa sb anchor = none)
       ∧ (mxNarrow true u).1 = max (-(2 ^ 47)) (min (2 ^ 47 - 1) u) ∧ ((mxNarrow true u).2 = true ↔ (mxNarrow true u).1 ≠ u)
       ∧ -(2 ^ 47) ≤ (mxNarrow false u).1 ∧ (mxNarrow false u).1 < 2 ^ 47 ∧ ((mxNarrow false u).1 - u) % 2 ^ 48 = 0
       ∧ (mxNarrow false u).2 = false
       ∧ mxConvert o fpctl u anchor void = nfEncode out (fpRm fpctl) (fpFtz fpctl)
           (if void then .nan false else .fin (decide (u < 0)) u.natAbs anchor))

/-- TMM and TMMB (R148, R149, R180 to R184): with its checks passed and its operands read, every accumulator element of
the named rows becomes its old value plus the exact sum of its floored terms, wrapped or clamped to 48 bits, and VOID
where a term is a non-number; no other element, macro or byte changes; the status word tells of a clamp and of a non-
number. What an operand, a term and the narrowing of a sum are, MatrixResults says. -/
def Obligations.MatrixProduct : Prop :=
  ∀ (s : State) (u : Nat) (c : Cmd) (rest : List Cmd) (i : Instr) (tab : Option (List (Nat × Nat))) (A : Nat → Nat → Nat)
      (S : Nat → Nat → Byte),
    s.engineAt u .mx c rest → c.out = [] → c.phase = .queued → s.clean →
    let w := c.word
    let f := u / 256
    let ctx := s.ctxOf u
    let y := s.mac f (pMb w)
    let es := opSize (mxA c.mxcfg)
    let K := (pGn w + 1) * y.kst
    let la := blockLen (mxAlen c.mxcfg)
    s.mmCheck f ctx c = none → (∀ m, m ∈ mmGroup w → s.macroHeld u 0 m = false) →
    (wOpc w = 0x12 ∧ i = .tmm u ∧ tab = none
      ∨ wOpc w = 0x13 ∧ i = .tmmb u ∧ ∃ b l, s.reads u ctx (pBit w) (2 * pNb w) b ∧ l = tableOf b (pNb w) ∧ tab = some l
        ∧ ∀ x, x ∈ l → x.2 < ceilDiv K 32) →
    (∀ r k, r ≤ pMn w → k < K → mmUses tab k = true →
      (pAsrc w = true → A r k = bits (c.vcap.getD (es * k / 32) 0).toNat (8 * (es * k % 32) + 8 * es - 1) (8 * (es * k % 32)))
      ∧ (pAsrc w = false → A r k < 2 ^ (8 * es) ∧ s.reads u ctx (mmAddr w es y.kst r k) es (toBytes (A r k) es)
          ∧ s.outsideSpad f ctx (mmAddr w es y.kst r k) = false ∧ s.outsideSpad f ctx (mmAddr w es y.kst r k + es - 1) = false)
      ∧ (c.sca ≠ 0 → s.reads u ctx (c.sca.toNat + r * ceilDiv K la + k / la) 1 [S r k])) →
    let term (r col k : Nat) : Option Int :=
      let z := s.mac f (pMb w + k / y.kst)
      mxTerm (operand (mxA c.mxcfg) (fpFtz c.fpctl) (A r k))
        (operand y.bfmt (fpFtz c.fpctl) (weightAt s.mem f (pMb w + k / y.kst) y.bfmt (k % y.kst) col))
        (if c.sca = 0 then 0 else (S r k).toInt) (z.scaleAt col (k % y.kst / blockLen y.lb)).toInt (y.anchorAt (pArow w + r))
    let terms (r col : Nat) : List (Option Int) := ((List.range K).filter (mmHas tab · col)).map (term r col)
    let sum (r col : Nat) : Int × Bool :=
      mxNarrow (mxOvf c.mxcfg) ((y.accAt (pArow w + r) col).a + ((terms r col).filterMap id).sum)
    ∃ t st, exec i s = .next t ∧ t.slot u = (s.answered u .mx c rest st).slot u ∧ t.mem = s.mem
      ∧ (∀ r col, r ≤ pMn w → col < 256 → (t.mac f (pMb w)).accAt (pArow w + r) col
          = ⟨(sum r col).1, (y.accAt (pArow w + r) col).void || (terms r col).any (·.isNone)⟩)
      ∧ (∀ r col, r < 16 → col < 256 → r < pArow w ∨ pArow w + pMn w < r → (t.mac f (pMb w)).accAt r col = y.accAt r col)
      ∧ (∀ m, m ≠ pMb w → t.mac f m = s.mac f m)
      ∧ st.toNat < 4 ∧ (st.getLsbD 0 = true ↔ ∃ r col, r ≤ pMn w ∧ col < 256 ∧ (sum r col).2 = true)
      ∧ (st.getLsbD 1 = true ↔ ∃ r col, r ≤ pMn w ∧ col < 256 ∧ (terms r col).any (·.isNone) = true)

/-! ## The stream unit -/

/-- The eight stream commands (R190 to R200): a command that passes its checks writes its destination's L low bits, zeroes
the bits above them, unites the masks of its operands and answers the ones it wrote; SSEED loads a generator; SCNT
answers the ones of its operand and pushes the number. Reserved bits answer −1, another owner −4, a limit −8; a
correlated command answers −12, holds the queue and makes STREAM_CORR due; where one is due already, its word gives way to that
of the later command, which is the model's choice (log 69). -/
def Obligations.StreamCommands : Prop :=
  ∀ (s : State) (u : Nat) (c : Cmd) (rest : List Cmd) (i : Instr),
    s.working u = true → (s.slot u).bypass = [] → (s.slot u).hold = false → (s.slot u).ssq = c :: rest →
    (s.slot u).sso.length < 8 →
    (wOpc c.word, i) ∈ [(0x20, .sseed u), (0x21, .sgen u), (0x22, .sand u), (0x23, .sor u), (0x24, .smux u), (0x25, .snot u),
      (0x26, .sreg u), (0x27, .scnt u)] →
    let w := c.word
    let f := u / 256
    let ctx := s.ctxOf u
    let x := s.facet f
    let L := streamLen (stLen w)
    let a := x.opd c (stA w)
    let b := x.opd c (stB w)
    let z := x.opd c (stS w)
    let G := stG w
    let ones (g : Nat → Bool) (n : Nat) : Nat := (List.range n).countP g
    let answers (st : Dword) : Slot := ({ s.slot u with ssq := rest } : Slot).writeTok c.tok st
    let refused (st : Int) : Prop := ∃ t, exec i s = .next t ∧ t.slot u = answers (BitVec.ofInt 64 st) ∧ t.mem = s.mem
      ∧ (t.facet f).sregs = x.sregs ∧ (t.facet f).gens = x.gens
    let wrote (g : Nat → Bool) (mask : BitVec 16) : Prop :=
      ∃ (t : State) (r : BitVec 4096), exec i s = .next t ∧ t.slot u = answers (BitVec.ofNat 64 (ones g L)) ∧ t.mem = s.mem
        ∧ (t.facet f).sOwner = some ctx ∧ (t.facet f).sreg (stReg c (stD w)) = ⟨r, true, stLen w, mask⟩
        ∧ (∀ n, n ≠ stReg c (stD w) → (t.facet f).sreg n = x.sreg n)
        ∧ (∀ k, k < 4096 → r.getLsbD k = (decide (k < L) && g k))
        ∧ (∀ n, n ≠ G → (t.facet f).gen n = x.gen n)
        ∧ (wOpc w = 0x21 ∨ wOpc w = 0x26 → (t.facet f).gen G = lfsrStep^[L] (x.gen G))
        ∧ (wOpc w ≠ 0x21 → wOpc w ≠ 0x26 → (t.facet f).gen G = x.gen G)
    let drawn (v : Nat) (k : Nat) : Bool := decide ((lfsrStep^[k + 1] (x.gen G)).toNat % 4096 < v)
    let free := x.sOwner = none ∨ x.sOwner = some ctx
    (stReserved c = true → refused (-1))
    ∧ (stReserved c = false → ¬ free → refused (-4))
    ∧ (stReserved c = false → free → x.streamLimit c = true → refused (-8))
    ∧ (stReserved c = false → free → x.streamLimit c = false → x.correlated c = true →
        ∃ t, exec i s = .next t ∧ (t.slot u).hold = true ∧ (t.slot u).faultWord = w ∧ (t.slot u).ssq = rest
          ∧ (t.slot u).phys c.tok = (answers (BitVec.ofInt 64 (-12))).phys c.tok
          ∧ (∃ v, (t.slot u).dueCorr = some v ∧ bits v.toNat 63 48 = (x.xmask c).toNat ∧ bits v.toNat 39 32 = wOpc w)
          ∧ (t.facet f).sregs = x.sregs)
    ∧ (stReserved c = false → free → x.streamLimit c = false → x.correlated c = false →
        (wOpc w = 0x20 → ∃ t, exec i s = .next t ∧ t.slot u = answers 0
          ∧ (t.facet f).gen G = BitVec.ofNat 32 (stImm w) ∧ (t.facet f).sregs = x.sregs)
        ∧ (wOpc w = 0x21 → wrote (drawn (stImm w)) (1 <<< G))
        ∧ (wOpc w = 0x22 → wrote (fun k => a.bits.getLsbD k && b.bits.getLsbD k) (a.mask ||| b.mask))
        ∧ (wOpc w = 0x23 → wrote (fun k => a.bits.getLsbD k || b.bits.getLsbD k) (a.mask ||| b.mask))
        ∧ (wOpc w = 0x24 → wrote (fun k => if z.bits.getLsbD k then a.bits.getLsbD k else b.bits.getLsbD k)
            (a.mask ||| b.mask ||| z.mask))
        ∧ (wOpc w = 0x25 → wrote (fun k => !a.bits.getLsbD k) a.mask)
        ∧ (wOpc w = 0x26 → wrote (drawn (ones a.bits.getLsbD (streamLen a.len) * (4096 / streamLen a.len))) (1 <<< G))
        ∧ (wOpc w = 0x27 → ∃ t, exec i s = .next t
            ∧ t.slot u = ({ answers (BitVec.ofNat 64 (ones a.bits.getLsbD L)) with
                sso := (s.slot u).sso ++ [BitVec.ofNat 64 (ones a.bits.getLsbD L)] } : Slot)
            ∧ (t.facet f).sregs = x.sregs ∧ (t.facet f).gens = x.gens))

/-! ## The proximity index at its units -/

/-- INDEX_CREATE, INDEX_DELETE and INDEX_STATUS (R203, R209 to R211). A creation whose block and areas pass takes the lowest
free slot under its next generation and answers its handle, −14 when no slot is free; a deletion frees the slot under the next
generation, the handle is stale from then on, and each queued insert or search of the context that names it ends with −6; the
status word holds COUNT, the home unit, the walks in use, and INS while an insert is in progress. A handle that fails its check
answers the code of the first failure.

INSERT, ACCEPTANCE and IXO_PUSH (R205, R206, R212 to R215, R217). An insert that begins has its writes to make: a record with
the next stamp that names its nearest, the first M that its search of the COUNT nodes with the table behind those of the walks
has found, in key order, and the previous list of each of those that keeps it among its own M nearest; it makes them one by
one, and its commit answers the identity and keeps the turn of its release; a full index answers −13. An accepted walk takes
its snapshot. One that expands a member reads the list of its snapshot: it marks the member, and visits the neighbour that is
below the snapshot and not yet visited; without such a list it starts again, from the fifteenth time on with a hold of the
inserts. A walk without a member to expand pushes its records, padded with none records, one by one; the last one brings the
answer, whose token acquires the latest release below the snapshot, as a record acquires that of its identity. That an insert
makes its writes in several steps (log 33), what INS shows (log 34), which requests end with −6 (log 49), and the lowest free
walk slot (log 68) are the model's readings. -/
def Obligations.IndexUnits : Prop :=
  (∀ (s : State) (u k : Nat) (r : IxReq), s.requestAt u k r → r.phase = .queued →
     let c := s.ctxOf u
     let h := r.a.toNat
     let x := s.index (ixSlot h)
     let n := fun b : Nat => (b + 65535) / 65536
     let ends (i : Instr) (st : Int) : Prop :=
       ∃ t, exec i s = .next t ∧ t.slot u = (s.slot u).ixAnswered k r (BitVec.ofInt 64 st) ∧ t.mem = s.mem ∧ t.indexes = s.indexes
     (r.fn = 0 →
       (blkBad r.blk = true → ends (.indexCreate u k) (-8))
       ∧ (∀ st wk, s.sound → blkBad r.blk = false → s.areaPages (u / 256) c (pbSbase r.blk) (n (storageSize r.blk)) = (st, none) →
           s.areaPages (u / 256) c (pbWbase r.blk) (n (workSize r.blk)) = (wk, none) →
           (s.freeIndex = none → ends (.indexCreate u k) (-14))
           ∧ (∀ m, s.freeIndex = some m →
               let g := nextGen (s.index m).gen
               ∃ t, exec (.indexCreate u k) s = .next t
                 ∧ t.slot u = (s.slot u).ixAnswered k r (BitVec.ofNat 64 (2 * 2 ^ 48 + m * 2 ^ 20 + g))
                 ∧ t.index m = ⟨g, true, c, pbNw r.blk, pbHome r.blk, pbWb r.blk, pbMetric r.blk, pbM r.blk, pbD r.blk,
                     pbCap r.blk, st, wk, 0, [], [], false, []⟩
                 ∧ ∀ j, j ≠ m → t.index j = s.index j)))
     ∧ (r.fn = 1 → (∀ code, s.indexCheck c h = some code → ends (.indexDelete u k) (-code))
         ∧ (s.indexCheck c h = none → x.ins = false →
             ∃ t, exec (.indexDelete u k) s = .next t
               ∧ ((∀ q, q ∈ dropAt (s.slot u).ixq k → s.sameHandle r q = false) → t.slot u = (s.slot u).ixAnswered k r 0)
               ∧ (∀ v, (s.facet (v / 256)).ctx = some c →
                   (∀ q, q ∈ (t.slot v).ixq → q.a = r.a → q.fn = 2 ∨ q.fn = 3 → q.phase ≠ .queued)
                   ∧ ∀ q, v ≠ u → (s.slot v).ixq = [q] → q.a = r.a → q.fn = 2 ∨ q.fn = 3 → q.phase = .queued →
                       t.slot v = ({ s.slot v with ixq := [] } : Slot).writeTok q.tok (BitVec.ofInt 64 (-6)))
               ∧ (t.index (ixSlot h)).used = false ∧ (t.index (ixSlot h)).gen = nextGen x.gen
               ∧ t.indexCheck c h = some 5 ∧ ∀ j, j ≠ ixSlot h → t.index j = s.index j))
     ∧ (r.fn = 4 → (∀ code, s.indexCheck c h = some code → ends (.indexStatus u k) (-code))
         ∧ (s.indexCheck c h = none →
             ∃ t, exec (.indexStatus u k) s = .next t ∧ t.indexes = s.indexes ∧ t.mem = s.mem
               ∧ t.slot u = (s.slot u).ixAnswered k r (BitVec.ofNat 64
                   ((if x.ins then 2 ^ 47 else 0) + x.walks.length * 2 ^ 40 + x.home * 2 ^ 32 + x.count)))))
  ∧ (∀ (s : State) (u k : Nat) (r : IxReq) (p : Place), s.requestAt u k r → s.clean →
       let c := s.ctxOf u
       let i := ixSlot r.a.toNat
       let x := s.index i
       let q := s.rdLong 18 p x.d
       let ends (i : Instr) (st : Int) : Prop :=
         ∃ t, exec i s = .next t ∧ t.slot u = (s.slot u).ixAnswered k r (BitVec.ofInt 64 st) ∧ t.indexes = s.indexes
       (r.fn = 2 → r.phase = .queued → s.indexCheck c r.a.toNat = none → r.pv = some p → r.y.toNat % 65536 + x.d ≤ 65536 →
         x.ins = false → x.holds = [] →
         (x.count = x.cap → ends (.insert u k) (-13))
         ∧ (x.count ≠ x.cap → s.asleep p.pa = false →
             ∃ t r', exec (.insert u k) s = .next t ∧ (t.slot u).ixq[k]? = some r' ∧ r'.phase = .inserting ∧ r'.tok = r.tok
               ∧ t.index i = { x with ins := true } ∧ (∀ j, j ≠ i → t.index j = s.index j) ∧ (t.slot u).regs = (s.slot u).regs
               ∧ (x.count = 0 → r'.writes = [(0, newRecord x r.z q 1 [])])
               ∧ (let found := Walking.search x q x.nw x.wb x.count (x.count + 1) (s.searchStart x q x.nw x.wb x.count)
                  let near := found.cands.take x.m
                  (∀ e, e ∈ near → e.id < x.count)
                   ∧ near.Pairwise (fun a b => keyLt (b.dist, b.id) (a.dist, a.id) = false)
                   ∧ r'.writes = (x.count * x.rs, newRecord x r.z q (x.count + 1) (near.map (·.id)))
                       :: near.filterMap fun e =>
                         let y := t.node x e.id
                         let xIsCurrent : Prop := y.stampY < y.stampX
                         let ids := (t.nearest x y.vec (if xIsCurrent then y.idsX else y.idsY) (e.dist, x.count)).map (·.2)
                         if x.count ∈ ids then
                           some (e.id * x.rs + 8 + x.d + (if xIsCurrent then 8 + 4 * x.m else 0), listBytes (x.count + 1) x.m ids)
                         else none)))
       ∧ (r.fn = 2 → r.phase = .inserting →
           (r.writes = [] →
             ∃ t, exec (.insert u k) s = .next t ∧ t.slot u = (s.slot u).ixAnswered k r (BitVec.ofNat 64 x.count)
               ∧ t.index i = { x with count := x.count + 1, ins := false, rels := Tbl.set x.rels x.count r.rel }
               ∧ (∀ j, j ≠ i → t.index j = s.index j)
               ∧ t.mem = s.mem)
           ∧ (∀ o b more, r.writes = (o, b) :: more →
               ∃ t, exec (.insert u k) s = .next t ∧ t.indexes = s.indexes
                 ∧ t.slot u = { s.slot u with ixq := setAt (s.slot u).ixq k { r with writes := more } }
                 ∧ (o % 64 + b.length ≤ 64 → (areaPlace x.storage o).enc = none →
                     rdBytes t.mem (areaPlace x.storage o).pa b.length = b
                     ∧ ∀ y, y < (areaPlace x.storage o).pa ∨ (areaPlace x.storage o).pa + b.length ≤ y →
                       memGet t.mem y = memGet s.mem y)))
       ∧ (∀ w, r.fn = 3 → r.phase = .queued → s.indexCheck c r.a.toNat = none → r.pv = some p → ldnBad x r = false →
           w < x.nw → w ∉ x.walks → (∀ v, v < w → v ∈ x.walks) → s.asleep p.pa = false →
           ∃ t r', exec (.acceptance u k) s = .next t ∧ (t.slot u).ixq[k]? = some r' ∧ r'.phase = .walking ∧ r'.walkSlot = w
             ∧ r'.snap = x.count ∧ r'.query = q ∧ r'.nr = 0 ∧ r'.cands.length = (if x.count = 0 then 0 else 1)
             ∧ w ∈ (t.index i).walks ∧ (t.index i).count = x.count ∧ (t.slot u).regs = (s.slot u).regs)
       ∧ (∀ (m : Cand) (pre post : List Cand), r.fn = 3 → r.phase = .walking → r.cands = pre ++ m :: post →
           (∀ e, e ∈ pre → e.exp = true) → m.exp = false →
           let y := s.node x m.id
           let ids : Option (List Nat) :=
             if y.stampX ≤ r.snap ∧ (r.snap < y.stampY ∨ y.stampY < y.stampX) then some y.idsX
             else if y.stampY ≤ r.snap then some y.idsY else none
           (∀ l, ids = some l → (∀ j, j ∈ l → r.snap ≤ j ∨ s.visited x r.walkSlot j = true) →
             ∃ t, exec (.acceptance u k) s = .next t ∧ t.indexes = s.indexes ∧ t.mem = s.mem
               ∧ t.slot u = { s.slot u with ixq := setAt (s.slot u).ixq k { r with cands := markExp m.id r.cands } })
           ∧ (∀ l j, ids = some l → j ∈ l → j < r.snap → s.visited x r.walkSlot j = false →
               (∀ i, i ∈ l → i = j ∨ r.snap ≤ i ∨ s.visited x r.walkSlot i = true) →
               (∀ i, i ∈ l → (x.bitPlace r.walkSlot i).enc = none) →
               (∀ o, o < x.rs → (areaPlace x.storage (j * x.rs + o)).enc = none
                 ∧ (areaPlace x.storage (j * x.rs + o)).pa ≠ (x.bitPlace r.walkSlot j).pa) →
               let new : Cand := ⟨distance x.metric r.query (s.node x j).vec, j, false⟩
               let next : IxReq := { r with cands := addCand (ldnW r.z) (markExp m.id r.cands) new, vis := r.vis + 1 }
               ∃ t, exec (.acceptance u k) s = .next t ∧ t.indexes = s.indexes ∧ t.visited x r.walkSlot j = true
                 ∧ t.slot u = { s.slot u with ixq := setAt (s.slot u).ixq k next })
           ∧ (ids = none →
               ∃ t r', exec (.acceptance u k) s = .next t ∧ (t.slot u).ixq[k]? = some r' ∧ r'.phase = .walking
                 ∧ r'.nr = r.nr + 1 ∧ r'.snap = x.count ∧ r'.query = r.query ∧ r'.walkSlot = r.walkSlot
                 ∧ r'.vis = (if x.count = 0 then 0 else 1) ∧ (∀ e, e ∈ r'.cands → e.id = 0 ∧ e.exp = false)
                 ∧ r'.cands.length ≤ r'.vis ∧ (15 ≤ r.nr + 1 → r.walkSlot ∈ (t.index i).holds)
                 ∧ (r.nr + 1 < 15 → (t.index i).holds = x.holds) ∧ (t.index i).count = x.count
                 ∧ (t.slot u).regs = (s.slot u).regs))
       ∧ (r.fn = 3 → r.phase = .walking → (∀ e, e ∈ r.cands → e.exp = true) →
           ∃ t r', exec (.acceptance u k) s = .next t ∧ (t.slot u).ixq[k]? = some r' ∧ r'.phase = .pushing ∧ r'.push = 0
             ∧ r'.recs.length = ldnK r.z
             ∧ (∀ j e, j < ldnK r.z → r.cands[j]? = some e →
                 r'.recs.getD j ⟨0, 0, 0⟩ = ⟨BitVec.ofNat 64 (e.id * 2 ^ 32 + (e.dist % 2 ^ 32).toNat), (s.node x e.id).payload,
                   Tbl.get 0 x.rels e.id⟩)
             ∧ (∀ j, r.cands.length ≤ j → j < ldnK r.z → r'.recs.getD j ⟨0, 0, 0⟩ = ⟨0xFFFFFFFF7FFFFFFF, 0, 0⟩)
             ∧ (∀ e, e ∈ x.rels → e.1 < r.snap → e.2 ≤ r'.rel)
             ∧ (r'.rel = 0 ∨ ∃ e, e ∈ x.rels ∧ e.1 < r.snap ∧ e.2 = r'.rel)
             ∧ r.walkSlot ∉ (t.index i).walks ∧ (t.slot u).regs = (s.slot u).regs)
       ∧ (r.fn = 3 → r.phase = .pushing → (s.slot u).ixo.length < 8 →
           let t1 : Slot := { s.slot u with ixo := (s.slot u).ixo ++ [r.recs.getD r.push noneRec] }
           (r.push + 1 < ldnK r.z → exec (.ixoPush u k) s = .next (s.setSlot u { t1 with
               ixq := setAt t1.ixq k { r with push := r.push + 1 } }))
           ∧ (ldnK r.z ≤ r.push + 1 → exec (.ixoPush u k) s = .next (s.setSlot u (({ t1 with
               early := t1.early.map fun e => if e.born < r.rel then { e with behind := insertNat r.tok e.behind } else e } :
                 Slot).ixAnswered k r (BitVec.ofNat 64 (r.snap + min r.vis (2 ^ 27 - 1) * 2 ^ 32
                   + min r.nr 15 * 2 ^ 59)))))))
  ∧ (∀ (x : IndexSlot) (p : Dword) (v : List Byte) (st : Nat) (ids : List Nat), v.length = x.d → st < 2 ^ 32 →
       ids.length ≤ x.m → x.m < 2 ^ 32 → (∀ i, i ∈ ids → i < 2 ^ 32) →
       (newRecord x p v st ids).length = x.rs ∧ nodeOf (newRecord x p v st ids) x.d x.m = ⟨p, v, st, ids, 0, []⟩)
  ∧ (∀ (m : Nat) (a b : Byte) (q v : List Byte),
       distance m [] v = 0 ∧ distance 0 (a :: q) (b :: v) = (a.toInt - b.toInt) * (a.toInt - b.toInt) + distance 0 q v
         ∧ distance 1 (a :: q) (b :: v) = -(a.toInt * b.toInt) + distance 1 q v)
  ∧ (∀ (w : Nat) (l : List Cand) (e : Cand),
       ∃ pre post, l = pre ++ post ∧ addCand w l e = (pre ++ e :: post).take w
         ∧ (∀ y, y ∈ pre → keyLt (e.dist, e.id) (y.dist, y.id) = false)
         ∧ ∀ y, post.head? = some y → e.dist < y.dist ∨ e.dist = y.dist ∧ e.id < y.id)
  ∧ (∀ (s : State) (x : IndexSlot) (v : List Byte) (ids : List Nat) (new : Int × Nat),
       let all := (ids.map fun i => (distance x.metric v (s.node x i).vec, i)) ++ [new]
       ∃ rest, (s.nearest x v ids new ++ rest).Perm all ∧ (s.nearest x v ids new).length = min x.m all.length
         ∧ (s.nearest x v ids new ++ rest).Pairwise fun a b => keyLt b a = false)

/-! ## Walks, invalidations, code publication -/

/-- WALK and WALK_RESULT (R73 to R75): the oldest queued walk starts while fewer than 64 run; a walk that found a leaf
fills the cache of the facet that asked, so that the page translates there and its miss entry is free; a walk that
faulted hands the fault to the instruction that waited for the page. XINV is busy from its write until
INVALIDATION_DONE has taken the last one away, with every cache entry of the page, and nothing read ahead of a load through
the page is kept (R77). CODEPUB_REQUEST drops the lines of its range and answers its length (R291). -/
def Obligations.WalksAndInvalidations : Prop :=
  ∀ (s : State) (w j k f u : Nat) (r : Walk) (rest : List Walk) (v : Dword) (vs : List Dword) (q : CodeReq),
    ((s.walker w).queued = r :: rest → (s.walker w).running.length < 64 → s.sound →
      exec (.walk w) s = .next (s.setWalker w
        ⟨(s.walker w).running ++ [{ r with result := s.walkTable r.ctx r.page }], rest⟩))
    ∧ ((s.walker w).running[j]? = some r → r.facets = [f] → r.drop = false →
        (∀ big leaf va, r.result = .leaf big leaf → s.xinv = [] → va / 65536 = r.page → (s.facet f).tlb.length < 512 →
          (s.facet f).lookup r.ctx va = none →
          (∀ o, o ∈ (s.facet f).tlb → ¬ (o.ctx = r.ctx ∧ o.big = big ∧ o.page = r.page * 65536 / (if big then 2 ^ 21 else 2 ^ 16))) →
          ∃ t e, exec (.walkResult w j) s = .next t ∧ (t.facet f).lookup r.ctx va = some e ∧ e.big = big ∧ e.leaf = leaf
            ∧ (t.facet f).miss.contains ⟨r.ctx, r.page⟩ = false ∧ t.mem = s.mem)
        ∧ (r.result = .fault → u / 256 = f → s.ctxOf u = r.ctx → (s.facet f).ctx = some r.ctx → (s.slot u).wait = some r.page →
            ∃ t, exec (.walkResult w j) s = .next t ∧ (t.slot u).xf = some ⟨r.page, 0x04⟩ ∧ (t.slot u).wait = none
              ∧ (t.slot u).regs = (s.slot u).regs ∧ (t.slot u).pc = (s.slot u).pc ∧ t.mem = s.mem
              ∧ (t.facet f).miss.contains ⟨r.ctx, r.page⟩ = false))
    ∧ (∃ t, exec (.xinv v) s = .next t ∧ t.cread .xstat = 1 ∧ t.xinv = s.xinv ++ [v &&& 0x00FFFFFFFFFFC1FF]
        ∧ t.mem = s.mem ∧ t.slots = s.slots)
    ∧ (s.xinv = v :: vs → s.xinvWaits v = false →
        ∃ t, exec .invalidationDone s = .next t ∧ t.xinv = vs ∧ (vs = [] → t.cread .xstat = 0)
          ∧ (∀ g e, e ∈ (t.facet g).tlb → e.named v = false ∧ e ∈ (s.facet g).tlb)
          ∧ (∀ g e, e ∈ (s.facet g).tlb → e.named v = false → e ∈ (t.facet g).tlb)
          ∧ ∀ g, ∃ es : List Early, (∀ e, e ∈ es → e ∈ (s.slot g).early ∧ xinvCovers v (s.ctxOf g) e.va = false)
            ∧ t.slot g = { s.slot g with early := es })
    ∧ (s.codeReqs[k]? = some q → q.parked = false → (s.ctx q.ctx).st = .running → q.n ≤ 2 ^ 32 → s.sound →
        (s.slot q.slot).codeHeld (q.slot / 4) q.seq (fun _ => true) = false →
        ∀ l, s.codePieces (q.slot / 256) q.ctx (pagePieces q.va q.n) = (l, none) →
        ∃ t, exec (.codepubRequest k) s = .next t ∧ t.codeReqs = dropAt s.codeReqs k ∧ t.mem = s.mem
          ∧ t.slot q.slot = (s.slot q.slot).writeTok q.tok (BitVec.ofNat 64 q.n)
          ∧ (q.n ≠ 0 → ∀ g y, y ∈ (t.core g).icache → y ∈ (s.core g).icache ∧ ∀ x, x ∈ l → meets x.1 x.2 y.pa 64 = false))

/-! ## Control registers with effects of their own -/

/-- REGION_LEN and CLAIMED (R78 to R80): a write of a nonzero length by the owner of a claimed free descriptor creates the
region under the next generation; a write of 0 revokes it, frees the descriptor and makes its handles stale; a claim of an
unclaimed descriptor by its own identity succeeds, and the owner's later write of that doubleword changes PERM alone; a write
by another context changes nothing. That a length which is no multiple of 64 KiB is stored as written is the model's choice
(log 56); that a write of 0 to a claimed free descriptor steps GEN, and that a creation by the apex sets CLAIMED, are its
inferences (log 35). -/
def Obligations.RegionDescriptors : Prop :=
  ∀ (s : State) (c n : Nat) (v : Dword),
    let x := s.region n
    let t := s.setRegion n
    (x.claimed = true → x.owner = c →
      (v ≠ 0 → x.len = 0 → exec (.regionLen (some c) n v) s = .next (t { x with len := v.toNat, gen := nextGen x.gen }))
      ∧ (v = 0 → exec (.regionLen (some c) n v) s = .next (t ⟨0, 0, 0, false, 0, nextGen x.gen⟩))
      ∧ (v = 0 → ∀ h, hSlot h = n → hGen h = x.gen → ∀ s', exec (.regionLen (some c) n v) s = .next s' → s'.staleRegion h = true))
    ∧ (¬ (x.claimed = true ∧ x.owner = c) → exec (.regionLen (some c) n v) s = .next s)
    ∧ (v ≠ 0 → x.len = 0 → exec (.regionLen none n v) s
        = .next (t { x with len := v.toNat, gen := nextGen x.gen, claimed := true }))
    ∧ (bits v.toNat 8 0 = c → x.claimed = false →
        exec (.claimed (some c) n v) s = .next (t { x with perm := bits v.toNat 11 10, owner := c, claimed := true }))
    ∧ (bits v.toNat 8 0 = c → x.claimed = true → x.owner = c →
        exec (.claimed (some c) n v) s = .next (t { x with perm := bits v.toNat 11 10 }))
    ∧ (bits v.toNat 8 0 ≠ c ∨ x.claimed = true ∧ x.owner ≠ c → exec (.claimed (some c) n v) s = .next s)

/-- CANCEL, RETCFG, REL and the kill and pre-emption bits (R95, R117, R202, R281, R296, R302, R325): cancelling an armed
barrier disarms it and answers −10 with the bytes counted; RETCFG sets the idle count; REL frees a quiet stream unit, and the
holds and fault records of its facet's slots are as after a reset; PREEMPT halts a running context; KILL ends a context and its
hold of every facet; FREE makes a killed context free and erases its keys, and where no delivery through them is outstanding of
which a later byte has been written, it moves no byte; that such a delivery performs first is the model's inference (log 64).
Each of them has no effect on an object in another state.

An event comes to an error log (R303): one that repeats the address of a valid entry, neither being a kill, counts there and
changes no other entry; any other takes a free entry, its COUNT what the event gives, the next one first (which is log 19's
choice, as is a first COUNT of 1), and moves the next index on; with 32 valid entries it counts as lost. An entry with a
context whose ERRH is valid and names a core of its set is reported there, where the event is one of those that are (R302): a
high-priority message with the entry's two doublewords and its address. -/
def Obligations.ControlWrites : Prop :=
  (∀ (s : State) (f b c : Nat) (v : Dword),
    let y := (s.facet f).bar b
    (b < 32 → v.getLsbD 0 = true → y.armed = true →
      ∃ t, exec (.cancel f b v) s = .next t ∧ ((t.facet f).bar b).armed = false ∧ t.mem = s.mem
        ∧ t.slot y.slot = (s.slot y.slot).writeTok y.tok (BitVec.ofInt 64 (-((10 + 256 * (y.total - y.count) : Nat) : Int)))
        ∧ (∀ u, u ≠ y.slot → t.slot u = s.slot u) ∧ ∀ n, n ≠ b → (t.facet f).bar n = (s.facet f).bar n)
    ∧ (b < 32 → v.getLsbD 0 = false ∨ y.armed = false → exec (.cancel f b v) s = .next s)
    ∧ (∃ t, exec (.retcfg f v) s = .next t ∧ (t.facet f).idle.toNat = v.toNat % 2 ^ 32 ∧ t.mem = s.mem ∧ t.slots = s.slots)
    ∧ (v.getLsbD 62 = true → s.streamsQuiet f = true →
        ∃ t, exec (.rel f v) s = .next t ∧ (t.facet f).sOwner = none ∧ (∀ n, (t.facet f).sreg n = SReg.reset)
          ∧ (∀ n, (t.facet f).gen n = 0) ∧ t.mem = s.mem ∧ (∀ g, g ≠ f → t.facet g = s.facet g)
          ∧ ∀ u, t.slot u = if u / 256 = f then { s.slot u with hold := false, faultWord := 0, faultWin := 0 } else s.slot u)
    ∧ (v.getLsbD 62 = false ∨ s.streamsQuiet f = false → exec (.rel f v) s = .next s)
    ∧ ((s.ctx c).st = .running → exec (.preempt c) s = .next (s.setCtx c { s.ctx c with halt := true }))
    ∧ ((s.ctx c).st ≠ .running → exec (.preempt c) s = .next s)
    ∧ ((s.ctx c).st = .running ∨ (s.ctx c).st = .switchedOut →
        ∃ t, exec (.kill c) s = .next t ∧ (t.ctx c).st = .killed ∧ (t.ctx c).kcode = 0 ∧ (∀ g, (t.facet g).ctx ≠ some c)
          ∧ (∀ p, p ∈ t.msgs → p.ctx ≠ some c) ∧ ((s.ctx c).st = .running →
            ∀ w, w / 256 ∈ (s.ctx c).set → (t.slot w).busy = false ∧ (t.slot w).sbuf = []))
    ∧ ((s.ctx c).st = .free ∨ (s.ctx c).st = .killed → exec (.kill c) s = .next s)
    ∧ ((s.ctx c).st = .killed →
        ∃ t, exec (.free c) s = .next t ∧ (t.ctx c).st = .free ∧ (t.ctx c).kcode = 0 ∧ t.keySlot c = none
          ∧ (∀ d, d ≠ c → t.keySlot d = s.keySlot d ∧ t.ctx d = s.ctx d)
          ∧ (s.keyedDeliv c = none → s.keyedPiece c = none → t.mem = s.mem ∧ t.slots = s.slots ∧ t.bulks = s.bulks))
    ∧ ((s.ctx c).st ≠ .killed → exec (.free c) s = .next s))
  ∧ (∀ (s : State) (a : LogAt) (kind count addr : Nat) (ctx : Option Nat) (toCtx : Bool),
      kind < 256 → count < 2 ^ 32 → addr < 2 ^ 64 → (∀ c, ctx = some c → c < 512) →
      let l := s.log a
      let t := s.logEvent a kind ctx count addr toCtx
      let m := t.log a
      let kindOf (i : Nat) : Nat := (l.entry i).1.toNat / 2 ^ 48 % 256
      let repeats (i : Nat) : Prop := kind ≠ 11 ∧ l.valid i = true ∧ (l.entry i).2.toNat = addr ∧ kindOf i ≠ 11
      let sent (i : Nat) (c : Nat) : List Packet :=
        let errh := (s.ctx c).errh.toNat
        if toCtx ∧ errh / 2 ^ 63 = 1 ∧ coreIn (s.facetSet c) (errh / 2 ^ 18 % 2 ^ 18) = true then
          [⟨none, none, some c, true, ⟨⟨BitVec.ofNat 64 (2 ^ 18 + errh % 2 ^ 16), #v[(m.entry i).1, (m.entry i).2,
            BitVec.ofNat 64 (a.entryAddr i), 0, 0, 0, 0]⟩, false⟩, .core (errh / 2 ^ 18 % 2 ^ 18), none, false⟩]
        else []
      t.mem = s.mem ∧ t.slots = s.slots
      ∧ ((∃ i, i < 32 ∧ repeats i) →
          ∃ i, i < 32 ∧ repeats i ∧ m.next = l.next ∧ m.lost = l.lost ∧ (∀ j, j ≠ i → m.entry j = l.entry j)
            ∧ (m.entry i).2 = (l.entry i).2
            ∧ (m.entry i).1.toNat / 2 ^ 32 = (l.entry i).1.toNat / 2 ^ 32
            ∧ (m.entry i).1.toNat % 2 ^ 32 = ((l.entry i).1.toNat % 2 ^ 32 + 1) % 2 ^ 32
            ∧ t.msgs = s.msgs ++ (if (l.entry i).1.getLsbD 41 then [] else sent i ((l.entry i).1.toNat / 2 ^ 32 % 512)))
      ∧ ((∀ i, i < 32 → ¬ repeats i) → (∃ i, i < 32 ∧ l.valid i = false) →
          ∃ n, n < 32 ∧ (∀ j, j < n → l.valid ((l.next + j) % 32) = true) ∧ l.valid ((l.next + n) % 32) = false
            ∧ (let i := (l.next + n) % 32
              m.next = (i + 1) % 32 ∧ m.lost = l.lost ∧ (∀ j, j ≠ i → m.entry j = l.entry j)
              ∧ (m.entry i).1 = BitVec.ofNat 64 (2 ^ 63 + kind * 2 ^ 48 + (ctx.map (· * 2 ^ 32)).getD (2 ^ 41) + count)
              ∧ (m.entry i).2 = BitVec.ofNat 64 addr
              ∧ (∀ c, ctx = some c → t.msgs = s.msgs ++ sent i c) ∧ (ctx = none → t.msgs = s.msgs)))
      ∧ ((∀ i, i < 32 → ¬ repeats i) → (∀ i, i < 32 → l.valid i = true) →
          m.entries = l.entries ∧ m.next = l.next ∧ m.lost = (l.lost + 1) % 2 ^ 16 ∧ t.msgs = s.msgs))

/-! ## Launches, arrivals, dispatch -/

/-- LQCTL, LAUNCH and LAUNCH_FORWARD (R272, R273, R332): setting VALID takes the queue's context and priority, points
CURSOR at the first core of its mask, makes a free context switched out, and sends the launches that images hold for the queue
(R321, log 44; that CURSOR is 0 with an empty mask is log 87's choice); clearing it drains what is held. A launch
that arrives at a valid queue with room is held there, and one at a queue without VALID is discarded with KIND 10 (a first
event counts 1, the model's choice, log 19); the
oldest one goes to the core that CURSOR names, with the queue's priority, where its mailbox has room, and CURSOR moves on.
A launch that was sent while its queue stood frozen is discarded even where VALID is 1 again (R331; that the moment of
sending decides is the model's reading, log 53). -/
def Obligations.LaunchQueues : Prop :=
  ∀ (s : State) (q k : Nat) (v : Dword) (p : Packet) (l : LaunchMsg) (ls : List LaunchMsg),
    let x := s.queue q
    let c := bits v.toNat 8 0
    (x.valid = false → v.getLsbD 63 = true →
      ∃ t, exec (.lqctl q v) s = .next t ∧ t.queue q = { x with
          valid := true, drain := false, ctx := c, pri := v.getLsbD 16, cursor := 64 * x.facets.headD 0 }
        ∧ (t.ctx c).st = (if (s.ctx c).st = .free then .switchedOut else (s.ctx c).st) ∧ t.mem = s.mem ∧ t.slots = s.slots
        ∧ t.msgs = s.msgs ++ ((s.unsent.filter fun y => y.1 = q).map fun y => Packet.own none false ⟨y.2, false⟩ (.queue q))
        ∧ (∀ y, y ∈ t.unsent ↔ y ∈ s.unsent ∧ y.1 ≠ q))
    ∧ (x.valid = true → v.getLsbD 63 = false →
        exec (.lqctl q v) s = .next (s.setQueue q { x with valid := false, drain := decide (x.held ≠ []) }))
    ∧ (s.msgs[k]? = some p → p.dest = .queue q → Packet.behind s.msgs k p = false → x.valid = false ∨ p.frozen = true →
        exec (.launch k) s = .next ((s.settlePacket k p).logEvent .device 10 p.ctx 1 (lqctlAddr q) true))
    ∧ (s.msgs[k]? = some p → p.dest = .queue q → Packet.behind s.msgs k p = false → x.valid = true → x.facets ≠ [] →
        p.frozen = false → x.held.length < 64 →
        ∃ t, exec (.launch k) s = .next t ∧ t.queue q = { x with held := x.held ++ [⟨p.held.msg, p.ctx⟩] }
          ∧ t.msgs = dropAt s.msgs k ∧ t.mem = s.mem)
    ∧ (x.held = l :: ls → (s.ctx x.ctx).st = .running → coreIn (s.ctx x.ctx).set x.cursor = true →
        (s.core x.cursor).ring x.pri = [] → ((s.core x.cursor).box x.pri).length < boxDepth x.pri →
        ∃ t, exec (.launchForward q) s = .next t
          ∧ (t.core x.cursor).box x.pri = (s.core x.cursor).box x.pri ++ [⟨{ l.msg with hdr := withPri l.msg.hdr x.pri }, false⟩]
          ∧ (t.queue q).held = ls ∧ (t.queue q).cursor = nextCore x.facets x.cursor ∧ t.mem = s.mem)

/-- MESSAGE_ARRIVAL (R246 to R250, R314, R316, R318, R335): a message at a core of its context's set with room enters the
mailbox of its priority behind the others, and its sender's allowance grows by one; at a vertex unit it goes on to the core
of the rotation, which moves to the next one, and keeps its place among the messages of its slot to that unit; one for
another device goes to the fabric where a route leads there, and the sender's unit stays owed until that device has
accepted it; one for a device that was declared unreachable is lost. -/
def Obligations.MessageArrivals : Prop :=
  (∀ (s : State) (k g c v d : Nat) (p : Packet) (word : Dword), s.msgs[k]? = some p → Packet.behind s.msgs k p = false →
    p.ctx = some c →
    (p.dest = .core g → (s.ctx c).st = .running → coreIn (s.ctx c).set g = true → (s.core g).ring p.pri = [] →
      ((s.core g).box p.pri).length < boxDepth p.pri →
      ∃ t, exec (.messageArrival k) s = .next t ∧ (t.core g).box p.pri = (s.core g).box p.pri ++ [p.held]
        ∧ t.msgs = dropAt s.msgs k ∧ t.mem = s.mem ∧ (∀ h, h ≠ g → t.core h = s.core h)
        ∧ (∀ u, p.src = some u → (s.facet (u / 256)).ctx = some c → (t.slot u).allow = min 32 ((s.slot u).allow + 1)))
    ∧ (p.dest = .unit v → c < 512 → s.unitChoice c v ≠ [] →
        let h := s.pointed c v
        ∃ t, exec (.messageArrival k) s = .next t ∧ t.msgs = setAt s.msgs k { p with dest := .core h, via := some v }
          ∧ coreIn (s.unitChoice c v) h = true ∧ t.pointed c v = nextCore (s.unitChoice c v) h ∧ t.slots = s.slots
          ∧ t.mem = s.mem)
    ∧ (p.dest = .far d word → d ∉ s.unreachable → s.unrouted d = false →
        ∃ t, exec (.messageArrival k) s = .next t ∧ t.fabricOut = s.fabricOut ++ [p] ∧ t.msgs = dropAt s.msgs k
          ∧ t.mem = s.mem ∧ t.slots = s.slots ∧ t.owed = s.owed ++ [p])
    ∧ (p.dest = .far d word → d ∉ s.unreachable → s.unrouted d = true → exec (.messageArrival k) s = .next s)
    ∧ (p.dest = .far d word → d ∈ s.unreachable →
        exec (.messageArrival k) s = .next ((s.settlePacket k p).lose (some c))))
  ∧ (∀ (s : State) (j c : Nat) (p : Packet) (sch : List Turn), s.owed[j]? = some p → p.ctx = some c → s.power = .up →
      s.schedule = .accepted j :: sch →
      ∃ t, step s = .next t ∧ t.owed = dropAt s.owed j ∧ t.mem = s.mem ∧ t.msgs = s.msgs
        ∧ ∀ u, p.src = some u → (s.facet (u / 256)).ctx = some c → (t.slot u).allow = min 32 ((s.slot u).allow + 1))

/-- DISPATCH (R22, R253, R276): the oldest high message starts a task on a free S3; else the oldest low one, and without
one the newest record of the deque, on the lowest free slot below S3. The task has the header in s24, the arguments in
s25 to s31, zero in its other registers, in every vector, predicate and matrix register, in FPCTL, MXCFG, SCA, SCB and
SWIN, no pending register, the message's keys, and starts where its handler's entry or its resume word says. A record
whose keys are not granted goes to acquisition instead, from either mailbox and from the deque, and no slot changes. -/
def Obligations.Dispatching : Prop :=
  ∀ (s : State) (g c u : Nat) (h : Held) (hs : List Held) (p : Place), s.working (4 * g) = true → s.ctxOf (4 * g) = c →
    let k := s.core g
    let m := h.msg
    let hdr := m.hdr.toNat
    let plain := m.keyList = [] ∨ h.grant = true
    let va := (k.htab + BitVec.ofNat 64 (8 * hdrHandler hdr)).toNat
    let entry := s.rdNat p 8
    let starts (n : Nat) (pc : Dword) (gone : State → Prop) : Prop :=
      ∃ t, exec (.dispatch g) s = .next t ∧ gone t ∧ (t.slot n).busy = true ∧ (t.slot n).sup = false ∧ (t.slot n).pc = pc
        ∧ (t.slot n).s 24 = m.hdr ∧ (∀ i, i < 7 → (t.slot n).s (25 + i) = m.args.getD i 0)
        ∧ (∀ i, i < 24 → (t.slot n).s i = 0) ∧ (t.slot n).pend = [] ∧ (t.slot n).allow = 32 ∧ t.mem = s.mem
        ∧ (∀ i, (t.slot n).vreg i = 0) ∧ (t.slot n).p = Vector.replicate 7 0 ∧ (t.slot n).m = Vector.replicate 8 0
        ∧ (t.slot n).fpctl = 0 ∧ (t.slot n).mxcfg = 0 ∧ (t.slot n).sca = 0 ∧ (t.slot n).scb = 0 ∧ (t.slot n).swin = 0
        ∧ (t.slot n).keys = m.keyList ∧ (t.slot n).hdr = m.hdr ∧ (t.slot n).start = false
    let runs (n : Nat) (gone : State → Prop) : Prop :=
      (hdrCont hdr = true → starts n (BitVec.ofNat 64 (4 * hdrResume hdr)) gone)
      ∧ (hdrCont hdr = false → s.xlateAgain (g / 64) c .load true va = .ok p → va % 8 = 0 → s.latent = [] →
          s.poisoned p.pa 8 = false → entry ≠ 0 → entry < 2 ^ 56 → entry % 4 = 0 → starts n (BitVec.ofNat 64 entry) gone)
    let lows := u < 3 ∧ (s.slot (4 * g + u)).busy = false ∧ (∀ n, n < u → (s.slot (4 * g + n)).busy = true)
        ∧ ((s.slot (4 * g + 3)).busy = true ∨ k.high = [])
    let acquires (gone : State → Prop) : Prop :=
      ∃ t, exec (.dispatch g) s = .next t ∧ gone t ∧ t.keyReqs = s.keyReqs ++ [⟨g, c, h, [], m.keyList⟩]
        ∧ t.slots = s.slots ∧ t.mem = s.mem
    ((s.slot (4 * g + 3)).busy = false → k.high = h :: hs → k.highRing = [] → plain →
      runs (4 * g + 3) fun t => (t.core g).high = hs ∧ (t.core g).low = k.low)
    ∧ ((s.slot (4 * g + 3)).busy = false → k.high = h :: hs → k.highRing = [] → ¬ plain →
        acquires fun t => (t.core g).high = hs ∧ (t.core g).low = k.low)
    ∧ (lows → k.low = h :: hs → k.lowRing = [] → plain →
        runs (4 * g + u) fun t => (t.core g).low = hs ∧ (t.core g).deque = k.deque)
    ∧ (lows → k.low = h :: hs → k.lowRing = [] → ¬ plain →
        acquires fun t => (t.core g).low = hs ∧ (t.core g).deque = k.deque)
    ∧ (lows → k.low = [] → k.dqRing = [] → k.deque = hs ++ [h] → plain →
        runs (4 * g + u) fun t => (t.core g).deque = hs ∧ (t.core g).low = [])
    ∧ (lows → k.low = [] → k.dqRing = [] → k.deque = hs ++ [h] → ¬ plain →
        acquires fun t => (t.core g).deque = hs ∧ (t.core g).low = [])

/-! ## Steals, keys, joins -/

/-- STEAL_REQUEST, STEAL, STEAL_REPLY and STEAL_WAIT_EXPIRY (R255, R278, R279): a thief steps its generator and asks the
victim it names; the victim answers its oldest request with its oldest record, with the upper half of a splittable
range, or with nothing, the half of a record with a join behind its increment; a record ends on the thief's deque and
resets its wait, an empty answer starts the wait and doubles the next. -/
def Obligations.Steals : Prop :=
  ∀ (s : State) (g thief : Nat) (more : List Nat) (x : Held) (xs : List Held),
    let k := s.core g
    let set := (s.ctx (s.ctxOf (4 * g))).set
    let lo := (x.msg.arg 1).toNat
    let hi := (x.msg.arg 2).toNat
    let mid := lo + (hi - lo) / 2
    (s.working (4 * g) = true → s.mayRequest g set = true →
      let gen := lfsrStep k.gen
      let v := victimOf set g gen
      ∃ t, exec (.stealRequest g) s = .next t ∧ (t.core g).gen = gen ∧ (t.core g).stealing = some v
        ∧ (t.core v).thieves = (s.core v).thieves ++ [g] ∧ t.slots = s.slots ∧ t.mem = s.mem)
    ∧ (s.working (4 * g) = true → k.thieves = thief :: more → thief ≠ g → k.dqRing = [] →
        let answers (r : Option Held) (left : List Held) : Prop :=
          ∃ t, exec (.steal g) s = .next t ∧ (t.core thief).reply = some r ∧ (t.core g).deque = left
            ∧ (t.core g).thieves = more ∧ t.slots = s.slots ∧ t.mem = s.mem
        (k.deque = [] → answers none [])
        ∧ (k.deque = x :: xs → x.msg.splitAt = none → answers (some x) xs)
        ∧ (k.deque = x :: xs → hdrRange x.msg.hdr.toNat = true → lo < hi → hdrGrain x.msg.hdr.toNat < 63 →
            2 ^ hdrGrain x.msg.hdr.toNat ≤ (hi - lo) / 2 →
            ∃ keep half : Held, keep.msg.hdr = x.msg.hdr ∧ half.msg.hdr = x.msg.hdr
              ∧ (keep.msg.arg 1).toNat = lo ∧ (keep.msg.arg 2).toNat = mid ∧ (half.msg.arg 1).toNat = mid
              ∧ (half.msg.arg 2).toNat = hi ∧ (∀ n, 3 ≤ n → n ≤ 7 → keep.msg.arg n = x.msg.arg n ∧ half.msg.arg n = x.msg.arg n)
              ∧ (hdrJoin x.msg.hdr.toNat = false → answers (some half) (keep :: xs))
              ∧ (∀ p, hdrJoin x.msg.hdr.toNat = true → s.sound → s.joinCheck (g / 64) (s.ctxOf (4 * g)) x.msg.joinRef = .ok p →
                  ∃ t, exec (.steal g) s = .next t ∧ (t.core g).deque = keep :: xs ∧ (t.core g).thieves = more
                    ∧ t.incrs = s.incrs ++ [⟨s.ctxOf (4 * g), p.pa, thief, half⟩] ∧ t.mem = s.mem)))
    ∧ (k.reply = some (some x) → k.deque.length < 32 →
        ∃ t, exec (.stealReply g) s = .next t ∧ (t.core g).deque = k.deque ++ [x] ∧ (t.core g).stealing = none
          ∧ (t.core g).reply = none ∧ (t.core g).nextWait = 64 ∧ t.mem = s.mem)
    ∧ (k.reply = some none →
        exec (.stealReply g) s = .next (s.setCore g { k with
          reply := none, stealing := none, backoff := k.nextWait, nextWait := min 4096 (2 * k.nextWait) }))
    ∧ exec (.stealWaitExpiry g) s = .next (s.setCore g { k with backoff := 0 })

/-- KEY_REQUEST and KEY_RELEASE (R260 to R263): a free key is taken and its record goes on to its next key, or, with the
last one, back to its core with the grant; a held one keeps the record among its waiters; a full table sends the
record back without a grant and gives up its keys. A key given up goes to its first waiter, or its entry is free.

JOIN_ARRIVAL and INCREMENT (R255, R264, R266, R267): an arrival lowers the count; at a count of 0 it sets OVERRUN and
leaves the count; the last one at a parked record clears PARKED and the continuation enters the mailbox of the
record's core. An increment raises the count and sends the thief its half. An arrival waits behind an earlier one of its
slot at the record, and, which is the model's choice (log 62), while an increment is on its way to it; toward a device that
was declared unreachable it is lost (R316, R318). -/
def Obligations.KeysAndJoinCounts : Prop :=
  (∀ (s : State) (k i key : Nat) (r w : KeyReq) (ws : List KeyReq) (todo : List Nat) (e : KeyEntry) (z : KeyRel),
     let home (c key : Nat) : Facet := s.facet (keyHome c key)
     let at_ (c key : Nat) : Option Nat := (home c key).keys.findIdx? fun e => e.ctx = c && e.key = key
     let packet (r : KeyReq) (grant : Bool) : Packet :=
       Packet.own (some r.ctx) (hdrPri r.held.msg.hdr.toNat) ⟨r.held.msg, grant⟩ (.core r.core)
     let keysOf (t : State) (c key : Nat) : List KeyEntry := (t.facet (keyHome c key)).keys
     (s.keyReqs[k]? = some r → r.todo = key :: todo →
       (at_ r.ctx key = none → (home r.ctx key).keys.length < 512 →
         ∃ t, exec (.keyRequest k) s = .next t
           ∧ keysOf t r.ctx key = keysOf s r.ctx key ++ [⟨r.ctx, key, some r.core, []⟩] ∧ t.mem = s.mem
           ∧ (todo = [] → t.keyReqs = dropAt s.keyReqs k ∧ t.msgs = s.msgs ++ [packet r true])
           ∧ (todo ≠ [] → t.keyReqs = dropAt s.keyReqs k ++ [{ r with got := r.got ++ [key], todo := todo }] ∧ t.msgs = s.msgs))
       ∧ (at_ r.ctx key = none → 512 ≤ (home r.ctx key).keys.length →
           ∃ t, exec (.keyRequest k) s = .next t ∧ keysOf t r.ctx key = keysOf s r.ctx key ∧ t.keyReqs = dropAt s.keyReqs k
             ∧ t.msgs = s.msgs ++ [packet r false] ∧ t.keyRels = s.keyRels ++ r.got.map fun q => ⟨r.ctx, q⟩)
       ∧ (at_ r.ctx key = some i → (home r.ctx key).keys[i]? = some e → e.holder ≠ none →
           ∃ t, exec (.keyRequest k) s = .next t ∧ t.keyReqs = dropAt s.keyReqs k ∧ t.msgs = s.msgs
             ∧ keysOf t r.ctx key = setAt (keysOf s r.ctx key) i { e with waiters := addWaiter e.waiters r }))
     ∧ (s.keyRels[k]? = some z → at_ z.ctx z.key = some i → (home z.ctx z.key).keys[i]? = some e →
         (e.waiters = [] → ∃ t, exec (.keyRelease k) s = .next t ∧ t.keyRels = dropAt s.keyRels k
           ∧ keysOf t z.ctx z.key = dropAt (keysOf s z.ctx z.key) i ∧ t.msgs = s.msgs)
         ∧ (e.waiters = w :: ws → w.todo = [z.key] →
             ∃ t, exec (.keyRelease k) s = .next t ∧ t.keyRels = dropAt s.keyRels k ∧ t.msgs = s.msgs ++ [packet w true]
               ∧ keysOf t z.ctx z.key = setAt (keysOf s z.ctx z.key) i { e with holder := some w.core, waiters := ws })))
  ∧ (∀ (s : State) (k : Nat) (r : Arrival) (q : Incr),
       let low (x : Nat) : Nat := x % 2 ^ 32
       (s.arrivals[k]? = some r → s.arrivalWaits k r = true → exec (.joinArrival k) s = .next s)
       ∧ (((s.arrivals.take k).any fun e => e.src = r.src && e.pa = r.pa) = true ∨ (s.incrs.any fun e => e.pa = r.pa) = true →
           s.arrivalWaits k r = true)
       ∧ (s.arrivals[k]? = some r → s.arrivalWaits k r = false → s.cutOff r.pa = true →
           exec (.joinArrival k) s = .next (({ s with arrivals := dropAt s.arrivals k } : State).lose (some r.ctx)))
       ∧ (s.arrivals[k]? = some r → s.arrivalWaits k r = false → s.cutOff r.pa = false → s.sound →
         let w := s.joinWord r.pa
         (joinCount w = 0 → ∃ t, exec (.joinArrival k) s = .next t ∧ joinCount (t.joinWord r.pa) = 0
           ∧ bit (t.joinWord r.pa) 36 = true ∧ t.arrivals = dropAt s.arrivals k)
         ∧ (2 ≤ joinCount w ∨ joinCount w = 1 ∧ joinParked w = false →
             ∃ t, exec (.joinArrival k) s = .next t ∧ t.joinWord r.pa + 1 = w ∧ t.arrivals = dropAt s.arrivals k
               ∧ t.msgs = s.msgs ∧ t.slots = s.slots ∧ ∀ a, a < r.pa ∨ r.pa + 8 ≤ a → memGet t.mem a = memGet s.mem a)
         ∧ (joinCount w = 1 → joinParked w = true → devOf r.pa = 0 →
             let g := localCore r.pa
             let m := s.parkedMsg r.pa
             let pri := hdrPri m.hdr.toNat
             (s.ctx r.ctx).st = .running → coreIn (s.ctx r.ctx).set g = true → (s.core g).ring pri = [] →
             ((s.core g).box pri).length < boxDepth pri →
             ∃ t, exec (.joinArrival k) s = .next t ∧ joinCount (t.joinWord r.pa) = 0 ∧ joinParked (t.joinWord r.pa) = false
               ∧ (t.core g).box pri = (s.core g).box pri ++ [⟨m, false⟩]))
       ∧ (s.incrs[k]? = some q → s.cutOff q.pa = false → s.unrouted (devOf q.pa) = false → s.sound →
           joinCount (s.joinWord q.pa) < 2 ^ 32 - 1 →
           ∃ t, exec (.increment k) s = .next t ∧ t.joinWord q.pa = s.joinWord q.pa + 1 ∧ low (t.joinWord q.pa) ≠ 0
             ∧ t.incrs = dropAt s.incrs k ∧ (t.core q.thief).reply = some (some q.half)
             ∧ ∀ a, a < q.pa ∨ q.pa + 8 ≤ a → memGet t.mem a = memGet s.mem a))

/-! ## Contexts -/

/-- SLICE_EXPIRY, SWITCH_OUT and PLACEMENT (R22, R61, R274, R275, R278, R281, R299, R332): when a slice has passed and another
eligible context shares facets, the running one halts; a halted context whose state is saved is switched out, its facets are
free and its slots hold no task; a save that faults kills it with code 0xFF. The first placement of a context makes it RUNNING
on its set with PCOUNT one higher and everything of its cores and slots as after reset, but TVEC, HTAB and the steal generator,
which its record and number give; its facets hold no tag, barrier or stream, and their macros, awake, are in DATA, but for
those that another context's pre-empted TLW holds (R117, R187; log 30). A restore that faults kills with code 0xFF, and a
context whose key slot is empty is not placed (R297, R325). When a context is idle and eligible, and that an expiry waits while
an earlier one's choice for some of the same facets is not yet placed, is log 22; that a switch-out waits for what has no route
yet, and a placement for a write on its way to a scratchpad of its set, that of logs 7 and 31.

The placement of a context that was saved (R299 to R301): it is RUNNING on its set with PCOUNT one higher; each slot of a facet
that was saved is what its record gives, and the units of allowance that the record could not take, which the device keeps (log
17); the records are read where they stood before the placement. Of a record, S[1] to S[31], the bank, the counter, the level,
whether a task is there, EPC, TCAUSE, TVAL, the vector registers and the allowance are its doublewords; a task that ran at a
pre-emption has its notice of R301 due. A slot without a saved token and without parked stores goes on exactly so. -/
def Obligations.SwitchingContexts : Prop :=
  ∀ (s : State) (c d : Nat),
    let x := s.ctx c
    let set := s.placeSet c
    let rec_ (r : State) (u : Nat) : List Place → Nat → Nat := fun l o => r.rdNat (spanAt l (s.slotRec c u) o) 8
    (x.st = .running → x.halt = false → x.slice ≠ 0 ∨ s.idle c = true →
      ((after c).find? fun d => s.eligible d && overlaps (s.facetSet d) x.set) = some d →
      (∀ e y, (e, y) ∈ s.ctxs → e ≠ d → y.chosen = true → s.eligible e = true →
        overlaps (s.facetSet e) (s.facetSet d) = false) →
      ∃ t, exec (.sliceExpiry c) s = .next t ∧ (t.ctx c).halt = true ∧ (t.ctx d).chosen = true ∧ (t.ctx c).st = .running
        ∧ t.slots = s.slots ∧ t.mem = s.mem)
    ∧ ((after c).find? (fun d => s.eligible d && overlaps (s.facetSet d) x.set) = some d → s.promised d = true →
        exec (.sliceExpiry c) s = .next s)
    ∧ (s.stranded c = true → exec (.switchOut c) s = .next s)
    ∧ (x.st = .running → x.halt = true → s.stranded c = false →
        (∀ s2, (s.settle c).saveAll c = some s2 →
          ∃ t, exec (.switchOut c) s = .next t ∧ (t.ctx c).st = .switchedOut ∧ (t.ctx c).halt = false
            ∧ (∀ f, f ∈ (s2.ctx c).set → (t.facet f).ctx = none)
            ∧ ∀ u, u / 256 ∈ (s2.ctx c).set → (t.slot u).busy = false ∧ (t.slot u).cpq = [] ∧ (t.slot u).sbuf = [])
        ∧ ((s.settle c).saveAll c = none → ((s.settle c).ctx c).st = .running →
            ∃ t, exec (.switchOut c) s = .next t ∧ (t.ctx c).st = .killed ∧ (t.ctx c).kcode = 0xFF))
    ∧ (s.keySlot c = none ∨ s.inboundSet set = true → exec (.placement c) s = .next s)
    ∧ (s.placeable c = true → s.inboundSet set = false → s.placeAll c set = none →
        ∃ t, exec (.placement c) s = .next t ∧ (t.ctx c).st = .killed ∧ (t.ctx c).kcode = 0xFF)
    ∧ (s.placeable c = true → s.inboundSet set = false → x.fresh = true → x.keptCores = [] →
        ∃ t, exec (.placement c) s = .next t ∧ (t.ctx c).st = .running ∧ (t.ctx c).set = set
          ∧ (t.ctx c).pcount = (x.pcount + 1) % 2 ^ 16
          ∧ ((∀ f m, f ∈ set → m < 16 → (s.mac f m).st = .data) → t.mem = s.mem)
          ∧ ((∀ f, f ∈ set → f < numFacets) → ∀ a, spaceOf a ≠ 2 → memGet t.mem a = memGet s.mem a)
          ∧ (∀ f, f ∈ set → (t.facet f).ctx = some c ∧ (t.facet f).idle.toNat = 0x00100000 ∧ (∀ m, (t.mac f m).ret = .awake)
            ∧ (∀ m, m < 16 → (t.mac f m).st = .data ∨ (s.mac f m).heldFrom c = true)
            ∧ (∀ n, (t.facet f).tag n = 0) ∧ (∀ n, (t.facet f).bar n = Barrier.reset) ∧ (t.facet f).sOwner = none)
          ∧ (∀ u, u / 256 ∈ set → t.slot u = Slot.reset)
          ∧ ∀ g, g / 64 ∈ set → t.core g = { Core.reset with
              tvec := x.tvec, htab := x.htab, gen := BitVec.ofNat 32 (2 ^ 31 + c * 2 ^ 18 + g), icache := (s.core g).icache })
    ∧ (∀ s1, s.placeable c = true → s.inboundSet set = false → s.sound → s.placeAll c set = some s1 →
        ∃ t, exec (.placement c) s = .next t ∧ (t.ctx c).st = .running ∧ (t.ctx c).set = set ∧ (t.ctx c).fresh = false
          ∧ (t.ctx c).pcount = (x.pcount + 1) % 2 ^ 16 ∧ (∀ d, d ≠ c → t.ctx d = s1.ctx d)
          ∧ ∀ u, u / 256 ∈ set →
            (∃ r r' : State, r.placeSlot c u = some r' ∧ s1.slot u = r'.slot u ∧ r.ctx c = x
              ∧ ∀ a, a < 2 ^ 48 → memGet r.mem a = memGet s.mem a)
            ∧ ((∀ q, q ∈ (s1.slot u).ixq → q.phase ≠ .tokenSaved) → (s1.slot u).replay = [] → t.slot u = s1.slot u))
    ∧ (∀ (r : State) (u : Nat) (l : List Place), r.ctx c = x → x.restores (u / 256) = true → r.clean →
        r.spanPlaces (u / 256) c .load (r.slotRec c u) 0x14000 = some l → (∀ p, p ∈ l → r.asleep p.pa = false) →
        let g := rec_ r u l
        let kept := Tbl.get Slot.reset.kept x.keptSlots u
        ∃ t, r.placeSlot c u = some t ∧ t.mem = r.mem ∧ (∀ v, v ≠ u → t.slot v = r.slot v)
          ∧ (∀ n, 1 ≤ n → n < 32 → (t.slot u).phys n = BitVec.ofNat 64 (g (8 * n)))
          ∧ (∀ n, n < 7 → (t.slot u).phys (33 + n) = BitVec.ofNat 64 (g (0x188 + 8 * n)))
          ∧ (t.slot u).pc = BitVec.ofNat 64 (g 0x108) ∧ (t.slot u).sup = bit (g 0x110) 0 ∧ (t.slot u).busy = bit (g 0x110) 1
          ∧ (t.slot u).epc = BitVec.ofNat 64 (g 0x150) ∧ (t.slot u).tval = BitVec.ofNat 64 (g 0x148)
          ∧ (t.slot u).tcause.toNat = g 0x140 % 256
          ∧ (∀ n k, n < 32 → k < 4 → lane ((t.slot u).vreg n) k 64 = g (0x400 + 32 * n + 8 * k))
          ∧ (t.slot u).allow = min 32 (bits (g 0x110) 15 8 + kept.allow)
          ∧ (x.pnote = true → (t.slot u).busy = true → (t.slot u).duePreempt = true))

/-! ## Power, fabric, management -/

/-- RESET, RAIL_FAULT, TRIP and the throttle (R321, R322, R323, R327, R328): a reset keeps the bytes of HBM, and those of
other devices, ends every task, context and session, and keeps the fused SVN; an accepted image boots and is measured, and
a refused one stops the device. That every other byte of the device, and each register to which the spec gives no reset
value, is zero then is the model's choice (logs 1, 2 and 45). A throttle changes nothing but timing.

UNREACHABLE, ROUTE_WRITE and ADAPTER_BULK (R81, R85, R87, R88, R314, R318 to R320): a device for which traffic waits, once
declared, is out of reach until a route to it is written, and the messages that the fabric carries there are lost (the report's
tag 318 is log 42's, when traffic waits log 88's, that their units return log 86's). A request of a device that is no adapter,
or of one that may not carry the context of the region's owner, is discarded and logged (that the owner's context decides is
the model's choice, log 41); one whose handle names no region answers −8 (R90), one that fails its checks −5 or −4, and moves
nothing; one that passes keeps the region's base and owner (log 65). It opens its offsets granule by granule: with −6 and what
it has moved at a boundary where the region is revoked, else with deliveries cut at the granules of memory. They perform in any
order, each its own bytes, unless the region was revoked before the granule moved or an earlier one fails (R333; log 20); the
last of all brings the answer, the number of bytes. PAGE parks a peer's copy, and ends an adapter's (logs 41 and 57). -/
def Obligations.ApexAndFabric : Prop :=
  (∀ (s : State) (b : Boot),
     let lost (t : State) : Prop :=
       (∀ a, memGet t.mem a = if survives a then memGet s.mem a else 0) ∧ t.slots = [] ∧ t.cores = [] ∧ t.facets = []
         ∧ t.ctxs = [] ∧ t.queues = [] ∧ t.msgs = [] ∧ t.keySlots = [] ∧ t.session = false ∧ t.svn = s.svn
     (∃ t, exec (.reset b) s = .next t ∧ lost t
         ∧ if bootAccepted b s.svn = true then
             t.power = .up ∧ t.peers = b.peers ∧ t.operators = b.operators
               ∧ t.devId = (if b.others = [] then 0 else b.identity)
               ∧ t.measured 0 = shake256 (List.replicate 64 0 ++ shake256 (signedBytes b))
           else t.power = .refused)
     ∧ (bootAccepted b s.svn = true → b.key.length = 1952 ∧ b.sig.length = 3309 ∧ s.svn ≤ b.svn)
     ∧ (∃ t, exec .railFault s = .next t ∧ lost t ∧ t.power = .reset) ∧ (∃ t, exec .trip s = .next t ∧ lost t ∧ t.power = .reset)
     ∧ exec .throttle s = .next { s with throttled := true } ∧ exec .throttleEnd s = .next { s with throttled := false })
  ∧ (∀ (s : State) (d : Nat) (ports : List Nat),
       (s.trafficFor d = true →
         ∃ t, exec (.unreachable d) s = .next t ∧ (∀ e, e ∈ t.unreachable ↔ e = d ∨ e ∈ s.unreachable)
           ∧ t.apexReports = s.apexReports ++ [(318, d)] ∧ t.mem = s.mem
           ∧ (∀ p, p ∈ t.owed → p ∈ s.owed ∧ p.toward d = false) ∧ (∀ p, p ∈ s.owed → p.toward d = false → p ∈ t.owed)
           ∧ ((∀ p, p ∈ s.owed → p.toward d = false) → t.slots = s.slots ∧ (∀ a, t.log a = s.log a) ∧ t.fabricOut = s.fabricOut)
           ∧ ∀ p, s.owed = [p] → p.toward d = true →
               t = (({ s with
                 unreachable := t.unreachable, apexReports := t.apexReports, owed := [], fabricOut := s.fabricOut.erase p } :
                   State).returnUnit p.src p.ctx).lose p.ctx)
       ∧ (s.trafficFor d = false → exec (.unreachable d) s = .next s)
       ∧ (∀ p, p ∈ s.msgs ∨ p ∈ s.owed → p.toward d = true → s.trafficFor d = true)
       ∧ (∃ t, exec (.routeWrite d ports) s = .next t ∧ Tbl.get [] t.routes d = ports
           ∧ (∀ e, e ∈ t.unreachable ↔ e ≠ d ∧ e ∈ s.unreachable) ∧ t.slots = s.slots ∧ t.mem = s.mem))
  ∧ (∀ (s : State) (d o n : Nat) (wr : Bool) (h : Dword) (data : List Byte),
       let x := s.region (bits h.toNat 31 20)
       let len := if wr then data.length else n
       let carries : Prop := (Tbl.get [] s.admission d).contains x.owner = true
       let answered (st : Dword) : Out :=
         .next { s with bulkOut := s.bulkOut ++ [{ to_ := d, slot := 0, code := st, data := [], bad := [] }] }
       (s.adapter d = false → exec (.adapterBulk d wr h o n data) s = .next (s.lose none))
       ∧ (s.adapter d = true → s.staleRegion h.toNat = false → ¬ carries →
           exec (.adapterBulk d wr h o n data) s = .next (s.lose (some x.owner)))
       ∧ (s.adapter d = true → s.staleRegion h.toNat = true ∨ carries →
           let fails (code : Nat) : Prop := exec (.adapterBulk d wr h o n data) s = answered (BitVec.ofInt 64 (-code))
           let region : Prop := bits h.toNat 51 48 = 1
           let valid : Prop := s.handleHere h.toNat = true ∧ s.staleRegion h.toNat = false
           let allowed : Prop := o + len ≤ x.len ∧ x.perm.testBit (if wr then 1 else 0) = true
           (¬ region → fails 8) ∧ (region → ¬ valid → fails 5) ∧ (region → valid → ¬ allowed → fails 4)
           ∧ (region → valid → allowed → len = 0 → exec (.adapterBulk d wr h o n data) s = answered 0)
           ∧ (region → valid → allowed → 0 < len →
               exec (.adapterBulk d wr h o n data) s = .next { s with
                 bulks := s.bulks ++ [{ BulkReq.new d 0 wr h o len data [] with base := x.base, owner := x.owner }] })))
  ∧ (∀ (s : State) (k j : Nat) (b : BulkReq), s.bulks[k]? = some b →
       let at_ := b.off + b.pos
       let va := b.base + at_
       let n := min (b.len - b.pos) (256 - at_ % 256)
       let revoked : Prop := at_ % 256 = 0 ∧ s.staleRegion b.handle.toNat = true
       let ends (t : State) (b : BulkReq) (st : Dword) : State :=
         { t with
           bulks := dropAt s.bulks k
           bulkOut := s.bulkOut
             ++ [{ to_ := b.from_, slot := b.slot, code := st, data := b.got.flatMap (·.2), bad := b.lost }] }
       let goesOn (t : State) (b' : BulkReq) : State :=
         if b'.out = [] ∧ b'.len ≤ b'.pos then ends t b' (BitVec.ofNat 64 b'.pos)
         else { t with bulks := setAt s.bulks k b' }
       let ready : Prop := b.out = [] ∧ b.ending = 0 ∧ b.fault = none ∧ b.pos < b.len ∧ ¬ revoked ∧ s.sound
       let holds (y : Piece) : Prop :=
         s.keyLost y.place = false ∧ (devOf y.place.pa ≠ 0 ∧ b.laterDone y = true
           ∨ s.cutOff y.place.pa = false ∧ (b.wr = true → s.stationaryAt y.place.pa = false))
       (b.out = [] → b.fault = none → revoked → s.stepBulk k j = ends s b (BitVec.ofInt 64 (-((6 + 256 * b.pos : Nat) : Int))))
       ∧ (ready → s.xlateNow 0 b.owner (if b.wr then .store else .load) va = none → s.faultsAt b.owner va = true →
           (s.peers.contains b.from_ = true → s.stepBulk k j
             = { s with
                 peerOut := s.peerOut ++ [⟨b.from_, b.slot, BitVec.ofNat 64 causePage, toBytes va 8, []⟩]
                 bulks := setAt s.bulks k { b with fault := some va } })
           ∧ (s.peers.contains b.from_ = false →
               s.stepBulk k j = ends s b (BitVec.ofInt 64 (-((4 + 256 * b.pos : Nat) : Int)))))
       ∧ (∀ y : Piece, b.out[j]? = some y → s.bulkRevoked b y.pos = true →
           s.stepBulk k j
             = ends s b (BitVec.ofInt 64 (-((6 + 256 * ((b.off + y.pos) / 256 * 256 - b.off) : Nat) : Int))))
       ∧ (∀ pl : Nat → Place, ready →
           (∀ i, i < n → s.xlateNow 0 b.owner (if b.wr then .store else .load) (va + i) = some (pl i)
             ∧ s.cutOff (pl i).pa = false ∧ (b.wr = true → s.stationaryAt (pl i).pa = false)) →
           ∃ b' : BulkReq, s.stepBulk k j = { s with bulks := setAt s.bulks k b' }
             ∧ b' = { b with pos := b.pos + n, out := b'.out }
             ∧ (∀ i, i < n → ∃ y, y ∈ b'.out ∧ y.pos ≤ b.pos + i ∧ b.pos + i < y.pos + y.n)
             ∧ ∀ y, y ∈ b'.out → b.pos ≤ y.pos ∧ y.pos < b.pos + n ∧ 0 < y.n ∧ y.place = pl (y.pos - b.pos)
                 ∧ (b.base + b.off + y.pos) % 64 + y.n ≤ 64)
       ∧ (∀ y : Piece, b.out[j]? = some y → b.ending = 0 → b.bad = [] → b.lost = [] → s.clean →
           s.bulkRevoked b y.pos = false → (∀ z, z ∈ b.out.take (j + 1) → holds z) → s.asleep y.place.pa = false →
           (b.wr = false →
             s.stepBulk k j = goesOn s { b with out := dropAt b.out j, got := Tbl.set b.got y.pos (s.rd y.place y.n) })
           ∧ (b.wr = true →
               s.stepBulk k j
                 = goesOn (s.wr y.place ((b.data.drop y.pos).take y.n)) { b with out := dropAt b.out j })))

/-- The management port and the apex's own writes (R7, R38, R321, R322, R324, R325, R329): a session needs an enrolled key
whose signature of the nonce verifies under ML-DSA-65, and none of another length than that algorithm's does; inside one, an
aligned register of control space is read or written with the apex's rights, HBM is read or written as it stands, the SVN only
rises, and an attestation report carries the nonce and the measurements. A key slot of a context that is free or switched out
is filled. Outside a session nothing happens, and a device that its boot ROM has stopped answers every request only that it is
stopped. How a report writes its fields (log 43) and by which number an answer names itself, 324 and 321 (log 42), are the
model's choice.

IMAGE_LOAD (R14, R16, R323): a section within a granule that the page table maps to unencrypted HBM is placed byte for byte;
the measurement register of the context is extended by the image's digest; each launch, with the handler as its header and the
arguments as its doublewords, is on its way to its queue, or waits until that is bound (R321). That the loader places an image
in one step and by the context's page table is the model's choice (log 44). -/
def Obligations.ManagementAndImages : Prop :=
  (∀ (s : State) (nonce key sig : List Byte) (a v : Dword) (r : CReg) (n c : Nat) (data : List Byte) (wr : Bool),
     let answer (k : Nat) (b : List Byte) : Out := .next { s with mgmtOut := s.mgmtOut ++ [(k, b)] }
     let p : Place := ⟨offOf a.toNat, none⟩
     let open_ : Prop := s.session = true ∧ s.power ≠ .refused
     (s.power ≠ .refused →
       exec (.session nonce key sig) s
         = .next (if key ∈ s.operators ∧ dsaVerify key nonce sig = true then { s with session := true } else s))
     ∧ (key.length ≠ 1952 ∨ sig.length ≠ 3309 → dsaVerify key nonce sig = false)
     ∧ (open_ → a.toNat % 8 = 0 → s.creg a.toNat = some r →
         exec (.mgmtControlAccess false a v) s = answer a.toNat (toBytes (s.cread r) 8)
         ∧ exec (.mgmtControlAccess true a v) s = .next (s.cwrite .apex r v))
     ∧ (a.toNat % 8 = 0 → s.creg a.toNat = some r → exec (.registerWrite a v) s = .next (s.cwrite .apex r v))
     ∧ (open_ → s.sound → s.hbmRange a.toNat n = true →
         exec (.mgmtHbmAccess false a n data) s = answer a.toNat (rdBytes s.mem (offOf a.toNat) n))
     ∧ (open_ → s.sound → s.hbmRange a.toNat data.length = true →
         exec (.mgmtHbmAccess true a n data) s = .next (s.wr p data))
     ∧ (s.session = false → s.power ≠ .refused →
         exec (.mgmtControlAccess wr a v) s = .next s ∧ exec (.mgmtHbmAccess wr a n data) s = .next s
         ∧ exec (.svnRaise n) s = .next s ∧ exec (.attestation nonce) s = .next s)
     ∧ (s.power = .refused →
         exec (.session nonce key sig) s = answer 321 [] ∧ exec (.mgmtControlAccess wr a v) s = answer 321 []
         ∧ exec (.mgmtHbmAccess wr a n data) s = answer 321 [] ∧ exec (.svnRaise n) s = answer 321 []
         ∧ exec (.attestation nonce) s = answer 321 [])
     ∧ (open_ → exec (.svnRaise n) s = .next { s with svn := max s.svn n })
     ∧ (open_ → nonce.length = 32 →
         let body := nonce ++ toBytes s.devId 2 ++ toBytes s.svn 1 ++ (List.range 16).flatMap s.measured
         exec (.attestation nonce) s = answer 324 (body ++ Config.sign body ++ Config.certificate))
     ∧ ((s.ctx c).st = .free ∨ (s.ctx c).st = .switchedOut →
         ∃ t, exec (.keySlotLoad c) s = .next t ∧ (t.keySlot c).isSome = true ∧ (∀ d, d ≠ c → t.keySlot d = s.keySlot d)
           ∧ t.mem = s.mem ∧ t.slots = s.slots ∧ ((s.ctx c).st = .switchedOut → exec (.keySlotReplace c) s = .next t)))
  ∧ (∀ (s : State) (c va : Nat) (d : List Byte) (img : Image) (p : Place),
       (s.ctx c).st ≠ .running → s.sound →
       ∃ t, exec (.imageLoad c img) s = .next t ∧ t.slots = s.slots ∧ t.ctxs = s.ctxs
         ∧ t.measured (2 + c % 14) = shake256 (s.measured (2 + c % 14) ++ Config.imageDigest img)
         ∧ (∀ j, j ≠ 2 + c % 14 → t.measured j = s.measured j)
         ∧ (let go := img.launches.filter fun l => (s.queue l.1).valid
            let wait := img.launches.filter fun l => !(s.queue l.1).valid
            let launch (m : Msg) (l : List Dword) : Prop :=
              m.hdr = BitVec.ofNat 64 ((l.getD 0 0).toNat % 2 ^ 16) ∧ ∀ i, i < 7 → m.args.getD i 0 = l.getD (i + 1) 0
            t.msgs.length = s.msgs.length + go.length ∧ t.unsent.length = s.unsent.length + wait.length
            ∧ (∀ j q l, go[j]? = some (q, l) → ∃ x, t.msgs[s.msgs.length + j]? = some x ∧ x.dest = .queue q ∧ x.src = none
                ∧ x.ctx = none ∧ launch x.held.msg l)
            ∧ ∀ j q l, wait[j]? = some (q, l) → ∃ m, t.unsent[s.unsent.length + j]? = some (q, m) ∧ launch m l)
         ∧ (img.sections = [(va, d)] → img.handlers = [] → va % 64 + d.length ≤ 64 → s.loadPlaceOf c va = some p → p.enc = none →
             rdBytes t.mem p.pa d.length = d ∧ ∀ a, a < p.pa ∨ p.pa + d.length ≤ a → memGet t.mem a = memGet s.mem a))

/-! ## The machine -/

/-- A step runs the decoded instruction (R34, R38, R129, R280): where slot `u` may issue, no trap is due, and the word at its
counter can be fetched and is the same in every copy, what the slot attempts is the instruction that the four bytes decode to,
at a state that differs by the two instruction caches and by the early loads that its source registers forbid (log 5); bytes
that decode to nothing are ILLEGAL_WORD. A slot whose handler's SUSP has returned to task level issues it again (R286), and a
trap that is due is taken first.

The step is what the slot attempts, with its turn recorded (R280). S3 goes first: while it holds a task no low slot does
anything. A low slot that only waits leaves the order as it is; one whose instruction completes or traps does so where no slot
before it in the order of its core is ready, and is then the one that issued last; else it does nothing.

A step of the device is that step where the device has come up as far as the step needs (R321). That the checks of memory are
made at every fetch is the model's choice (log 60), and so is the turn in which a slot that waits has its waiting (log 3). -/
def Obligations.StepRunsDecodedInstruction : Prop :=
  (∀ (s : State) (u : Nat) (p : Place), u < numSlots →
      let s0 : State := { s with cur := u }
      let t := s.slot u
      (∀ r, s0.takeDue u = some r → s.attempt u = .next r)
      ∧ (s0.takeDue u = none → t.conv = true → s.attempt u = exec (.susp 0) s0)
      ∧ (s0.takeDue u = none → t.conv = false → t.pc.toNat % 4 = 0 →
          s0.look .fetch true t.pc.toNat = .ok p → p.pa % 4 = 0 → t.watched 2 t.pc.toNat 4 = false → s.asleep p.pa = false →
          s.sound → s.poisoned p.pa 4 = false → (∀ l, l ∈ s0.blocks p → l = s.rd { p with pa := p.pa / 32 * 32 } 32) →
          ∃ r : State, r.cur = u ∧ r.mem = s.mem ∧ r.schedule = s.schedule ∧ r.facets = s.facets ∧ r.ctxs = s.ctxs
            ∧ (∃ b, r.here = { t with block := b }) ∧ (∀ v, v ≠ u → r.slot v = s.slot v)
            ∧ (∀ g, ∃ c, r.core g = { s.core g with icache := c })
            ∧ (∀ i, decode (s.rd p 4) = .ok (i, []) →
                s.attempt u = exec i (r.readSources i) ∧ (t.early = [] → r.readSources i = r))
            ∧ (∀ e w, decode (s.rd p 4) = .error e → s.rd p 4 = wordBytes w → s.attempt u = exec (.illegalWord w) r)))
  ∧ (∀ (s : State) (u : Nat) (sch : List Turn), s.schedule = .issue u :: sch → u < numSlots →
      let s0 : State := { s with schedule := sch, tick := s.tick + 1, cur := u }
      let issued (t : State) : Bool := (s0.slot u).moved (t.slot u)
      (s0.mayIssue u = false → step s = .next s0)
      ∧ (s.power ≠ .up ∨ (s.slot (4 * (u / 4) + 3)).busy = true ∧ u % 4 ≠ 3 → s0.mayIssue u = false)
      ∧ (∀ t, s0.mayIssue u = true → s0.attempt u = .next t →
          (u % 4 = 3 ∨ issued t = false → step s = .next t)
          ∧ (u % 4 ≠ 3 → issued t = true → (∃ v, v ∈ s0.lowBefore u ∧ s0.issuable v = true) → step s = .next s0)
          ∧ (u % 4 ≠ 3 → issued t = true → (∀ v, v ∈ s0.lowBefore u → s0.issuable v = false) →
              step s = .next { t with issued := Tbl.set t.issued (u / 4) (u % 4) }))
      ∧ (∀ v, v ∈ s0.lowBefore u → v / 4 = u / 4 ∧ v % 4 < 3 ∧ v ≠ u)
      ∧ (Tbl.get 2 s.issued (u / 4) = u % 4 → u % 4 < 3 →
          s0.lowBefore u = [4 * (u / 4) + (u % 4 + 1) % 3, 4 * (u / 4) + (u % 4 + 2) % 3]))
  ∧ (∀ (s : State) (sch : List Turn) (i : Instr), s.schedule = .event i :: sch → i.wf = true → isEvent i = true →
        let s0 : State := { s with schedule := sch, tick := s.tick + 1 }
        (s.runs i = true → step s = exec i s0) ∧ (s.runs i = false → step s = .next s0)
        ∧ (s.power = .up → s.runs i = true))

/-- The state after reset: memory has its canonical form, also with a word placed; no slot holds a task, registers and the
named control registers are 0, no register is pending; every tag entry is invalid (R111), every barrier idle with
COUNT 0, OVERRUN 0 and no owner (R94), every stream register invalid with mask and bits 0 (R189), every generator 0
(R192), the unit without owner, the idle count 0x00100000 (R117), every macro in DATA and awake; every context is free
and every queue invalid, every key slot empty (R325), the measurement registers 0 (R323), and the device has not booted:
no slot may issue before it has (R321). The registers' zeros that the spec does not give are the model's choice (log 2). -/
def Obligations.ResetState : Prop :=
  let s := State.reset
  s.Inv ∧ (∀ (t : State) (n w : Nat), t.Inv → (t.withFetchWord n w).Inv)
  ∧ ∀ u a n g f c q : Nat,
    let t := s.slot u
    let x := s.facet f
    t.busy = false ∧ t.sup = false ∧ t.s a = 0 ∧ t.isPend a = false ∧ t.tcause = 0 ∧ t.fpctl = 0 ∧ t.mxcfg = 0 ∧ t.swin = 0
    ∧ (s.core g).tvec = 0 ∧ (s.core g).low = [] ∧ (s.core g).high = [] ∧ (s.core g).deque = []
    ∧ x.ctx = none ∧ tagValid (x.tag n) = false ∧ (x.bar n).armed = false ∧ (x.bar n).count = 0 ∧ (x.bar n).overrun = false
    ∧ (x.bar n).owner = none ∧ (x.sreg n).valid = false ∧ (x.sreg n).mask = 0 ∧ (x.sreg n).bits = 0 ∧ x.gen n = 0
    ∧ x.sOwner = none ∧ x.idle.toNat = 0x00100000 ∧ (x.mac n).st = .data ∧ (x.mac n).ret = .awake
    ∧ (s.ctx c).st = .free ∧ (s.queue q).valid = false ∧ s.keySlot c = none ∧ s.measured n = List.replicate 64 0
    ∧ s.msgs = [] ∧ s.xinv = [] ∧ s.power = .reset ∧ s.mayIssue u = false

/-- Worked words of the spec, one or two of a family, decode to the instructions that the spec writes beside them. -/
def Obligations.WordsDecode : Prop :=
  decodeWord 0x05990000 = .ok (.add 12 25 0) ∧ decodeWord 0x06A84811 = .ok (.sltZ 21 8 9)
  ∧ decodeWord 0x2AD40001 = .ok (.sllImm 22 20 1) ∧ decodeWord 0x6DFA0080 = .ok (.ldD 15 26 128)
  ∧ decodeWord 0x3D400021 = .ok (.blt 10 0 33) ∧ decodeWord 0xE00C0000 = .ok (.enq 12 0)
  ∧ decodeWord 0xC4411884 = .ok (.vcmp 2 1 3 0 .f16 .gt) ∧ decodeWord 0xC0410A80 = .ok (.vadd 2 1 1 2 .f16)
  ∧ decodeWord 0x9C642810 = .ok (.amoAdd 3 4 5 .core .rlx .d) ∧ decodeWord 0xA00000C3 = .ok (.fence 12 .dev)
  ∧ decodeWord 0xF14C0000 = .ok (.ixnew 10 12) ∧ decodeWord 0xE4050000 = .ok (.mvm 0 5)
  ∧ decodeWord 0x4C000107 = .ok (.trap 7) ∧ decodeWord 0xF4600010 = .ok (.ctlr 3 16)

/-- The word of every well-formed instruction decodes to that instruction, with nothing left over. -/
def Obligations.DecodeOfEncode : Prop :=
  ∀ i : Instr, i.isWord = true → i.wf = true → decode (wordBytes (encode i)) = .ok (i, [])

/-- Every word that decodes is the word of the instruction it decodes to, which is well-formed: no word has two meanings,
and no reserved or unused bit is passed over (R37, R38). -/
def Obligations.EncodeOfDecode : Prop :=
  ∀ (w : Word) (i : Instr), decodeWord w = .ok i → i.isWord = true ∧ i.wf = true ∧ encode i = w

/-- Every step keeps memory in its canonical form: addresses rise strictly, and no cell holds what an unlisted one reads
as. -/
def Obligations.EveryStepKeepsCanonicalMemory : Prop := ∀ s t : State, s.Inv → step s = .next t → t.Inv

/-- No instruction at task level changes a supervisor register of a core or a base register of a context record, nor
TCAUSE, TVAL and EPC of its slot where it has not trapped (R39, R284, R288, R289, R295). -/
def Obligations.TaskLevelKeepsSupervisorRegisters : Prop :=
  ∀ (s t : State) (i : Instr), isEvent i = false → s.here.sup = false → exec i s = .next t →
    (∀ g, (t.core g).tvec = (s.core g).tvec ∧ (t.core g).htab = (s.core g).htab ∧ (t.core g).spillb = (s.core g).spillb)
    ∧ (∀ c, (t.ctx c).ptbase = (s.ctx c).ptbase ∧ (t.ctx c).tvec = (s.ctx c).tvec ∧ (t.ctx c).htab = (s.ctx c).htab
      ∧ (t.ctx c).dqsb = (s.ctx c).dqsb ∧ (t.ctx c).saveb = (s.ctx c).saveb ∧ (t.ctx c).errh = (s.ctx c).errh)
    ∧ (t.here.sup = false → t.here.busy = true →
        t.here.tcause = s.here.tcause ∧ t.here.tval = s.here.tval ∧ t.here.epc = s.here.epc)

end
end

