-- ==== Sys2Proof/Laws/State.lean ====
section
/-!
SUPPORT. What each update of the state and of a slot leaves alone, field by field: true by unfolding, so that no proof
unfolds a record update.
-/

namespace Sys2Proof.Machine

/-! ## Updates of the state -/

@[simp] theorem State.setSlot_schedule (s : State) (u : Nat) (t : Slot) : (s.setSlot u t).schedule = s.schedule := rfl
@[simp] theorem State.setSlot_tick (s : State) (u : Nat) (t : Slot) : (s.setSlot u t).tick = s.tick := rfl
@[simp] theorem State.setSlot_cur (s : State) (u : Nat) (t : Slot) : (s.setSlot u t).cur = s.cur := rfl
@[simp] theorem State.setSlot_issued (s : State) (u : Nat) (t : Slot) : (s.setSlot u t).issued = s.issued := rfl
@[simp] theorem State.setSlot_cores (s : State) (u : Nat) (t : Slot) : (s.setSlot u t).cores = s.cores := rfl
@[simp] theorem State.setSlot_facets (s : State) (u : Nat) (t : Slot) : (s.setSlot u t).facets = s.facets := rfl
@[simp] theorem State.setSlot_walkers (s : State) (u : Nat) (t : Slot) : (s.setSlot u t).walkers = s.walkers := rfl
@[simp] theorem State.setSlot_ctxs (s : State) (u : Nat) (t : Slot) : (s.setSlot u t).ctxs = s.ctxs := rfl
@[simp] theorem State.setSlot_queues (s : State) (u : Nat) (t : Slot) : (s.setSlot u t).queues = s.queues := rfl
@[simp] theorem State.setSlot_regions (s : State) (u : Nat) (t : Slot) : (s.setSlot u t).regions = s.regions := rfl
@[simp] theorem State.setSlot_indexes (s : State) (u : Nat) (t : Slot) : (s.setSlot u t).indexes = s.indexes := rfl
@[simp] theorem State.setSlot_mem (s : State) (u : Nat) (t : Slot) : (s.setSlot u t).mem = s.mem := rfl
@[simp] theorem State.setSlot_poison (s : State) (u : Nat) (t : Slot) : (s.setSlot u t).poison = s.poison := rfl
@[simp] theorem State.setSlot_latent (s : State) (u : Nat) (t : Slot) : (s.setSlot u t).latent = s.latent := rfl
@[simp] theorem State.setSlot_keySlots (s : State) (u : Nat) (t : Slot) : (s.setSlot u t).keySlots = s.keySlots := rfl
@[simp] theorem State.setSlot_msgs (s : State) (u : Nat) (t : Slot) : (s.setSlot u t).msgs = s.msgs := rfl
@[simp] theorem State.setSlot_keyReqs (s : State) (u : Nat) (t : Slot) : (s.setSlot u t).keyReqs = s.keyReqs := rfl
@[simp] theorem State.setSlot_keyRels (s : State) (u : Nat) (t : Slot) : (s.setSlot u t).keyRels = s.keyRels := rfl
@[simp] theorem State.setSlot_arrivals (s : State) (u : Nat) (t : Slot) : (s.setSlot u t).arrivals = s.arrivals := rfl
@[simp] theorem State.setSlot_incrs (s : State) (u : Nat) (t : Slot) : (s.setSlot u t).incrs = s.incrs := rfl
@[simp] theorem State.setSlot_codeReqs (s : State) (u : Nat) (t : Slot) : (s.setSlot u t).codeReqs = s.codeReqs := rfl
@[simp] theorem State.setSlot_xinv (s : State) (u : Nat) (t : Slot) : (s.setSlot u t).xinv = s.xinv := rfl
@[simp] theorem State.setSlot_rotation (s : State) (u : Nat) (t : Slot) : (s.setSlot u t).rotation = s.rotation := rfl
@[simp] theorem State.setSlot_stackLogs (s : State) (u : Nat) (t : Slot) : (s.setSlot u t).stackLogs = s.stackLogs := rfl
@[simp] theorem State.setSlot_devLog (s : State) (u : Nat) (t : Slot) : (s.setSlot u t).devLog = s.devLog := rfl
@[simp] theorem State.setSlot_devId (s : State) (u : Nat) (t : Slot) : (s.setSlot u t).devId = s.devId := rfl
@[simp] theorem State.setSlot_peers (s : State) (u : Nat) (t : Slot) : (s.setSlot u t).peers = s.peers := rfl
@[simp] theorem State.setSlot_admission (s : State) (u : Nat) (t : Slot) : (s.setSlot u t).admission = s.admission := rfl
@[simp] theorem State.setSlot_routes (s : State) (u : Nat) (t : Slot) : (s.setSlot u t).routes = s.routes := rfl
@[simp] theorem State.setSlot_unreachable (s : State) (u : Nat) (t : Slot) : (s.setSlot u t).unreachable = s.unreachable := rfl
@[simp] theorem State.setSlot_fabricOut (s : State) (u : Nat) (t : Slot) : (s.setSlot u t).fabricOut = s.fabricOut := rfl
@[simp] theorem State.setSlot_owed (s : State) (u : Nat) (t : Slot) : (s.setSlot u t).owed = s.owed := rfl
@[simp] theorem State.setSlot_unsent (s : State) (u : Nat) (t : Slot) : (s.setSlot u t).unsent = s.unsent := rfl
@[simp] theorem State.setSlot_bulks (s : State) (u : Nat) (t : Slot) : (s.setSlot u t).bulks = s.bulks := rfl
@[simp] theorem State.setSlot_bulkOut (s : State) (u : Nat) (t : Slot) : (s.setSlot u t).bulkOut = s.bulkOut := rfl
@[simp] theorem State.setSlot_peerHeld (s : State) (u : Nat) (t : Slot) : (s.setSlot u t).peerHeld = s.peerHeld := rfl
@[simp] theorem State.setSlot_peerOut (s : State) (u : Nat) (t : Slot) : (s.setSlot u t).peerOut = s.peerOut := rfl
@[simp] theorem State.setSlot_apexReports (s : State) (u : Nat) (t : Slot) : (s.setSlot u t).apexReports = s.apexReports := rfl
@[simp] theorem State.setSlot_svn (s : State) (u : Nat) (t : Slot) : (s.setSlot u t).svn = s.svn := rfl
@[simp] theorem State.setSlot_meas (s : State) (u : Nat) (t : Slot) : (s.setSlot u t).meas = s.meas := rfl
@[simp] theorem State.setSlot_operators (s : State) (u : Nat) (t : Slot) : (s.setSlot u t).operators = s.operators := rfl
@[simp] theorem State.setSlot_session (s : State) (u : Nat) (t : Slot) : (s.setSlot u t).session = s.session := rfl
@[simp] theorem State.setSlot_mgmtOut (s : State) (u : Nat) (t : Slot) : (s.setSlot u t).mgmtOut = s.mgmtOut := rfl
@[simp] theorem State.setSlot_throttled (s : State) (u : Nat) (t : Slot) : (s.setSlot u t).throttled = s.throttled := rfl
@[simp] theorem State.setSlot_power (s : State) (u : Nat) (t : Slot) : (s.setSlot u t).power = s.power := rfl

@[simp] theorem State.setCore_schedule (s : State) (g : Nat) (c : Core) : (s.setCore g c).schedule = s.schedule := rfl
@[simp] theorem State.setCore_tick (s : State) (g : Nat) (c : Core) : (s.setCore g c).tick = s.tick := rfl
@[simp] theorem State.setCore_cur (s : State) (g : Nat) (c : Core) : (s.setCore g c).cur = s.cur := rfl
@[simp] theorem State.setCore_issued (s : State) (g : Nat) (c : Core) : (s.setCore g c).issued = s.issued := rfl
@[simp] theorem State.setCore_slots (s : State) (g : Nat) (c : Core) : (s.setCore g c).slots = s.slots := rfl
@[simp] theorem State.setCore_facets (s : State) (g : Nat) (c : Core) : (s.setCore g c).facets = s.facets := rfl
@[simp] theorem State.setCore_walkers (s : State) (g : Nat) (c : Core) : (s.setCore g c).walkers = s.walkers := rfl
@[simp] theorem State.setCore_ctxs (s : State) (g : Nat) (c : Core) : (s.setCore g c).ctxs = s.ctxs := rfl
@[simp] theorem State.setCore_queues (s : State) (g : Nat) (c : Core) : (s.setCore g c).queues = s.queues := rfl
@[simp] theorem State.setCore_regions (s : State) (g : Nat) (c : Core) : (s.setCore g c).regions = s.regions := rfl
@[simp] theorem State.setCore_indexes (s : State) (g : Nat) (c : Core) : (s.setCore g c).indexes = s.indexes := rfl
@[simp] theorem State.setCore_mem (s : State) (g : Nat) (c : Core) : (s.setCore g c).mem = s.mem := rfl
@[simp] theorem State.setCore_poison (s : State) (g : Nat) (c : Core) : (s.setCore g c).poison = s.poison := rfl
@[simp] theorem State.setCore_latent (s : State) (g : Nat) (c : Core) : (s.setCore g c).latent = s.latent := rfl
@[simp] theorem State.setCore_keySlots (s : State) (g : Nat) (c : Core) : (s.setCore g c).keySlots = s.keySlots := rfl
@[simp] theorem State.setCore_msgs (s : State) (g : Nat) (c : Core) : (s.setCore g c).msgs = s.msgs := rfl
@[simp] theorem State.setCore_keyReqs (s : State) (g : Nat) (c : Core) : (s.setCore g c).keyReqs = s.keyReqs := rfl
@[simp] theorem State.setCore_keyRels (s : State) (g : Nat) (c : Core) : (s.setCore g c).keyRels = s.keyRels := rfl
@[simp] theorem State.setCore_arrivals (s : State) (g : Nat) (c : Core) : (s.setCore g c).arrivals = s.arrivals := rfl
@[simp] theorem State.setCore_incrs (s : State) (g : Nat) (c : Core) : (s.setCore g c).incrs = s.incrs := rfl
@[simp] theorem State.setCore_codeReqs (s : State) (g : Nat) (c : Core) : (s.setCore g c).codeReqs = s.codeReqs := rfl
@[simp] theorem State.setCore_xinv (s : State) (g : Nat) (c : Core) : (s.setCore g c).xinv = s.xinv := rfl
@[simp] theorem State.setCore_rotation (s : State) (g : Nat) (c : Core) : (s.setCore g c).rotation = s.rotation := rfl
@[simp] theorem State.setCore_stackLogs (s : State) (g : Nat) (c : Core) : (s.setCore g c).stackLogs = s.stackLogs := rfl
@[simp] theorem State.setCore_devLog (s : State) (g : Nat) (c : Core) : (s.setCore g c).devLog = s.devLog := rfl
@[simp] theorem State.setCore_devId (s : State) (g : Nat) (c : Core) : (s.setCore g c).devId = s.devId := rfl
@[simp] theorem State.setCore_peers (s : State) (g : Nat) (c : Core) : (s.setCore g c).peers = s.peers := rfl
@[simp] theorem State.setCore_admission (s : State) (g : Nat) (c : Core) : (s.setCore g c).admission = s.admission := rfl
@[simp] theorem State.setCore_routes (s : State) (g : Nat) (c : Core) : (s.setCore g c).routes = s.routes := rfl
@[simp] theorem State.setCore_unreachable (s : State) (g : Nat) (c : Core) : (s.setCore g c).unreachable = s.unreachable := rfl
@[simp] theorem State.setCore_fabricOut (s : State) (g : Nat) (c : Core) : (s.setCore g c).fabricOut = s.fabricOut := rfl
@[simp] theorem State.setCore_owed (s : State) (g : Nat) (c : Core) : (s.setCore g c).owed = s.owed := rfl
@[simp] theorem State.setCore_unsent (s : State) (g : Nat) (c : Core) : (s.setCore g c).unsent = s.unsent := rfl
@[simp] theorem State.setCore_bulks (s : State) (g : Nat) (c : Core) : (s.setCore g c).bulks = s.bulks := rfl
@[simp] theorem State.setCore_bulkOut (s : State) (g : Nat) (c : Core) : (s.setCore g c).bulkOut = s.bulkOut := rfl
@[simp] theorem State.setCore_peerHeld (s : State) (g : Nat) (c : Core) : (s.setCore g c).peerHeld = s.peerHeld := rfl
@[simp] theorem State.setCore_peerOut (s : State) (g : Nat) (c : Core) : (s.setCore g c).peerOut = s.peerOut := rfl
@[simp] theorem State.setCore_apexReports (s : State) (g : Nat) (c : Core) : (s.setCore g c).apexReports = s.apexReports := rfl
@[simp] theorem State.setCore_svn (s : State) (g : Nat) (c : Core) : (s.setCore g c).svn = s.svn := rfl
@[simp] theorem State.setCore_meas (s : State) (g : Nat) (c : Core) : (s.setCore g c).meas = s.meas := rfl
@[simp] theorem State.setCore_operators (s : State) (g : Nat) (c : Core) : (s.setCore g c).operators = s.operators := rfl
@[simp] theorem State.setCore_session (s : State) (g : Nat) (c : Core) : (s.setCore g c).session = s.session := rfl
@[simp] theorem State.setCore_mgmtOut (s : State) (g : Nat) (c : Core) : (s.setCore g c).mgmtOut = s.mgmtOut := rfl
@[simp] theorem State.setCore_throttled (s : State) (g : Nat) (c : Core) : (s.setCore g c).throttled = s.throttled := rfl
@[simp] theorem State.setCore_power (s : State) (g : Nat) (c : Core) : (s.setCore g c).power = s.power := rfl

@[simp] theorem State.setFacet_schedule (s : State) (f : Nat) (x : Facet) : (s.setFacet f x).schedule = s.schedule := rfl
@[simp] theorem State.setFacet_tick (s : State) (f : Nat) (x : Facet) : (s.setFacet f x).tick = s.tick := rfl
@[simp] theorem State.setFacet_cur (s : State) (f : Nat) (x : Facet) : (s.setFacet f x).cur = s.cur := rfl
@[simp] theorem State.setFacet_issued (s : State) (f : Nat) (x : Facet) : (s.setFacet f x).issued = s.issued := rfl
@[simp] theorem State.setFacet_slots (s : State) (f : Nat) (x : Facet) : (s.setFacet f x).slots = s.slots := rfl
@[simp] theorem State.setFacet_cores (s : State) (f : Nat) (x : Facet) : (s.setFacet f x).cores = s.cores := rfl
@[simp] theorem State.setFacet_walkers (s : State) (f : Nat) (x : Facet) : (s.setFacet f x).walkers = s.walkers := rfl
@[simp] theorem State.setFacet_ctxs (s : State) (f : Nat) (x : Facet) : (s.setFacet f x).ctxs = s.ctxs := rfl
@[simp] theorem State.setFacet_queues (s : State) (f : Nat) (x : Facet) : (s.setFacet f x).queues = s.queues := rfl
@[simp] theorem State.setFacet_regions (s : State) (f : Nat) (x : Facet) : (s.setFacet f x).regions = s.regions := rfl
@[simp] theorem State.setFacet_indexes (s : State) (f : Nat) (x : Facet) : (s.setFacet f x).indexes = s.indexes := rfl
@[simp] theorem State.setFacet_mem (s : State) (f : Nat) (x : Facet) : (s.setFacet f x).mem = s.mem := rfl
@[simp] theorem State.setFacet_poison (s : State) (f : Nat) (x : Facet) : (s.setFacet f x).poison = s.poison := rfl
@[simp] theorem State.setFacet_latent (s : State) (f : Nat) (x : Facet) : (s.setFacet f x).latent = s.latent := rfl
@[simp] theorem State.setFacet_keySlots (s : State) (f : Nat) (x : Facet) : (s.setFacet f x).keySlots = s.keySlots := rfl
@[simp] theorem State.setFacet_msgs (s : State) (f : Nat) (x : Facet) : (s.setFacet f x).msgs = s.msgs := rfl
@[simp] theorem State.setFacet_keyReqs (s : State) (f : Nat) (x : Facet) : (s.setFacet f x).keyReqs = s.keyReqs := rfl
@[simp] theorem State.setFacet_keyRels (s : State) (f : Nat) (x : Facet) : (s.setFacet f x).keyRels = s.keyRels := rfl
@[simp] theorem State.setFacet_arrivals (s : State) (f : Nat) (x : Facet) : (s.setFacet f x).arrivals = s.arrivals := rfl
@[simp] theorem State.setFacet_incrs (s : State) (f : Nat) (x : Facet) : (s.setFacet f x).incrs = s.incrs := rfl
@[simp] theorem State.setFacet_codeReqs (s : State) (f : Nat) (x : Facet) : (s.setFacet f x).codeReqs = s.codeReqs := rfl
@[simp] theorem State.setFacet_xinv (s : State) (f : Nat) (x : Facet) : (s.setFacet f x).xinv = s.xinv := rfl
@[simp] theorem State.setFacet_rotation (s : State) (f : Nat) (x : Facet) : (s.setFacet f x).rotation = s.rotation := rfl
@[simp] theorem State.setFacet_stackLogs (s : State) (f : Nat) (x : Facet) : (s.setFacet f x).stackLogs = s.stackLogs := rfl
@[simp] theorem State.setFacet_devLog (s : State) (f : Nat) (x : Facet) : (s.setFacet f x).devLog = s.devLog := rfl
@[simp] theorem State.setFacet_devId (s : State) (f : Nat) (x : Facet) : (s.setFacet f x).devId = s.devId := rfl
@[simp] theorem State.setFacet_peers (s : State) (f : Nat) (x : Facet) : (s.setFacet f x).peers = s.peers := rfl
@[simp] theorem State.setFacet_admission (s : State) (f : Nat) (x : Facet) : (s.setFacet f x).admission = s.admission := rfl
@[simp] theorem State.setFacet_routes (s : State) (f : Nat) (x : Facet) : (s.setFacet f x).routes = s.routes := rfl
@[simp] theorem State.setFacet_unreachable (s : State) (f : Nat) (x : Facet) : (s.setFacet f x).unreachable = s.unreachable := rfl
@[simp] theorem State.setFacet_fabricOut (s : State) (f : Nat) (x : Facet) : (s.setFacet f x).fabricOut = s.fabricOut := rfl
@[simp] theorem State.setFacet_owed (s : State) (f : Nat) (x : Facet) : (s.setFacet f x).owed = s.owed := rfl
@[simp] theorem State.setFacet_unsent (s : State) (f : Nat) (x : Facet) : (s.setFacet f x).unsent = s.unsent := rfl
@[simp] theorem State.setFacet_bulks (s : State) (f : Nat) (x : Facet) : (s.setFacet f x).bulks = s.bulks := rfl
@[simp] theorem State.setFacet_bulkOut (s : State) (f : Nat) (x : Facet) : (s.setFacet f x).bulkOut = s.bulkOut := rfl
@[simp] theorem State.setFacet_peerHeld (s : State) (f : Nat) (x : Facet) : (s.setFacet f x).peerHeld = s.peerHeld := rfl
@[simp] theorem State.setFacet_peerOut (s : State) (f : Nat) (x : Facet) : (s.setFacet f x).peerOut = s.peerOut := rfl
@[simp] theorem State.setFacet_apexReports (s : State) (f : Nat) (x : Facet) : (s.setFacet f x).apexReports = s.apexReports := rfl
@[simp] theorem State.setFacet_svn (s : State) (f : Nat) (x : Facet) : (s.setFacet f x).svn = s.svn := rfl
@[simp] theorem State.setFacet_meas (s : State) (f : Nat) (x : Facet) : (s.setFacet f x).meas = s.meas := rfl
@[simp] theorem State.setFacet_operators (s : State) (f : Nat) (x : Facet) : (s.setFacet f x).operators = s.operators := rfl
@[simp] theorem State.setFacet_session (s : State) (f : Nat) (x : Facet) : (s.setFacet f x).session = s.session := rfl
@[simp] theorem State.setFacet_mgmtOut (s : State) (f : Nat) (x : Facet) : (s.setFacet f x).mgmtOut = s.mgmtOut := rfl
@[simp] theorem State.setFacet_throttled (s : State) (f : Nat) (x : Facet) : (s.setFacet f x).throttled = s.throttled := rfl
@[simp] theorem State.setFacet_power (s : State) (f : Nat) (x : Facet) : (s.setFacet f x).power = s.power := rfl

@[simp] theorem State.setWalker_schedule (s : State) (w : Nat) (x : Walker) : (s.setWalker w x).schedule = s.schedule := rfl
@[simp] theorem State.setWalker_tick (s : State) (w : Nat) (x : Walker) : (s.setWalker w x).tick = s.tick := rfl
@[simp] theorem State.setWalker_cur (s : State) (w : Nat) (x : Walker) : (s.setWalker w x).cur = s.cur := rfl
@[simp] theorem State.setWalker_issued (s : State) (w : Nat) (x : Walker) : (s.setWalker w x).issued = s.issued := rfl
@[simp] theorem State.setWalker_slots (s : State) (w : Nat) (x : Walker) : (s.setWalker w x).slots = s.slots := rfl
@[simp] theorem State.setWalker_cores (s : State) (w : Nat) (x : Walker) : (s.setWalker w x).cores = s.cores := rfl
@[simp] theorem State.setWalker_facets (s : State) (w : Nat) (x : Walker) : (s.setWalker w x).facets = s.facets := rfl
@[simp] theorem State.setWalker_ctxs (s : State) (w : Nat) (x : Walker) : (s.setWalker w x).ctxs = s.ctxs := rfl
@[simp] theorem State.setWalker_queues (s : State) (w : Nat) (x : Walker) : (s.setWalker w x).queues = s.queues := rfl
@[simp] theorem State.setWalker_regions (s : State) (w : Nat) (x : Walker) : (s.setWalker w x).regions = s.regions := rfl
@[simp] theorem State.setWalker_indexes (s : State) (w : Nat) (x : Walker) : (s.setWalker w x).indexes = s.indexes := rfl
@[simp] theorem State.setWalker_mem (s : State) (w : Nat) (x : Walker) : (s.setWalker w x).mem = s.mem := rfl
@[simp] theorem State.setWalker_poison (s : State) (w : Nat) (x : Walker) : (s.setWalker w x).poison = s.poison := rfl
@[simp] theorem State.setWalker_latent (s : State) (w : Nat) (x : Walker) : (s.setWalker w x).latent = s.latent := rfl
@[simp] theorem State.setWalker_keySlots (s : State) (w : Nat) (x : Walker) : (s.setWalker w x).keySlots = s.keySlots := rfl
@[simp] theorem State.setWalker_msgs (s : State) (w : Nat) (x : Walker) : (s.setWalker w x).msgs = s.msgs := rfl
@[simp] theorem State.setWalker_keyReqs (s : State) (w : Nat) (x : Walker) : (s.setWalker w x).keyReqs = s.keyReqs := rfl
@[simp] theorem State.setWalker_keyRels (s : State) (w : Nat) (x : Walker) : (s.setWalker w x).keyRels = s.keyRels := rfl
@[simp] theorem State.setWalker_arrivals (s : State) (w : Nat) (x : Walker) : (s.setWalker w x).arrivals = s.arrivals := rfl
@[simp] theorem State.setWalker_incrs (s : State) (w : Nat) (x : Walker) : (s.setWalker w x).incrs = s.incrs := rfl
@[simp] theorem State.setWalker_codeReqs (s : State) (w : Nat) (x : Walker) : (s.setWalker w x).codeReqs = s.codeReqs := rfl
@[simp] theorem State.setWalker_xinv (s : State) (w : Nat) (x : Walker) : (s.setWalker w x).xinv = s.xinv := rfl
@[simp] theorem State.setWalker_rotation (s : State) (w : Nat) (x : Walker) : (s.setWalker w x).rotation = s.rotation := rfl
@[simp] theorem State.setWalker_stackLogs (s : State) (w : Nat) (x : Walker) : (s.setWalker w x).stackLogs = s.stackLogs := rfl
@[simp] theorem State.setWalker_devLog (s : State) (w : Nat) (x : Walker) : (s.setWalker w x).devLog = s.devLog := rfl
@[simp] theorem State.setWalker_devId (s : State) (w : Nat) (x : Walker) : (s.setWalker w x).devId = s.devId := rfl
@[simp] theorem State.setWalker_peers (s : State) (w : Nat) (x : Walker) : (s.setWalker w x).peers = s.peers := rfl
@[simp] theorem State.setWalker_admission (s : State) (w : Nat) (x : Walker) : (s.setWalker w x).admission = s.admission := rfl
@[simp] theorem State.setWalker_routes (s : State) (w : Nat) (x : Walker) : (s.setWalker w x).routes = s.routes := rfl
@[simp] theorem State.setWalker_unreachable (s : State) (w : Nat) (x : Walker) : (s.setWalker w x).unreachable = s.unreachable := rfl
@[simp] theorem State.setWalker_fabricOut (s : State) (w : Nat) (x : Walker) : (s.setWalker w x).fabricOut = s.fabricOut := rfl
@[simp] theorem State.setWalker_owed (s : State) (w : Nat) (x : Walker) : (s.setWalker w x).owed = s.owed := rfl
@[simp] theorem State.setWalker_unsent (s : State) (w : Nat) (x : Walker) : (s.setWalker w x).unsent = s.unsent := rfl
@[simp] theorem State.setWalker_bulks (s : State) (w : Nat) (x : Walker) : (s.setWalker w x).bulks = s.bulks := rfl
@[simp] theorem State.setWalker_bulkOut (s : State) (w : Nat) (x : Walker) : (s.setWalker w x).bulkOut = s.bulkOut := rfl
@[simp] theorem State.setWalker_peerHeld (s : State) (w : Nat) (x : Walker) : (s.setWalker w x).peerHeld = s.peerHeld := rfl
@[simp] theorem State.setWalker_peerOut (s : State) (w : Nat) (x : Walker) : (s.setWalker w x).peerOut = s.peerOut := rfl
@[simp] theorem State.setWalker_apexReports (s : State) (w : Nat) (x : Walker) : (s.setWalker w x).apexReports = s.apexReports := rfl
@[simp] theorem State.setWalker_svn (s : State) (w : Nat) (x : Walker) : (s.setWalker w x).svn = s.svn := rfl
@[simp] theorem State.setWalker_meas (s : State) (w : Nat) (x : Walker) : (s.setWalker w x).meas = s.meas := rfl
@[simp] theorem State.setWalker_operators (s : State) (w : Nat) (x : Walker) : (s.setWalker w x).operators = s.operators := rfl
@[simp] theorem State.setWalker_session (s : State) (w : Nat) (x : Walker) : (s.setWalker w x).session = s.session := rfl
@[simp] theorem State.setWalker_mgmtOut (s : State) (w : Nat) (x : Walker) : (s.setWalker w x).mgmtOut = s.mgmtOut := rfl
@[simp] theorem State.setWalker_throttled (s : State) (w : Nat) (x : Walker) : (s.setWalker w x).throttled = s.throttled := rfl
@[simp] theorem State.setWalker_power (s : State) (w : Nat) (x : Walker) : (s.setWalker w x).power = s.power := rfl

@[simp] theorem State.setCtx_schedule (s : State) (c : Nat) (x : Ctx) : (s.setCtx c x).schedule = s.schedule := rfl
@[simp] theorem State.setCtx_tick (s : State) (c : Nat) (x : Ctx) : (s.setCtx c x).tick = s.tick := rfl
@[simp] theorem State.setCtx_cur (s : State) (c : Nat) (x : Ctx) : (s.setCtx c x).cur = s.cur := rfl
@[simp] theorem State.setCtx_issued (s : State) (c : Nat) (x : Ctx) : (s.setCtx c x).issued = s.issued := rfl
@[simp] theorem State.setCtx_slots (s : State) (c : Nat) (x : Ctx) : (s.setCtx c x).slots = s.slots := rfl
@[simp] theorem State.setCtx_cores (s : State) (c : Nat) (x : Ctx) : (s.setCtx c x).cores = s.cores := rfl
@[simp] theorem State.setCtx_facets (s : State) (c : Nat) (x : Ctx) : (s.setCtx c x).facets = s.facets := rfl
@[simp] theorem State.setCtx_walkers (s : State) (c : Nat) (x : Ctx) : (s.setCtx c x).walkers = s.walkers := rfl
@[simp] theorem State.setCtx_queues (s : State) (c : Nat) (x : Ctx) : (s.setCtx c x).queues = s.queues := rfl
@[simp] theorem State.setCtx_regions (s : State) (c : Nat) (x : Ctx) : (s.setCtx c x).regions = s.regions := rfl
@[simp] theorem State.setCtx_indexes (s : State) (c : Nat) (x : Ctx) : (s.setCtx c x).indexes = s.indexes := rfl
@[simp] theorem State.setCtx_mem (s : State) (c : Nat) (x : Ctx) : (s.setCtx c x).mem = s.mem := rfl
@[simp] theorem State.setCtx_poison (s : State) (c : Nat) (x : Ctx) : (s.setCtx c x).poison = s.poison := rfl
@[simp] theorem State.setCtx_latent (s : State) (c : Nat) (x : Ctx) : (s.setCtx c x).latent = s.latent := rfl
@[simp] theorem State.setCtx_keySlots (s : State) (c : Nat) (x : Ctx) : (s.setCtx c x).keySlots = s.keySlots := rfl
@[simp] theorem State.setCtx_msgs (s : State) (c : Nat) (x : Ctx) : (s.setCtx c x).msgs = s.msgs := rfl
@[simp] theorem State.setCtx_keyReqs (s : State) (c : Nat) (x : Ctx) : (s.setCtx c x).keyReqs = s.keyReqs := rfl
@[simp] theorem State.setCtx_keyRels (s : State) (c : Nat) (x : Ctx) : (s.setCtx c x).keyRels = s.keyRels := rfl
@[simp] theorem State.setCtx_arrivals (s : State) (c : Nat) (x : Ctx) : (s.setCtx c x).arrivals = s.arrivals := rfl
@[simp] theorem State.setCtx_incrs (s : State) (c : Nat) (x : Ctx) : (s.setCtx c x).incrs = s.incrs := rfl
@[simp] theorem State.setCtx_codeReqs (s : State) (c : Nat) (x : Ctx) : (s.setCtx c x).codeReqs = s.codeReqs := rfl
@[simp] theorem State.setCtx_xinv (s : State) (c : Nat) (x : Ctx) : (s.setCtx c x).xinv = s.xinv := rfl
@[simp] theorem State.setCtx_rotation (s : State) (c : Nat) (x : Ctx) : (s.setCtx c x).rotation = s.rotation := rfl
@[simp] theorem State.setCtx_stackLogs (s : State) (c : Nat) (x : Ctx) : (s.setCtx c x).stackLogs = s.stackLogs := rfl
@[simp] theorem State.setCtx_devLog (s : State) (c : Nat) (x : Ctx) : (s.setCtx c x).devLog = s.devLog := rfl
@[simp] theorem State.setCtx_devId (s : State) (c : Nat) (x : Ctx) : (s.setCtx c x).devId = s.devId := rfl
@[simp] theorem State.setCtx_peers (s : State) (c : Nat) (x : Ctx) : (s.setCtx c x).peers = s.peers := rfl
@[simp] theorem State.setCtx_admission (s : State) (c : Nat) (x : Ctx) : (s.setCtx c x).admission = s.admission := rfl
@[simp] theorem State.setCtx_routes (s : State) (c : Nat) (x : Ctx) : (s.setCtx c x).routes = s.routes := rfl
@[simp] theorem State.setCtx_unreachable (s : State) (c : Nat) (x : Ctx) : (s.setCtx c x).unreachable = s.unreachable := rfl
@[simp] theorem State.setCtx_fabricOut (s : State) (c : Nat) (x : Ctx) : (s.setCtx c x).fabricOut = s.fabricOut := rfl
@[simp] theorem State.setCtx_owed (s : State) (c : Nat) (x : Ctx) : (s.setCtx c x).owed = s.owed := rfl
@[simp] theorem State.setCtx_unsent (s : State) (c : Nat) (x : Ctx) : (s.setCtx c x).unsent = s.unsent := rfl
@[simp] theorem State.setCtx_bulks (s : State) (c : Nat) (x : Ctx) : (s.setCtx c x).bulks = s.bulks := rfl
@[simp] theorem State.setCtx_bulkOut (s : State) (c : Nat) (x : Ctx) : (s.setCtx c x).bulkOut = s.bulkOut := rfl
@[simp] theorem State.setCtx_peerHeld (s : State) (c : Nat) (x : Ctx) : (s.setCtx c x).peerHeld = s.peerHeld := rfl
@[simp] theorem State.setCtx_peerOut (s : State) (c : Nat) (x : Ctx) : (s.setCtx c x).peerOut = s.peerOut := rfl
@[simp] theorem State.setCtx_apexReports (s : State) (c : Nat) (x : Ctx) : (s.setCtx c x).apexReports = s.apexReports := rfl
@[simp] theorem State.setCtx_svn (s : State) (c : Nat) (x : Ctx) : (s.setCtx c x).svn = s.svn := rfl
@[simp] theorem State.setCtx_meas (s : State) (c : Nat) (x : Ctx) : (s.setCtx c x).meas = s.meas := rfl
@[simp] theorem State.setCtx_operators (s : State) (c : Nat) (x : Ctx) : (s.setCtx c x).operators = s.operators := rfl
@[simp] theorem State.setCtx_session (s : State) (c : Nat) (x : Ctx) : (s.setCtx c x).session = s.session := rfl
@[simp] theorem State.setCtx_mgmtOut (s : State) (c : Nat) (x : Ctx) : (s.setCtx c x).mgmtOut = s.mgmtOut := rfl
@[simp] theorem State.setCtx_throttled (s : State) (c : Nat) (x : Ctx) : (s.setCtx c x).throttled = s.throttled := rfl
@[simp] theorem State.setCtx_power (s : State) (c : Nat) (x : Ctx) : (s.setCtx c x).power = s.power := rfl

@[simp] theorem State.setQueue_schedule (s : State) (q : Nat) (x : LaunchQ) : (s.setQueue q x).schedule = s.schedule := rfl
@[simp] theorem State.setQueue_tick (s : State) (q : Nat) (x : LaunchQ) : (s.setQueue q x).tick = s.tick := rfl
@[simp] theorem State.setQueue_cur (s : State) (q : Nat) (x : LaunchQ) : (s.setQueue q x).cur = s.cur := rfl
@[simp] theorem State.setQueue_issued (s : State) (q : Nat) (x : LaunchQ) : (s.setQueue q x).issued = s.issued := rfl
@[simp] theorem State.setQueue_slots (s : State) (q : Nat) (x : LaunchQ) : (s.setQueue q x).slots = s.slots := rfl
@[simp] theorem State.setQueue_cores (s : State) (q : Nat) (x : LaunchQ) : (s.setQueue q x).cores = s.cores := rfl
@[simp] theorem State.setQueue_facets (s : State) (q : Nat) (x : LaunchQ) : (s.setQueue q x).facets = s.facets := rfl
@[simp] theorem State.setQueue_walkers (s : State) (q : Nat) (x : LaunchQ) : (s.setQueue q x).walkers = s.walkers := rfl
@[simp] theorem State.setQueue_ctxs (s : State) (q : Nat) (x : LaunchQ) : (s.setQueue q x).ctxs = s.ctxs := rfl
@[simp] theorem State.setQueue_regions (s : State) (q : Nat) (x : LaunchQ) : (s.setQueue q x).regions = s.regions := rfl
@[simp] theorem State.setQueue_indexes (s : State) (q : Nat) (x : LaunchQ) : (s.setQueue q x).indexes = s.indexes := rfl
@[simp] theorem State.setQueue_mem (s : State) (q : Nat) (x : LaunchQ) : (s.setQueue q x).mem = s.mem := rfl
@[simp] theorem State.setQueue_poison (s : State) (q : Nat) (x : LaunchQ) : (s.setQueue q x).poison = s.poison := rfl
@[simp] theorem State.setQueue_latent (s : State) (q : Nat) (x : LaunchQ) : (s.setQueue q x).latent = s.latent := rfl
@[simp] theorem State.setQueue_keySlots (s : State) (q : Nat) (x : LaunchQ) : (s.setQueue q x).keySlots = s.keySlots := rfl
@[simp] theorem State.setQueue_msgs (s : State) (q : Nat) (x : LaunchQ) : (s.setQueue q x).msgs = s.msgs := rfl
@[simp] theorem State.setQueue_keyReqs (s : State) (q : Nat) (x : LaunchQ) : (s.setQueue q x).keyReqs = s.keyReqs := rfl
@[simp] theorem State.setQueue_keyRels (s : State) (q : Nat) (x : LaunchQ) : (s.setQueue q x).keyRels = s.keyRels := rfl
@[simp] theorem State.setQueue_arrivals (s : State) (q : Nat) (x : LaunchQ) : (s.setQueue q x).arrivals = s.arrivals := rfl
@[simp] theorem State.setQueue_incrs (s : State) (q : Nat) (x : LaunchQ) : (s.setQueue q x).incrs = s.incrs := rfl
@[simp] theorem State.setQueue_codeReqs (s : State) (q : Nat) (x : LaunchQ) : (s.setQueue q x).codeReqs = s.codeReqs := rfl
@[simp] theorem State.setQueue_xinv (s : State) (q : Nat) (x : LaunchQ) : (s.setQueue q x).xinv = s.xinv := rfl
@[simp] theorem State.setQueue_rotation (s : State) (q : Nat) (x : LaunchQ) : (s.setQueue q x).rotation = s.rotation := rfl
@[simp] theorem State.setQueue_stackLogs (s : State) (q : Nat) (x : LaunchQ) : (s.setQueue q x).stackLogs = s.stackLogs := rfl
@[simp] theorem State.setQueue_devLog (s : State) (q : Nat) (x : LaunchQ) : (s.setQueue q x).devLog = s.devLog := rfl
@[simp] theorem State.setQueue_devId (s : State) (q : Nat) (x : LaunchQ) : (s.setQueue q x).devId = s.devId := rfl
@[simp] theorem State.setQueue_peers (s : State) (q : Nat) (x : LaunchQ) : (s.setQueue q x).peers = s.peers := rfl
@[simp] theorem State.setQueue_admission (s : State) (q : Nat) (x : LaunchQ) : (s.setQueue q x).admission = s.admission := rfl
@[simp] theorem State.setQueue_routes (s : State) (q : Nat) (x : LaunchQ) : (s.setQueue q x).routes = s.routes := rfl
@[simp] theorem State.setQueue_unreachable (s : State) (q : Nat) (x : LaunchQ) : (s.setQueue q x).unreachable = s.unreachable := rfl
@[simp] theorem State.setQueue_fabricOut (s : State) (q : Nat) (x : LaunchQ) : (s.setQueue q x).fabricOut = s.fabricOut := rfl
@[simp] theorem State.setQueue_owed (s : State) (q : Nat) (x : LaunchQ) : (s.setQueue q x).owed = s.owed := rfl
@[simp] theorem State.setQueue_unsent (s : State) (q : Nat) (x : LaunchQ) : (s.setQueue q x).unsent = s.unsent := rfl
@[simp] theorem State.setQueue_bulks (s : State) (q : Nat) (x : LaunchQ) : (s.setQueue q x).bulks = s.bulks := rfl
@[simp] theorem State.setQueue_bulkOut (s : State) (q : Nat) (x : LaunchQ) : (s.setQueue q x).bulkOut = s.bulkOut := rfl
@[simp] theorem State.setQueue_peerHeld (s : State) (q : Nat) (x : LaunchQ) : (s.setQueue q x).peerHeld = s.peerHeld := rfl
@[simp] theorem State.setQueue_peerOut (s : State) (q : Nat) (x : LaunchQ) : (s.setQueue q x).peerOut = s.peerOut := rfl
@[simp] theorem State.setQueue_apexReports (s : State) (q : Nat) (x : LaunchQ) : (s.setQueue q x).apexReports = s.apexReports := rfl
@[simp] theorem State.setQueue_svn (s : State) (q : Nat) (x : LaunchQ) : (s.setQueue q x).svn = s.svn := rfl
@[simp] theorem State.setQueue_meas (s : State) (q : Nat) (x : LaunchQ) : (s.setQueue q x).meas = s.meas := rfl
@[simp] theorem State.setQueue_operators (s : State) (q : Nat) (x : LaunchQ) : (s.setQueue q x).operators = s.operators := rfl
@[simp] theorem State.setQueue_session (s : State) (q : Nat) (x : LaunchQ) : (s.setQueue q x).session = s.session := rfl
@[simp] theorem State.setQueue_mgmtOut (s : State) (q : Nat) (x : LaunchQ) : (s.setQueue q x).mgmtOut = s.mgmtOut := rfl
@[simp] theorem State.setQueue_throttled (s : State) (q : Nat) (x : LaunchQ) : (s.setQueue q x).throttled = s.throttled := rfl
@[simp] theorem State.setQueue_power (s : State) (q : Nat) (x : LaunchQ) : (s.setQueue q x).power = s.power := rfl

@[simp] theorem State.setRegion_schedule (s : State) (n : Nat) (x : Region) : (s.setRegion n x).schedule = s.schedule := rfl
@[simp] theorem State.setRegion_tick (s : State) (n : Nat) (x : Region) : (s.setRegion n x).tick = s.tick := rfl
@[simp] theorem State.setRegion_cur (s : State) (n : Nat) (x : Region) : (s.setRegion n x).cur = s.cur := rfl
@[simp] theorem State.setRegion_issued (s : State) (n : Nat) (x : Region) : (s.setRegion n x).issued = s.issued := rfl
@[simp] theorem State.setRegion_slots (s : State) (n : Nat) (x : Region) : (s.setRegion n x).slots = s.slots := rfl
@[simp] theorem State.setRegion_cores (s : State) (n : Nat) (x : Region) : (s.setRegion n x).cores = s.cores := rfl
@[simp] theorem State.setRegion_facets (s : State) (n : Nat) (x : Region) : (s.setRegion n x).facets = s.facets := rfl
@[simp] theorem State.setRegion_walkers (s : State) (n : Nat) (x : Region) : (s.setRegion n x).walkers = s.walkers := rfl
@[simp] theorem State.setRegion_ctxs (s : State) (n : Nat) (x : Region) : (s.setRegion n x).ctxs = s.ctxs := rfl
@[simp] theorem State.setRegion_queues (s : State) (n : Nat) (x : Region) : (s.setRegion n x).queues = s.queues := rfl
@[simp] theorem State.setRegion_indexes (s : State) (n : Nat) (x : Region) : (s.setRegion n x).indexes = s.indexes := rfl
@[simp] theorem State.setRegion_mem (s : State) (n : Nat) (x : Region) : (s.setRegion n x).mem = s.mem := rfl
@[simp] theorem State.setRegion_poison (s : State) (n : Nat) (x : Region) : (s.setRegion n x).poison = s.poison := rfl
@[simp] theorem State.setRegion_latent (s : State) (n : Nat) (x : Region) : (s.setRegion n x).latent = s.latent := rfl
@[simp] theorem State.setRegion_keySlots (s : State) (n : Nat) (x : Region) : (s.setRegion n x).keySlots = s.keySlots := rfl
@[simp] theorem State.setRegion_msgs (s : State) (n : Nat) (x : Region) : (s.setRegion n x).msgs = s.msgs := rfl
@[simp] theorem State.setRegion_keyReqs (s : State) (n : Nat) (x : Region) : (s.setRegion n x).keyReqs = s.keyReqs := rfl
@[simp] theorem State.setRegion_keyRels (s : State) (n : Nat) (x : Region) : (s.setRegion n x).keyRels = s.keyRels := rfl
@[simp] theorem State.setRegion_arrivals (s : State) (n : Nat) (x : Region) : (s.setRegion n x).arrivals = s.arrivals := rfl
@[simp] theorem State.setRegion_incrs (s : State) (n : Nat) (x : Region) : (s.setRegion n x).incrs = s.incrs := rfl
@[simp] theorem State.setRegion_codeReqs (s : State) (n : Nat) (x : Region) : (s.setRegion n x).codeReqs = s.codeReqs := rfl
@[simp] theorem State.setRegion_xinv (s : State) (n : Nat) (x : Region) : (s.setRegion n x).xinv = s.xinv := rfl
@[simp] theorem State.setRegion_rotation (s : State) (n : Nat) (x : Region) : (s.setRegion n x).rotation = s.rotation := rfl
@[simp] theorem State.setRegion_stackLogs (s : State) (n : Nat) (x : Region) : (s.setRegion n x).stackLogs = s.stackLogs := rfl
@[simp] theorem State.setRegion_devLog (s : State) (n : Nat) (x : Region) : (s.setRegion n x).devLog = s.devLog := rfl
@[simp] theorem State.setRegion_devId (s : State) (n : Nat) (x : Region) : (s.setRegion n x).devId = s.devId := rfl
@[simp] theorem State.setRegion_peers (s : State) (n : Nat) (x : Region) : (s.setRegion n x).peers = s.peers := rfl
@[simp] theorem State.setRegion_admission (s : State) (n : Nat) (x : Region) : (s.setRegion n x).admission = s.admission := rfl
@[simp] theorem State.setRegion_routes (s : State) (n : Nat) (x : Region) : (s.setRegion n x).routes = s.routes := rfl
@[simp] theorem State.setRegion_unreachable (s : State) (n : Nat) (x : Region) : (s.setRegion n x).unreachable = s.unreachable := rfl
@[simp] theorem State.setRegion_fabricOut (s : State) (n : Nat) (x : Region) : (s.setRegion n x).fabricOut = s.fabricOut := rfl
@[simp] theorem State.setRegion_owed (s : State) (n : Nat) (x : Region) : (s.setRegion n x).owed = s.owed := rfl
@[simp] theorem State.setRegion_unsent (s : State) (n : Nat) (x : Region) : (s.setRegion n x).unsent = s.unsent := rfl
@[simp] theorem State.setRegion_bulks (s : State) (n : Nat) (x : Region) : (s.setRegion n x).bulks = s.bulks := rfl
@[simp] theorem State.setRegion_bulkOut (s : State) (n : Nat) (x : Region) : (s.setRegion n x).bulkOut = s.bulkOut := rfl
@[simp] theorem State.setRegion_peerHeld (s : State) (n : Nat) (x : Region) : (s.setRegion n x).peerHeld = s.peerHeld := rfl
@[simp] theorem State.setRegion_peerOut (s : State) (n : Nat) (x : Region) : (s.setRegion n x).peerOut = s.peerOut := rfl
@[simp] theorem State.setRegion_apexReports (s : State) (n : Nat) (x : Region) : (s.setRegion n x).apexReports = s.apexReports := rfl
@[simp] theorem State.setRegion_svn (s : State) (n : Nat) (x : Region) : (s.setRegion n x).svn = s.svn := rfl
@[simp] theorem State.setRegion_meas (s : State) (n : Nat) (x : Region) : (s.setRegion n x).meas = s.meas := rfl
@[simp] theorem State.setRegion_operators (s : State) (n : Nat) (x : Region) : (s.setRegion n x).operators = s.operators := rfl
@[simp] theorem State.setRegion_session (s : State) (n : Nat) (x : Region) : (s.setRegion n x).session = s.session := rfl
@[simp] theorem State.setRegion_mgmtOut (s : State) (n : Nat) (x : Region) : (s.setRegion n x).mgmtOut = s.mgmtOut := rfl
@[simp] theorem State.setRegion_throttled (s : State) (n : Nat) (x : Region) : (s.setRegion n x).throttled = s.throttled := rfl
@[simp] theorem State.setRegion_power (s : State) (n : Nat) (x : Region) : (s.setRegion n x).power = s.power := rfl

@[simp] theorem State.setIndex_schedule (s : State) (n : Nat) (x : IndexSlot) : (s.setIndex n x).schedule = s.schedule := rfl
@[simp] theorem State.setIndex_tick (s : State) (n : Nat) (x : IndexSlot) : (s.setIndex n x).tick = s.tick := rfl
@[simp] theorem State.setIndex_cur (s : State) (n : Nat) (x : IndexSlot) : (s.setIndex n x).cur = s.cur := rfl
@[simp] theorem State.setIndex_issued (s : State) (n : Nat) (x : IndexSlot) : (s.setIndex n x).issued = s.issued := rfl
@[simp] theorem State.setIndex_slots (s : State) (n : Nat) (x : IndexSlot) : (s.setIndex n x).slots = s.slots := rfl
@[simp] theorem State.setIndex_cores (s : State) (n : Nat) (x : IndexSlot) : (s.setIndex n x).cores = s.cores := rfl
@[simp] theorem State.setIndex_facets (s : State) (n : Nat) (x : IndexSlot) : (s.setIndex n x).facets = s.facets := rfl
@[simp] theorem State.setIndex_walkers (s : State) (n : Nat) (x : IndexSlot) : (s.setIndex n x).walkers = s.walkers := rfl
@[simp] theorem State.setIndex_ctxs (s : State) (n : Nat) (x : IndexSlot) : (s.setIndex n x).ctxs = s.ctxs := rfl
@[simp] theorem State.setIndex_queues (s : State) (n : Nat) (x : IndexSlot) : (s.setIndex n x).queues = s.queues := rfl
@[simp] theorem State.setIndex_regions (s : State) (n : Nat) (x : IndexSlot) : (s.setIndex n x).regions = s.regions := rfl
@[simp] theorem State.setIndex_mem (s : State) (n : Nat) (x : IndexSlot) : (s.setIndex n x).mem = s.mem := rfl
@[simp] theorem State.setIndex_poison (s : State) (n : Nat) (x : IndexSlot) : (s.setIndex n x).poison = s.poison := rfl
@[simp] theorem State.setIndex_latent (s : State) (n : Nat) (x : IndexSlot) : (s.setIndex n x).latent = s.latent := rfl
@[simp] theorem State.setIndex_keySlots (s : State) (n : Nat) (x : IndexSlot) : (s.setIndex n x).keySlots = s.keySlots := rfl
@[simp] theorem State.setIndex_msgs (s : State) (n : Nat) (x : IndexSlot) : (s.setIndex n x).msgs = s.msgs := rfl
@[simp] theorem State.setIndex_keyReqs (s : State) (n : Nat) (x : IndexSlot) : (s.setIndex n x).keyReqs = s.keyReqs := rfl
@[simp] theorem State.setIndex_keyRels (s : State) (n : Nat) (x : IndexSlot) : (s.setIndex n x).keyRels = s.keyRels := rfl
@[simp] theorem State.setIndex_arrivals (s : State) (n : Nat) (x : IndexSlot) : (s.setIndex n x).arrivals = s.arrivals := rfl
@[simp] theorem State.setIndex_incrs (s : State) (n : Nat) (x : IndexSlot) : (s.setIndex n x).incrs = s.incrs := rfl
@[simp] theorem State.setIndex_codeReqs (s : State) (n : Nat) (x : IndexSlot) : (s.setIndex n x).codeReqs = s.codeReqs := rfl
@[simp] theorem State.setIndex_xinv (s : State) (n : Nat) (x : IndexSlot) : (s.setIndex n x).xinv = s.xinv := rfl
@[simp] theorem State.setIndex_rotation (s : State) (n : Nat) (x : IndexSlot) : (s.setIndex n x).rotation = s.rotation := rfl
@[simp] theorem State.setIndex_stackLogs (s : State) (n : Nat) (x : IndexSlot) : (s.setIndex n x).stackLogs = s.stackLogs := rfl
@[simp] theorem State.setIndex_devLog (s : State) (n : Nat) (x : IndexSlot) : (s.setIndex n x).devLog = s.devLog := rfl
@[simp] theorem State.setIndex_devId (s : State) (n : Nat) (x : IndexSlot) : (s.setIndex n x).devId = s.devId := rfl
@[simp] theorem State.setIndex_peers (s : State) (n : Nat) (x : IndexSlot) : (s.setIndex n x).peers = s.peers := rfl
@[simp] theorem State.setIndex_admission (s : State) (n : Nat) (x : IndexSlot) : (s.setIndex n x).admission = s.admission := rfl
@[simp] theorem State.setIndex_routes (s : State) (n : Nat) (x : IndexSlot) : (s.setIndex n x).routes = s.routes := rfl
@[simp] theorem State.setIndex_unreachable (s : State) (n : Nat) (x : IndexSlot) : (s.setIndex n x).unreachable = s.unreachable := rfl
@[simp] theorem State.setIndex_fabricOut (s : State) (n : Nat) (x : IndexSlot) : (s.setIndex n x).fabricOut = s.fabricOut := rfl
@[simp] theorem State.setIndex_owed (s : State) (n : Nat) (x : IndexSlot) : (s.setIndex n x).owed = s.owed := rfl
@[simp] theorem State.setIndex_unsent (s : State) (n : Nat) (x : IndexSlot) : (s.setIndex n x).unsent = s.unsent := rfl
@[simp] theorem State.setIndex_bulks (s : State) (n : Nat) (x : IndexSlot) : (s.setIndex n x).bulks = s.bulks := rfl
@[simp] theorem State.setIndex_bulkOut (s : State) (n : Nat) (x : IndexSlot) : (s.setIndex n x).bulkOut = s.bulkOut := rfl
@[simp] theorem State.setIndex_peerHeld (s : State) (n : Nat) (x : IndexSlot) : (s.setIndex n x).peerHeld = s.peerHeld := rfl
@[simp] theorem State.setIndex_peerOut (s : State) (n : Nat) (x : IndexSlot) : (s.setIndex n x).peerOut = s.peerOut := rfl
@[simp] theorem State.setIndex_apexReports (s : State) (n : Nat) (x : IndexSlot) : (s.setIndex n x).apexReports = s.apexReports := rfl
@[simp] theorem State.setIndex_svn (s : State) (n : Nat) (x : IndexSlot) : (s.setIndex n x).svn = s.svn := rfl
@[simp] theorem State.setIndex_meas (s : State) (n : Nat) (x : IndexSlot) : (s.setIndex n x).meas = s.meas := rfl
@[simp] theorem State.setIndex_operators (s : State) (n : Nat) (x : IndexSlot) : (s.setIndex n x).operators = s.operators := rfl
@[simp] theorem State.setIndex_session (s : State) (n : Nat) (x : IndexSlot) : (s.setIndex n x).session = s.session := rfl
@[simp] theorem State.setIndex_mgmtOut (s : State) (n : Nat) (x : IndexSlot) : (s.setIndex n x).mgmtOut = s.mgmtOut := rfl
@[simp] theorem State.setIndex_throttled (s : State) (n : Nat) (x : IndexSlot) : (s.setIndex n x).throttled = s.throttled := rfl
@[simp] theorem State.setIndex_power (s : State) (n : Nat) (x : IndexSlot) : (s.setIndex n x).power = s.power := rfl

@[simp] theorem State.setHere_schedule (s : State) (t : Slot) : (s.setHere t).schedule = s.schedule := rfl
@[simp] theorem State.setHere_tick (s : State) (t : Slot) : (s.setHere t).tick = s.tick := rfl
@[simp] theorem State.setHere_cur (s : State) (t : Slot) : (s.setHere t).cur = s.cur := rfl
@[simp] theorem State.setHere_issued (s : State) (t : Slot) : (s.setHere t).issued = s.issued := rfl
@[simp] theorem State.setHere_cores (s : State) (t : Slot) : (s.setHere t).cores = s.cores := rfl
@[simp] theorem State.setHere_facets (s : State) (t : Slot) : (s.setHere t).facets = s.facets := rfl
@[simp] theorem State.setHere_walkers (s : State) (t : Slot) : (s.setHere t).walkers = s.walkers := rfl
@[simp] theorem State.setHere_ctxs (s : State) (t : Slot) : (s.setHere t).ctxs = s.ctxs := rfl
@[simp] theorem State.setHere_queues (s : State) (t : Slot) : (s.setHere t).queues = s.queues := rfl
@[simp] theorem State.setHere_regions (s : State) (t : Slot) : (s.setHere t).regions = s.regions := rfl
@[simp] theorem State.setHere_indexes (s : State) (t : Slot) : (s.setHere t).indexes = s.indexes := rfl
@[simp] theorem State.setHere_mem (s : State) (t : Slot) : (s.setHere t).mem = s.mem := rfl
@[simp] theorem State.setHere_poison (s : State) (t : Slot) : (s.setHere t).poison = s.poison := rfl
@[simp] theorem State.setHere_latent (s : State) (t : Slot) : (s.setHere t).latent = s.latent := rfl
@[simp] theorem State.setHere_keySlots (s : State) (t : Slot) : (s.setHere t).keySlots = s.keySlots := rfl
@[simp] theorem State.setHere_msgs (s : State) (t : Slot) : (s.setHere t).msgs = s.msgs := rfl
@[simp] theorem State.setHere_keyReqs (s : State) (t : Slot) : (s.setHere t).keyReqs = s.keyReqs := rfl
@[simp] theorem State.setHere_keyRels (s : State) (t : Slot) : (s.setHere t).keyRels = s.keyRels := rfl
@[simp] theorem State.setHere_arrivals (s : State) (t : Slot) : (s.setHere t).arrivals = s.arrivals := rfl
@[simp] theorem State.setHere_incrs (s : State) (t : Slot) : (s.setHere t).incrs = s.incrs := rfl
@[simp] theorem State.setHere_codeReqs (s : State) (t : Slot) : (s.setHere t).codeReqs = s.codeReqs := rfl
@[simp] theorem State.setHere_xinv (s : State) (t : Slot) : (s.setHere t).xinv = s.xinv := rfl
@[simp] theorem State.setHere_rotation (s : State) (t : Slot) : (s.setHere t).rotation = s.rotation := rfl
@[simp] theorem State.setHere_stackLogs (s : State) (t : Slot) : (s.setHere t).stackLogs = s.stackLogs := rfl
@[simp] theorem State.setHere_devLog (s : State) (t : Slot) : (s.setHere t).devLog = s.devLog := rfl
@[simp] theorem State.setHere_devId (s : State) (t : Slot) : (s.setHere t).devId = s.devId := rfl
@[simp] theorem State.setHere_peers (s : State) (t : Slot) : (s.setHere t).peers = s.peers := rfl
@[simp] theorem State.setHere_admission (s : State) (t : Slot) : (s.setHere t).admission = s.admission := rfl
@[simp] theorem State.setHere_routes (s : State) (t : Slot) : (s.setHere t).routes = s.routes := rfl
@[simp] theorem State.setHere_unreachable (s : State) (t : Slot) : (s.setHere t).unreachable = s.unreachable := rfl
@[simp] theorem State.setHere_fabricOut (s : State) (t : Slot) : (s.setHere t).fabricOut = s.fabricOut := rfl
@[simp] theorem State.setHere_owed (s : State) (t : Slot) : (s.setHere t).owed = s.owed := rfl
@[simp] theorem State.setHere_unsent (s : State) (t : Slot) : (s.setHere t).unsent = s.unsent := rfl
@[simp] theorem State.setHere_bulks (s : State) (t : Slot) : (s.setHere t).bulks = s.bulks := rfl
@[simp] theorem State.setHere_bulkOut (s : State) (t : Slot) : (s.setHere t).bulkOut = s.bulkOut := rfl
@[simp] theorem State.setHere_peerHeld (s : State) (t : Slot) : (s.setHere t).peerHeld = s.peerHeld := rfl
@[simp] theorem State.setHere_peerOut (s : State) (t : Slot) : (s.setHere t).peerOut = s.peerOut := rfl
@[simp] theorem State.setHere_apexReports (s : State) (t : Slot) : (s.setHere t).apexReports = s.apexReports := rfl
@[simp] theorem State.setHere_svn (s : State) (t : Slot) : (s.setHere t).svn = s.svn := rfl
@[simp] theorem State.setHere_meas (s : State) (t : Slot) : (s.setHere t).meas = s.meas := rfl
@[simp] theorem State.setHere_operators (s : State) (t : Slot) : (s.setHere t).operators = s.operators := rfl
@[simp] theorem State.setHere_session (s : State) (t : Slot) : (s.setHere t).session = s.session := rfl
@[simp] theorem State.setHere_mgmtOut (s : State) (t : Slot) : (s.setHere t).mgmtOut = s.mgmtOut := rfl
@[simp] theorem State.setHere_throttled (s : State) (t : Slot) : (s.setHere t).throttled = s.throttled := rfl
@[simp] theorem State.setHere_power (s : State) (t : Slot) : (s.setHere t).power = s.power := rfl

@[simp] theorem State.setMac_schedule (s : State) (f m : Nat) (y : Mac) : (s.setMac f m y).schedule = s.schedule := rfl
@[simp] theorem State.setMac_tick (s : State) (f m : Nat) (y : Mac) : (s.setMac f m y).tick = s.tick := rfl
@[simp] theorem State.setMac_cur (s : State) (f m : Nat) (y : Mac) : (s.setMac f m y).cur = s.cur := rfl
@[simp] theorem State.setMac_issued (s : State) (f m : Nat) (y : Mac) : (s.setMac f m y).issued = s.issued := rfl
@[simp] theorem State.setMac_slots (s : State) (f m : Nat) (y : Mac) : (s.setMac f m y).slots = s.slots := rfl
@[simp] theorem State.setMac_cores (s : State) (f m : Nat) (y : Mac) : (s.setMac f m y).cores = s.cores := rfl
@[simp] theorem State.setMac_walkers (s : State) (f m : Nat) (y : Mac) : (s.setMac f m y).walkers = s.walkers := rfl
@[simp] theorem State.setMac_ctxs (s : State) (f m : Nat) (y : Mac) : (s.setMac f m y).ctxs = s.ctxs := rfl
@[simp] theorem State.setMac_queues (s : State) (f m : Nat) (y : Mac) : (s.setMac f m y).queues = s.queues := rfl
@[simp] theorem State.setMac_regions (s : State) (f m : Nat) (y : Mac) : (s.setMac f m y).regions = s.regions := rfl
@[simp] theorem State.setMac_indexes (s : State) (f m : Nat) (y : Mac) : (s.setMac f m y).indexes = s.indexes := rfl
@[simp] theorem State.setMac_mem (s : State) (f m : Nat) (y : Mac) : (s.setMac f m y).mem = s.mem := rfl
@[simp] theorem State.setMac_poison (s : State) (f m : Nat) (y : Mac) : (s.setMac f m y).poison = s.poison := rfl
@[simp] theorem State.setMac_latent (s : State) (f m : Nat) (y : Mac) : (s.setMac f m y).latent = s.latent := rfl
@[simp] theorem State.setMac_keySlots (s : State) (f m : Nat) (y : Mac) : (s.setMac f m y).keySlots = s.keySlots := rfl
@[simp] theorem State.setMac_msgs (s : State) (f m : Nat) (y : Mac) : (s.setMac f m y).msgs = s.msgs := rfl
@[simp] theorem State.setMac_keyReqs (s : State) (f m : Nat) (y : Mac) : (s.setMac f m y).keyReqs = s.keyReqs := rfl
@[simp] theorem State.setMac_keyRels (s : State) (f m : Nat) (y : Mac) : (s.setMac f m y).keyRels = s.keyRels := rfl
@[simp] theorem State.setMac_arrivals (s : State) (f m : Nat) (y : Mac) : (s.setMac f m y).arrivals = s.arrivals := rfl
@[simp] theorem State.setMac_incrs (s : State) (f m : Nat) (y : Mac) : (s.setMac f m y).incrs = s.incrs := rfl
@[simp] theorem State.setMac_codeReqs (s : State) (f m : Nat) (y : Mac) : (s.setMac f m y).codeReqs = s.codeReqs := rfl
@[simp] theorem State.setMac_xinv (s : State) (f m : Nat) (y : Mac) : (s.setMac f m y).xinv = s.xinv := rfl
@[simp] theorem State.setMac_rotation (s : State) (f m : Nat) (y : Mac) : (s.setMac f m y).rotation = s.rotation := rfl
@[simp] theorem State.setMac_stackLogs (s : State) (f m : Nat) (y : Mac) : (s.setMac f m y).stackLogs = s.stackLogs := rfl
@[simp] theorem State.setMac_devLog (s : State) (f m : Nat) (y : Mac) : (s.setMac f m y).devLog = s.devLog := rfl
@[simp] theorem State.setMac_devId (s : State) (f m : Nat) (y : Mac) : (s.setMac f m y).devId = s.devId := rfl
@[simp] theorem State.setMac_peers (s : State) (f m : Nat) (y : Mac) : (s.setMac f m y).peers = s.peers := rfl
@[simp] theorem State.setMac_admission (s : State) (f m : Nat) (y : Mac) : (s.setMac f m y).admission = s.admission := rfl
@[simp] theorem State.setMac_routes (s : State) (f m : Nat) (y : Mac) : (s.setMac f m y).routes = s.routes := rfl
@[simp] theorem State.setMac_unreachable (s : State) (f m : Nat) (y : Mac) : (s.setMac f m y).unreachable = s.unreachable := rfl
@[simp] theorem State.setMac_fabricOut (s : State) (f m : Nat) (y : Mac) : (s.setMac f m y).fabricOut = s.fabricOut := rfl
@[simp] theorem State.setMac_owed (s : State) (f m : Nat) (y : Mac) : (s.setMac f m y).owed = s.owed := rfl
@[simp] theorem State.setMac_unsent (s : State) (f m : Nat) (y : Mac) : (s.setMac f m y).unsent = s.unsent := rfl
@[simp] theorem State.setMac_bulks (s : State) (f m : Nat) (y : Mac) : (s.setMac f m y).bulks = s.bulks := rfl
@[simp] theorem State.setMac_bulkOut (s : State) (f m : Nat) (y : Mac) : (s.setMac f m y).bulkOut = s.bulkOut := rfl
@[simp] theorem State.setMac_peerHeld (s : State) (f m : Nat) (y : Mac) : (s.setMac f m y).peerHeld = s.peerHeld := rfl
@[simp] theorem State.setMac_peerOut (s : State) (f m : Nat) (y : Mac) : (s.setMac f m y).peerOut = s.peerOut := rfl
@[simp] theorem State.setMac_apexReports (s : State) (f m : Nat) (y : Mac) : (s.setMac f m y).apexReports = s.apexReports := rfl
@[simp] theorem State.setMac_svn (s : State) (f m : Nat) (y : Mac) : (s.setMac f m y).svn = s.svn := rfl
@[simp] theorem State.setMac_meas (s : State) (f m : Nat) (y : Mac) : (s.setMac f m y).meas = s.meas := rfl
@[simp] theorem State.setMac_operators (s : State) (f m : Nat) (y : Mac) : (s.setMac f m y).operators = s.operators := rfl
@[simp] theorem State.setMac_session (s : State) (f m : Nat) (y : Mac) : (s.setMac f m y).session = s.session := rfl
@[simp] theorem State.setMac_mgmtOut (s : State) (f m : Nat) (y : Mac) : (s.setMac f m y).mgmtOut = s.mgmtOut := rfl
@[simp] theorem State.setMac_throttled (s : State) (f m : Nat) (y : Mac) : (s.setMac f m y).throttled = s.throttled := rfl
@[simp] theorem State.setMac_power (s : State) (f m : Nat) (y : Mac) : (s.setMac f m y).power = s.power := rfl

/-! ## Updates of a slot -/

theorem Slot.setPhys_eq (t : Slot) (n : Nat) (x : Dword) :
    t.setPhys n x = { t with regs := (t.setPhys n x).regs, bank := (t.setPhys n x).bank } := by
  unfold Slot.setPhys; split
  · rfl
  · split <;> rfl

@[simp] theorem Slot.setPhys_pend (t : Slot) (n : Nat) (x : Dword) : (t.setPhys n x).pend = t.pend := by rw [Slot.setPhys_eq]
@[simp] theorem Slot.setPhys_v (t : Slot) (n : Nat) (x : Dword) : (t.setPhys n x).v = t.v := by rw [Slot.setPhys_eq]
@[simp] theorem Slot.setPhys_p (t : Slot) (n : Nat) (x : Dword) : (t.setPhys n x).p = t.p := by rw [Slot.setPhys_eq]
@[simp] theorem Slot.setPhys_m (t : Slot) (n : Nat) (x : Dword) : (t.setPhys n x).m = t.m := by rw [Slot.setPhys_eq]
@[simp] theorem Slot.setPhys_pc (t : Slot) (n : Nat) (x : Dword) : (t.setPhys n x).pc = t.pc := by rw [Slot.setPhys_eq]
@[simp] theorem Slot.setPhys_sup (t : Slot) (n : Nat) (x : Dword) : (t.setPhys n x).sup = t.sup := by rw [Slot.setPhys_eq]
@[simp] theorem Slot.setPhys_busy (t : Slot) (n : Nat) (x : Dword) : (t.setPhys n x).busy = t.busy := by rw [Slot.setPhys_eq]
@[simp] theorem Slot.setPhys_start (t : Slot) (n : Nat) (x : Dword) : (t.setPhys n x).start = t.start := by rw [Slot.setPhys_eq]
@[simp] theorem Slot.setPhys_conv (t : Slot) (n : Nat) (x : Dword) : (t.setPhys n x).conv = t.conv := by rw [Slot.setPhys_eq]
@[simp] theorem Slot.setPhys_leaving (t : Slot) (n : Nat) (x : Dword) : (t.setPhys n x).leaving = t.leaving := by rw [Slot.setPhys_eq]
@[simp] theorem Slot.setPhys_fpctl (t : Slot) (n : Nat) (x : Dword) : (t.setPhys n x).fpctl = t.fpctl := by rw [Slot.setPhys_eq]
@[simp] theorem Slot.setPhys_mxcfg (t : Slot) (n : Nat) (x : Dword) : (t.setPhys n x).mxcfg = t.mxcfg := by rw [Slot.setPhys_eq]
@[simp] theorem Slot.setPhys_sca (t : Slot) (n : Nat) (x : Dword) : (t.setPhys n x).sca = t.sca := by rw [Slot.setPhys_eq]
@[simp] theorem Slot.setPhys_scb (t : Slot) (n : Nat) (x : Dword) : (t.setPhys n x).scb = t.scb := by rw [Slot.setPhys_eq]
@[simp] theorem Slot.setPhys_swin (t : Slot) (n : Nat) (x : Dword) : (t.setPhys n x).swin = t.swin := by rw [Slot.setPhys_eq]
@[simp] theorem Slot.setPhys_tcause (t : Slot) (n : Nat) (x : Dword) : (t.setPhys n x).tcause = t.tcause := by rw [Slot.setPhys_eq]
@[simp] theorem Slot.setPhys_tval (t : Slot) (n : Nat) (x : Dword) : (t.setPhys n x).tval = t.tval := by rw [Slot.setPhys_eq]
@[simp] theorem Slot.setPhys_epc (t : Slot) (n : Nat) (x : Dword) : (t.setPhys n x).epc = t.epc := by rw [Slot.setPhys_eq]
@[simp] theorem Slot.setPhys_hdr (t : Slot) (n : Nat) (x : Dword) : (t.setPhys n x).hdr = t.hdr := by rw [Slot.setPhys_eq]
@[simp] theorem Slot.setPhys_joinRef (t : Slot) (n : Nat) (x : Dword) : (t.setPhys n x).joinRef = t.joinRef := by rw [Slot.setPhys_eq]
@[simp] theorem Slot.setPhys_keys (t : Slot) (n : Nat) (x : Dword) : (t.setPhys n x).keys = t.keys := by rw [Slot.setPhys_eq]
@[simp] theorem Slot.setPhys_pendJoin (t : Slot) (n : Nat) (x : Dword) : (t.setPhys n x).pendJoin = t.pendJoin := by rw [Slot.setPhys_eq]
@[simp] theorem Slot.setPhys_allow (t : Slot) (n : Nat) (x : Dword) : (t.setPhys n x).allow = t.allow := by rw [Slot.setPhys_eq]
@[simp] theorem Slot.setPhys_cpq (t : Slot) (n : Nat) (x : Dword) : (t.setPhys n x).cpq = t.cpq := by rw [Slot.setPhys_eq]
@[simp] theorem Slot.setPhys_mxq (t : Slot) (n : Nat) (x : Dword) : (t.setPhys n x).mxq = t.mxq := by rw [Slot.setPhys_eq]
@[simp] theorem Slot.setPhys_ssq (t : Slot) (n : Nat) (x : Dword) : (t.setPhys n x).ssq = t.ssq := by rw [Slot.setPhys_eq]
@[simp] theorem Slot.setPhys_ixq (t : Slot) (n : Nat) (x : Dword) : (t.setPhys n x).ixq = t.ixq := by rw [Slot.setPhys_eq]
@[simp] theorem Slot.setPhys_ixo (t : Slot) (n : Nat) (x : Dword) : (t.setPhys n x).ixo = t.ixo := by rw [Slot.setPhys_eq]
@[simp] theorem Slot.setPhys_sso (t : Slot) (n : Nat) (x : Dword) : (t.setPhys n x).sso = t.sso := by rw [Slot.setPhys_eq]
@[simp] theorem Slot.setPhys_hold (t : Slot) (n : Nat) (x : Dword) : (t.setPhys n x).hold = t.hold := by rw [Slot.setPhys_eq]
@[simp] theorem Slot.setPhys_bypass (t : Slot) (n : Nat) (x : Dword) : (t.setPhys n x).bypass = t.bypass := by rw [Slot.setPhys_eq]
@[simp] theorem Slot.setPhys_faultWord (t : Slot) (n : Nat) (x : Dword) : (t.setPhys n x).faultWord = t.faultWord := by rw [Slot.setPhys_eq]
@[simp] theorem Slot.setPhys_faultWin (t : Slot) (n : Nat) (x : Dword) : (t.setPhys n x).faultWin = t.faultWin := by rw [Slot.setPhys_eq]
@[simp] theorem Slot.setPhys_replay (t : Slot) (n : Nat) (x : Dword) : (t.setPhys n x).replay = t.replay := by rw [Slot.setPhys_eq]
@[simp] theorem Slot.setPhys_sbuf (t : Slot) (n : Nat) (x : Dword) : (t.setPhys n x).sbuf = t.sbuf := by rw [Slot.setPhys_eq]
@[simp] theorem Slot.setPhys_early (t : Slot) (n : Nat) (x : Dword) : (t.setPhys n x).early = t.early := by rw [Slot.setPhys_eq]
@[simp] theorem Slot.setPhys_duePreempt (t : Slot) (n : Nat) (x : Dword) : (t.setPhys n x).duePreempt = t.duePreempt := by rw [Slot.setPhys_eq]
@[simp] theorem Slot.setPhys_dueCorr (t : Slot) (n : Nat) (x : Dword) : (t.setPhys n x).dueCorr = t.dueCorr := by rw [Slot.setPhys_eq]
@[simp] theorem Slot.setPhys_dueStore (t : Slot) (n : Nat) (x : Dword) : (t.setPhys n x).dueStore = t.dueStore := by rw [Slot.setPhys_eq]
@[simp] theorem Slot.setPhys_duePage (t : Slot) (n : Nat) (x : Dword) : (t.setPhys n x).duePage = t.duePage := by rw [Slot.setPhys_eq]
@[simp] theorem Slot.setPhys_block (t : Slot) (n : Nat) (x : Dword) : (t.setPhys n x).block = t.block := by rw [Slot.setPhys_eq]
@[simp] theorem Slot.setPhys_waddr0 (t : Slot) (n : Nat) (x : Dword) : (t.setPhys n x).waddr0 = t.waddr0 := by rw [Slot.setPhys_eq]
@[simp] theorem Slot.setPhys_wctl0 (t : Slot) (n : Nat) (x : Dword) : (t.setPhys n x).wctl0 = t.wctl0 := by rw [Slot.setPhys_eq]
@[simp] theorem Slot.setPhys_waddr1 (t : Slot) (n : Nat) (x : Dword) : (t.setPhys n x).waddr1 = t.waddr1 := by rw [Slot.setPhys_eq]
@[simp] theorem Slot.setPhys_wctl1 (t : Slot) (n : Nat) (x : Dword) : (t.setPhys n x).wctl1 = t.wctl1 := by rw [Slot.setPhys_eq]
@[simp] theorem Slot.setPhys_bell (t : Slot) (n : Nat) (x : Dword) : (t.setPhys n x).bell = t.bell := by rw [Slot.setPhys_eq]
@[simp] theorem Slot.setPhys_wait (t : Slot) (n : Nat) (x : Dword) : (t.setPhys n x).wait = t.wait := by rw [Slot.setPhys_eq]
@[simp] theorem Slot.setPhys_xf (t : Slot) (n : Nat) (x : Dword) : (t.setPhys n x).xf = t.xf := by rw [Slot.setPhys_eq]
@[simp] theorem Slot.setPhys_beat (t : Slot) (n : Nat) (x : Dword) : (t.setPhys n x).beat = t.beat := by rw [Slot.setPhys_eq]
@[simp] theorem Slot.setPhys_examined (t : Slot) (n : Nat) (x : Dword) : (t.setPhys n x).examined = t.examined := by rw [Slot.setPhys_eq]

@[simp] theorem Slot.setS_pend (t : Slot) (d : Nat) (x : Dword) : (t.setS d x).pend = t.pend := Slot.setPhys_pend _ _ _
@[simp] theorem Slot.setS_v (t : Slot) (d : Nat) (x : Dword) : (t.setS d x).v = t.v := Slot.setPhys_v _ _ _
@[simp] theorem Slot.setS_p (t : Slot) (d : Nat) (x : Dword) : (t.setS d x).p = t.p := Slot.setPhys_p _ _ _
@[simp] theorem Slot.setS_m (t : Slot) (d : Nat) (x : Dword) : (t.setS d x).m = t.m := Slot.setPhys_m _ _ _
@[simp] theorem Slot.setS_pc (t : Slot) (d : Nat) (x : Dword) : (t.setS d x).pc = t.pc := Slot.setPhys_pc _ _ _
@[simp] theorem Slot.setS_sup (t : Slot) (d : Nat) (x : Dword) : (t.setS d x).sup = t.sup := Slot.setPhys_sup _ _ _
@[simp] theorem Slot.setS_busy (t : Slot) (d : Nat) (x : Dword) : (t.setS d x).busy = t.busy := Slot.setPhys_busy _ _ _
@[simp] theorem Slot.setS_start (t : Slot) (d : Nat) (x : Dword) : (t.setS d x).start = t.start := Slot.setPhys_start _ _ _
@[simp] theorem Slot.setS_conv (t : Slot) (d : Nat) (x : Dword) : (t.setS d x).conv = t.conv := Slot.setPhys_conv _ _ _
@[simp] theorem Slot.setS_leaving (t : Slot) (d : Nat) (x : Dword) : (t.setS d x).leaving = t.leaving := Slot.setPhys_leaving _ _ _
@[simp] theorem Slot.setS_fpctl (t : Slot) (d : Nat) (x : Dword) : (t.setS d x).fpctl = t.fpctl := Slot.setPhys_fpctl _ _ _
@[simp] theorem Slot.setS_mxcfg (t : Slot) (d : Nat) (x : Dword) : (t.setS d x).mxcfg = t.mxcfg := Slot.setPhys_mxcfg _ _ _
@[simp] theorem Slot.setS_sca (t : Slot) (d : Nat) (x : Dword) : (t.setS d x).sca = t.sca := Slot.setPhys_sca _ _ _
@[simp] theorem Slot.setS_scb (t : Slot) (d : Nat) (x : Dword) : (t.setS d x).scb = t.scb := Slot.setPhys_scb _ _ _
@[simp] theorem Slot.setS_swin (t : Slot) (d : Nat) (x : Dword) : (t.setS d x).swin = t.swin := Slot.setPhys_swin _ _ _
@[simp] theorem Slot.setS_tcause (t : Slot) (d : Nat) (x : Dword) : (t.setS d x).tcause = t.tcause := Slot.setPhys_tcause _ _ _
@[simp] theorem Slot.setS_tval (t : Slot) (d : Nat) (x : Dword) : (t.setS d x).tval = t.tval := Slot.setPhys_tval _ _ _
@[simp] theorem Slot.setS_epc (t : Slot) (d : Nat) (x : Dword) : (t.setS d x).epc = t.epc := Slot.setPhys_epc _ _ _
@[simp] theorem Slot.setS_hdr (t : Slot) (d : Nat) (x : Dword) : (t.setS d x).hdr = t.hdr := Slot.setPhys_hdr _ _ _
@[simp] theorem Slot.setS_joinRef (t : Slot) (d : Nat) (x : Dword) : (t.setS d x).joinRef = t.joinRef := Slot.setPhys_joinRef _ _ _
@[simp] theorem Slot.setS_keys (t : Slot) (d : Nat) (x : Dword) : (t.setS d x).keys = t.keys := Slot.setPhys_keys _ _ _
@[simp] theorem Slot.setS_pendJoin (t : Slot) (d : Nat) (x : Dword) : (t.setS d x).pendJoin = t.pendJoin := Slot.setPhys_pendJoin _ _ _
@[simp] theorem Slot.setS_allow (t : Slot) (d : Nat) (x : Dword) : (t.setS d x).allow = t.allow := Slot.setPhys_allow _ _ _
@[simp] theorem Slot.setS_cpq (t : Slot) (d : Nat) (x : Dword) : (t.setS d x).cpq = t.cpq := Slot.setPhys_cpq _ _ _
@[simp] theorem Slot.setS_mxq (t : Slot) (d : Nat) (x : Dword) : (t.setS d x).mxq = t.mxq := Slot.setPhys_mxq _ _ _
@[simp] theorem Slot.setS_ssq (t : Slot) (d : Nat) (x : Dword) : (t.setS d x).ssq = t.ssq := Slot.setPhys_ssq _ _ _
@[simp] theorem Slot.setS_ixq (t : Slot) (d : Nat) (x : Dword) : (t.setS d x).ixq = t.ixq := Slot.setPhys_ixq _ _ _
@[simp] theorem Slot.setS_ixo (t : Slot) (d : Nat) (x : Dword) : (t.setS d x).ixo = t.ixo := Slot.setPhys_ixo _ _ _
@[simp] theorem Slot.setS_sso (t : Slot) (d : Nat) (x : Dword) : (t.setS d x).sso = t.sso := Slot.setPhys_sso _ _ _
@[simp] theorem Slot.setS_hold (t : Slot) (d : Nat) (x : Dword) : (t.setS d x).hold = t.hold := Slot.setPhys_hold _ _ _
@[simp] theorem Slot.setS_bypass (t : Slot) (d : Nat) (x : Dword) : (t.setS d x).bypass = t.bypass := Slot.setPhys_bypass _ _ _
@[simp] theorem Slot.setS_faultWord (t : Slot) (d : Nat) (x : Dword) : (t.setS d x).faultWord = t.faultWord := Slot.setPhys_faultWord _ _ _
@[simp] theorem Slot.setS_faultWin (t : Slot) (d : Nat) (x : Dword) : (t.setS d x).faultWin = t.faultWin := Slot.setPhys_faultWin _ _ _
@[simp] theorem Slot.setS_replay (t : Slot) (d : Nat) (x : Dword) : (t.setS d x).replay = t.replay := Slot.setPhys_replay _ _ _
@[simp] theorem Slot.setS_sbuf (t : Slot) (d : Nat) (x : Dword) : (t.setS d x).sbuf = t.sbuf := Slot.setPhys_sbuf _ _ _
@[simp] theorem Slot.setS_early (t : Slot) (d : Nat) (x : Dword) : (t.setS d x).early = (t.unmark (t.regNo d)).early := by
  simp [Slot.setS, Slot.unmark]
@[simp] theorem Slot.setS_duePreempt (t : Slot) (d : Nat) (x : Dword) : (t.setS d x).duePreempt = t.duePreempt := Slot.setPhys_duePreempt _ _ _
@[simp] theorem Slot.setS_dueCorr (t : Slot) (d : Nat) (x : Dword) : (t.setS d x).dueCorr = t.dueCorr := Slot.setPhys_dueCorr _ _ _
@[simp] theorem Slot.setS_dueStore (t : Slot) (d : Nat) (x : Dword) : (t.setS d x).dueStore = t.dueStore := Slot.setPhys_dueStore _ _ _
@[simp] theorem Slot.setS_duePage (t : Slot) (d : Nat) (x : Dword) : (t.setS d x).duePage = t.duePage := Slot.setPhys_duePage _ _ _
@[simp] theorem Slot.setS_block (t : Slot) (d : Nat) (x : Dword) : (t.setS d x).block = t.block := Slot.setPhys_block _ _ _
@[simp] theorem Slot.setS_waddr0 (t : Slot) (d : Nat) (x : Dword) : (t.setS d x).waddr0 = t.waddr0 := Slot.setPhys_waddr0 _ _ _
@[simp] theorem Slot.setS_wctl0 (t : Slot) (d : Nat) (x : Dword) : (t.setS d x).wctl0 = t.wctl0 := Slot.setPhys_wctl0 _ _ _
@[simp] theorem Slot.setS_waddr1 (t : Slot) (d : Nat) (x : Dword) : (t.setS d x).waddr1 = t.waddr1 := Slot.setPhys_waddr1 _ _ _
@[simp] theorem Slot.setS_wctl1 (t : Slot) (d : Nat) (x : Dword) : (t.setS d x).wctl1 = t.wctl1 := Slot.setPhys_wctl1 _ _ _
@[simp] theorem Slot.setS_bell (t : Slot) (d : Nat) (x : Dword) : (t.setS d x).bell = t.bell := Slot.setPhys_bell _ _ _
@[simp] theorem Slot.setS_wait (t : Slot) (d : Nat) (x : Dword) : (t.setS d x).wait = t.wait := Slot.setPhys_wait _ _ _
@[simp] theorem Slot.setS_xf (t : Slot) (d : Nat) (x : Dword) : (t.setS d x).xf = t.xf := Slot.setPhys_xf _ _ _
@[simp] theorem Slot.setS_beat (t : Slot) (d : Nat) (x : Dword) : (t.setS d x).beat = t.beat := Slot.setPhys_beat _ _ _
@[simp] theorem Slot.setS_examined (t : Slot) (d : Nat) (x : Dword) : (t.setS d x).examined = t.examined := Slot.setPhys_examined _ _ _

@[simp] theorem Slot.goto_regs (t : Slot) (a : Dword) : (t.goto a).regs = t.regs := rfl
@[simp] theorem Slot.goto_bank (t : Slot) (a : Dword) : (t.goto a).bank = t.bank := rfl
@[simp] theorem Slot.goto_pend (t : Slot) (a : Dword) : (t.goto a).pend = t.pend := rfl
@[simp] theorem Slot.goto_v (t : Slot) (a : Dword) : (t.goto a).v = t.v := rfl
@[simp] theorem Slot.goto_p (t : Slot) (a : Dword) : (t.goto a).p = t.p := rfl
@[simp] theorem Slot.goto_m (t : Slot) (a : Dword) : (t.goto a).m = t.m := rfl
@[simp] theorem Slot.goto_sup (t : Slot) (a : Dword) : (t.goto a).sup = t.sup := rfl
@[simp] theorem Slot.goto_busy (t : Slot) (a : Dword) : (t.goto a).busy = t.busy := rfl
@[simp] theorem Slot.goto_conv (t : Slot) (a : Dword) : (t.goto a).conv = t.conv := rfl
@[simp] theorem Slot.goto_leaving (t : Slot) (a : Dword) : (t.goto a).leaving = t.leaving := rfl
@[simp] theorem Slot.goto_fpctl (t : Slot) (a : Dword) : (t.goto a).fpctl = t.fpctl := rfl
@[simp] theorem Slot.goto_mxcfg (t : Slot) (a : Dword) : (t.goto a).mxcfg = t.mxcfg := rfl
@[simp] theorem Slot.goto_sca (t : Slot) (a : Dword) : (t.goto a).sca = t.sca := rfl
@[simp] theorem Slot.goto_scb (t : Slot) (a : Dword) : (t.goto a).scb = t.scb := rfl
@[simp] theorem Slot.goto_swin (t : Slot) (a : Dword) : (t.goto a).swin = t.swin := rfl
@[simp] theorem Slot.goto_tcause (t : Slot) (a : Dword) : (t.goto a).tcause = t.tcause := rfl
@[simp] theorem Slot.goto_tval (t : Slot) (a : Dword) : (t.goto a).tval = t.tval := rfl
@[simp] theorem Slot.goto_epc (t : Slot) (a : Dword) : (t.goto a).epc = t.epc := rfl
@[simp] theorem Slot.goto_hdr (t : Slot) (a : Dword) : (t.goto a).hdr = t.hdr := rfl
@[simp] theorem Slot.goto_joinRef (t : Slot) (a : Dword) : (t.goto a).joinRef = t.joinRef := rfl
@[simp] theorem Slot.goto_keys (t : Slot) (a : Dword) : (t.goto a).keys = t.keys := rfl
@[simp] theorem Slot.goto_pendJoin (t : Slot) (a : Dword) : (t.goto a).pendJoin = t.pendJoin := rfl
@[simp] theorem Slot.goto_allow (t : Slot) (a : Dword) : (t.goto a).allow = t.allow := rfl
@[simp] theorem Slot.goto_cpq (t : Slot) (a : Dword) : (t.goto a).cpq = t.cpq := rfl
@[simp] theorem Slot.goto_mxq (t : Slot) (a : Dword) : (t.goto a).mxq = t.mxq := rfl
@[simp] theorem Slot.goto_ssq (t : Slot) (a : Dword) : (t.goto a).ssq = t.ssq := rfl
@[simp] theorem Slot.goto_ixq (t : Slot) (a : Dword) : (t.goto a).ixq = t.ixq := rfl
@[simp] theorem Slot.goto_ixo (t : Slot) (a : Dword) : (t.goto a).ixo = t.ixo := rfl
@[simp] theorem Slot.goto_sso (t : Slot) (a : Dword) : (t.goto a).sso = t.sso := rfl
@[simp] theorem Slot.goto_hold (t : Slot) (a : Dword) : (t.goto a).hold = t.hold := rfl
@[simp] theorem Slot.goto_bypass (t : Slot) (a : Dword) : (t.goto a).bypass = t.bypass := rfl
@[simp] theorem Slot.goto_faultWord (t : Slot) (a : Dword) : (t.goto a).faultWord = t.faultWord := rfl
@[simp] theorem Slot.goto_faultWin (t : Slot) (a : Dword) : (t.goto a).faultWin = t.faultWin := rfl
@[simp] theorem Slot.goto_replay (t : Slot) (a : Dword) : (t.goto a).replay = t.replay := rfl
@[simp] theorem Slot.goto_sbuf (t : Slot) (a : Dword) : (t.goto a).sbuf = t.sbuf := rfl
@[simp] theorem Slot.goto_early (t : Slot) (a : Dword) : (t.goto a).early = t.early := rfl
@[simp] theorem Slot.goto_duePreempt (t : Slot) (a : Dword) : (t.goto a).duePreempt = t.duePreempt := rfl
@[simp] theorem Slot.goto_dueCorr (t : Slot) (a : Dword) : (t.goto a).dueCorr = t.dueCorr := rfl
@[simp] theorem Slot.goto_dueStore (t : Slot) (a : Dword) : (t.goto a).dueStore = t.dueStore := rfl
@[simp] theorem Slot.goto_duePage (t : Slot) (a : Dword) : (t.goto a).duePage = t.duePage := rfl
@[simp] theorem Slot.goto_block (t : Slot) (a : Dword) : (t.goto a).block = t.block := rfl
@[simp] theorem Slot.goto_waddr0 (t : Slot) (a : Dword) : (t.goto a).waddr0 = t.waddr0 := rfl
@[simp] theorem Slot.goto_wctl0 (t : Slot) (a : Dword) : (t.goto a).wctl0 = t.wctl0 := rfl
@[simp] theorem Slot.goto_waddr1 (t : Slot) (a : Dword) : (t.goto a).waddr1 = t.waddr1 := rfl
@[simp] theorem Slot.goto_wctl1 (t : Slot) (a : Dword) : (t.goto a).wctl1 = t.wctl1 := rfl
@[simp] theorem Slot.goto_bell (t : Slot) (a : Dword) : (t.goto a).bell = t.bell := rfl

@[simp] theorem Slot.advance_regs (t : Slot) : (t.advance).regs = t.regs := rfl
@[simp] theorem Slot.advance_bank (t : Slot) : (t.advance).bank = t.bank := rfl
@[simp] theorem Slot.advance_pend (t : Slot) : (t.advance).pend = t.pend := rfl
@[simp] theorem Slot.advance_v (t : Slot) : (t.advance).v = t.v := rfl
@[simp] theorem Slot.advance_p (t : Slot) : (t.advance).p = t.p := rfl
@[simp] theorem Slot.advance_m (t : Slot) : (t.advance).m = t.m := rfl
@[simp] theorem Slot.advance_sup (t : Slot) : (t.advance).sup = t.sup := rfl
@[simp] theorem Slot.advance_busy (t : Slot) : (t.advance).busy = t.busy := rfl
@[simp] theorem Slot.advance_conv (t : Slot) : (t.advance).conv = t.conv := rfl
@[simp] theorem Slot.advance_leaving (t : Slot) : (t.advance).leaving = t.leaving := rfl
@[simp] theorem Slot.advance_fpctl (t : Slot) : (t.advance).fpctl = t.fpctl := rfl
@[simp] theorem Slot.advance_mxcfg (t : Slot) : (t.advance).mxcfg = t.mxcfg := rfl
@[simp] theorem Slot.advance_sca (t : Slot) : (t.advance).sca = t.sca := rfl
@[simp] theorem Slot.advance_scb (t : Slot) : (t.advance).scb = t.scb := rfl
@[simp] theorem Slot.advance_swin (t : Slot) : (t.advance).swin = t.swin := rfl
@[simp] theorem Slot.advance_tcause (t : Slot) : (t.advance).tcause = t.tcause := rfl
@[simp] theorem Slot.advance_tval (t : Slot) : (t.advance).tval = t.tval := rfl
@[simp] theorem Slot.advance_epc (t : Slot) : (t.advance).epc = t.epc := rfl
@[simp] theorem Slot.advance_hdr (t : Slot) : (t.advance).hdr = t.hdr := rfl
@[simp] theorem Slot.advance_joinRef (t : Slot) : (t.advance).joinRef = t.joinRef := rfl
@[simp] theorem Slot.advance_keys (t : Slot) : (t.advance).keys = t.keys := rfl
@[simp] theorem Slot.advance_pendJoin (t : Slot) : (t.advance).pendJoin = t.pendJoin := rfl
@[simp] theorem Slot.advance_allow (t : Slot) : (t.advance).allow = t.allow := rfl
@[simp] theorem Slot.advance_cpq (t : Slot) : (t.advance).cpq = t.cpq := rfl
@[simp] theorem Slot.advance_mxq (t : Slot) : (t.advance).mxq = t.mxq := rfl
@[simp] theorem Slot.advance_ssq (t : Slot) : (t.advance).ssq = t.ssq := rfl
@[simp] theorem Slot.advance_ixq (t : Slot) : (t.advance).ixq = t.ixq := rfl
@[simp] theorem Slot.advance_ixo (t : Slot) : (t.advance).ixo = t.ixo := rfl
@[simp] theorem Slot.advance_sso (t : Slot) : (t.advance).sso = t.sso := rfl
@[simp] theorem Slot.advance_hold (t : Slot) : (t.advance).hold = t.hold := rfl
@[simp] theorem Slot.advance_bypass (t : Slot) : (t.advance).bypass = t.bypass := rfl
@[simp] theorem Slot.advance_faultWord (t : Slot) : (t.advance).faultWord = t.faultWord := rfl
@[simp] theorem Slot.advance_faultWin (t : Slot) : (t.advance).faultWin = t.faultWin := rfl
@[simp] theorem Slot.advance_replay (t : Slot) : (t.advance).replay = t.replay := rfl
@[simp] theorem Slot.advance_sbuf (t : Slot) : (t.advance).sbuf = t.sbuf := rfl
@[simp] theorem Slot.advance_early (t : Slot) : (t.advance).early = t.early := rfl
@[simp] theorem Slot.advance_duePreempt (t : Slot) : (t.advance).duePreempt = t.duePreempt := rfl
@[simp] theorem Slot.advance_dueCorr (t : Slot) : (t.advance).dueCorr = t.dueCorr := rfl
@[simp] theorem Slot.advance_dueStore (t : Slot) : (t.advance).dueStore = t.dueStore := rfl
@[simp] theorem Slot.advance_duePage (t : Slot) : (t.advance).duePage = t.duePage := rfl
@[simp] theorem Slot.advance_block (t : Slot) : (t.advance).block = t.block := rfl
@[simp] theorem Slot.advance_waddr0 (t : Slot) : (t.advance).waddr0 = t.waddr0 := rfl
@[simp] theorem Slot.advance_wctl0 (t : Slot) : (t.advance).wctl0 = t.wctl0 := rfl
@[simp] theorem Slot.advance_waddr1 (t : Slot) : (t.advance).waddr1 = t.waddr1 := rfl
@[simp] theorem Slot.advance_wctl1 (t : Slot) : (t.advance).wctl1 = t.wctl1 := rfl
@[simp] theorem Slot.advance_bell (t : Slot) : (t.advance).bell = t.bell := rfl

@[simp] theorem Slot.setV_regs (t : Slot) (d : Nat) (x : Vec) : (t.setV d x).regs = t.regs := rfl
@[simp] theorem Slot.setV_bank (t : Slot) (d : Nat) (x : Vec) : (t.setV d x).bank = t.bank := rfl
@[simp] theorem Slot.setV_pend (t : Slot) (d : Nat) (x : Vec) : (t.setV d x).pend = t.pend := rfl
@[simp] theorem Slot.setV_p (t : Slot) (d : Nat) (x : Vec) : (t.setV d x).p = t.p := rfl
@[simp] theorem Slot.setV_m (t : Slot) (d : Nat) (x : Vec) : (t.setV d x).m = t.m := rfl
@[simp] theorem Slot.setV_pc (t : Slot) (d : Nat) (x : Vec) : (t.setV d x).pc = t.pc := rfl
@[simp] theorem Slot.setV_sup (t : Slot) (d : Nat) (x : Vec) : (t.setV d x).sup = t.sup := rfl
@[simp] theorem Slot.setV_busy (t : Slot) (d : Nat) (x : Vec) : (t.setV d x).busy = t.busy := rfl
@[simp] theorem Slot.setV_start (t : Slot) (d : Nat) (x : Vec) : (t.setV d x).start = t.start := rfl
@[simp] theorem Slot.setV_conv (t : Slot) (d : Nat) (x : Vec) : (t.setV d x).conv = t.conv := rfl
@[simp] theorem Slot.setV_leaving (t : Slot) (d : Nat) (x : Vec) : (t.setV d x).leaving = t.leaving := rfl
@[simp] theorem Slot.setV_fpctl (t : Slot) (d : Nat) (x : Vec) : (t.setV d x).fpctl = t.fpctl := rfl
@[simp] theorem Slot.setV_mxcfg (t : Slot) (d : Nat) (x : Vec) : (t.setV d x).mxcfg = t.mxcfg := rfl
@[simp] theorem Slot.setV_sca (t : Slot) (d : Nat) (x : Vec) : (t.setV d x).sca = t.sca := rfl
@[simp] theorem Slot.setV_scb (t : Slot) (d : Nat) (x : Vec) : (t.setV d x).scb = t.scb := rfl
@[simp] theorem Slot.setV_swin (t : Slot) (d : Nat) (x : Vec) : (t.setV d x).swin = t.swin := rfl
@[simp] theorem Slot.setV_tcause (t : Slot) (d : Nat) (x : Vec) : (t.setV d x).tcause = t.tcause := rfl
@[simp] theorem Slot.setV_tval (t : Slot) (d : Nat) (x : Vec) : (t.setV d x).tval = t.tval := rfl
@[simp] theorem Slot.setV_epc (t : Slot) (d : Nat) (x : Vec) : (t.setV d x).epc = t.epc := rfl
@[simp] theorem Slot.setV_hdr (t : Slot) (d : Nat) (x : Vec) : (t.setV d x).hdr = t.hdr := rfl
@[simp] theorem Slot.setV_joinRef (t : Slot) (d : Nat) (x : Vec) : (t.setV d x).joinRef = t.joinRef := rfl
@[simp] theorem Slot.setV_keys (t : Slot) (d : Nat) (x : Vec) : (t.setV d x).keys = t.keys := rfl
@[simp] theorem Slot.setV_pendJoin (t : Slot) (d : Nat) (x : Vec) : (t.setV d x).pendJoin = t.pendJoin := rfl
@[simp] theorem Slot.setV_allow (t : Slot) (d : Nat) (x : Vec) : (t.setV d x).allow = t.allow := rfl
@[simp] theorem Slot.setV_cpq (t : Slot) (d : Nat) (x : Vec) : (t.setV d x).cpq = t.cpq := rfl
@[simp] theorem Slot.setV_mxq (t : Slot) (d : Nat) (x : Vec) : (t.setV d x).mxq = t.mxq := rfl
@[simp] theorem Slot.setV_ssq (t : Slot) (d : Nat) (x : Vec) : (t.setV d x).ssq = t.ssq := rfl
@[simp] theorem Slot.setV_ixq (t : Slot) (d : Nat) (x : Vec) : (t.setV d x).ixq = t.ixq := rfl
@[simp] theorem Slot.setV_ixo (t : Slot) (d : Nat) (x : Vec) : (t.setV d x).ixo = t.ixo := rfl
@[simp] theorem Slot.setV_sso (t : Slot) (d : Nat) (x : Vec) : (t.setV d x).sso = t.sso := rfl
@[simp] theorem Slot.setV_hold (t : Slot) (d : Nat) (x : Vec) : (t.setV d x).hold = t.hold := rfl
@[simp] theorem Slot.setV_bypass (t : Slot) (d : Nat) (x : Vec) : (t.setV d x).bypass = t.bypass := rfl
@[simp] theorem Slot.setV_faultWord (t : Slot) (d : Nat) (x : Vec) : (t.setV d x).faultWord = t.faultWord := rfl
@[simp] theorem Slot.setV_faultWin (t : Slot) (d : Nat) (x : Vec) : (t.setV d x).faultWin = t.faultWin := rfl
@[simp] theorem Slot.setV_replay (t : Slot) (d : Nat) (x : Vec) : (t.setV d x).replay = t.replay := rfl
@[simp] theorem Slot.setV_sbuf (t : Slot) (d : Nat) (x : Vec) : (t.setV d x).sbuf = t.sbuf := rfl
@[simp] theorem Slot.setV_early (t : Slot) (d : Nat) (x : Vec) : (t.setV d x).early = t.early := rfl
@[simp] theorem Slot.setV_duePreempt (t : Slot) (d : Nat) (x : Vec) : (t.setV d x).duePreempt = t.duePreempt := rfl
@[simp] theorem Slot.setV_dueCorr (t : Slot) (d : Nat) (x : Vec) : (t.setV d x).dueCorr = t.dueCorr := rfl
@[simp] theorem Slot.setV_dueStore (t : Slot) (d : Nat) (x : Vec) : (t.setV d x).dueStore = t.dueStore := rfl
@[simp] theorem Slot.setV_duePage (t : Slot) (d : Nat) (x : Vec) : (t.setV d x).duePage = t.duePage := rfl
@[simp] theorem Slot.setV_block (t : Slot) (d : Nat) (x : Vec) : (t.setV d x).block = t.block := rfl
@[simp] theorem Slot.setV_waddr0 (t : Slot) (d : Nat) (x : Vec) : (t.setV d x).waddr0 = t.waddr0 := rfl
@[simp] theorem Slot.setV_wctl0 (t : Slot) (d : Nat) (x : Vec) : (t.setV d x).wctl0 = t.wctl0 := rfl
@[simp] theorem Slot.setV_waddr1 (t : Slot) (d : Nat) (x : Vec) : (t.setV d x).waddr1 = t.waddr1 := rfl
@[simp] theorem Slot.setV_wctl1 (t : Slot) (d : Nat) (x : Vec) : (t.setV d x).wctl1 = t.wctl1 := rfl
@[simp] theorem Slot.setV_bell (t : Slot) (d : Nat) (x : Vec) : (t.setV d x).bell = t.bell := rfl
@[simp] theorem Slot.setV_wait (t : Slot) (d : Nat) (x : Vec) : (t.setV d x).wait = t.wait := rfl
@[simp] theorem Slot.setV_xf (t : Slot) (d : Nat) (x : Vec) : (t.setV d x).xf = t.xf := rfl
@[simp] theorem Slot.setV_beat (t : Slot) (d : Nat) (x : Vec) : (t.setV d x).beat = t.beat := rfl
@[simp] theorem Slot.setV_examined (t : Slot) (d : Nat) (x : Vec) : (t.setV d x).examined = t.examined := rfl

@[simp] theorem Slot.setP_regs (t : Slot) (d : Nat) (x : BitVec 32) : (t.setP d x).regs = t.regs := by unfold Slot.setP; split <;> rfl
@[simp] theorem Slot.setP_bank (t : Slot) (d : Nat) (x : BitVec 32) : (t.setP d x).bank = t.bank := by unfold Slot.setP; split <;> rfl
@[simp] theorem Slot.setP_pend (t : Slot) (d : Nat) (x : BitVec 32) : (t.setP d x).pend = t.pend := by unfold Slot.setP; split <;> rfl
@[simp] theorem Slot.setP_v (t : Slot) (d : Nat) (x : BitVec 32) : (t.setP d x).v = t.v := by unfold Slot.setP; split <;> rfl
@[simp] theorem Slot.setP_m (t : Slot) (d : Nat) (x : BitVec 32) : (t.setP d x).m = t.m := by unfold Slot.setP; split <;> rfl
@[simp] theorem Slot.setP_pc (t : Slot) (d : Nat) (x : BitVec 32) : (t.setP d x).pc = t.pc := by unfold Slot.setP; split <;> rfl
@[simp] theorem Slot.setP_sup (t : Slot) (d : Nat) (x : BitVec 32) : (t.setP d x).sup = t.sup := by unfold Slot.setP; split <;> rfl
@[simp] theorem Slot.setP_busy (t : Slot) (d : Nat) (x : BitVec 32) : (t.setP d x).busy = t.busy := by unfold Slot.setP; split <;> rfl
@[simp] theorem Slot.setP_start (t : Slot) (d : Nat) (x : BitVec 32) : (t.setP d x).start = t.start := by unfold Slot.setP; split <;> rfl
@[simp] theorem Slot.setP_conv (t : Slot) (d : Nat) (x : BitVec 32) : (t.setP d x).conv = t.conv := by unfold Slot.setP; split <;> rfl
@[simp] theorem Slot.setP_leaving (t : Slot) (d : Nat) (x : BitVec 32) : (t.setP d x).leaving = t.leaving := by unfold Slot.setP; split <;> rfl
@[simp] theorem Slot.setP_fpctl (t : Slot) (d : Nat) (x : BitVec 32) : (t.setP d x).fpctl = t.fpctl := by unfold Slot.setP; split <;> rfl
@[simp] theorem Slot.setP_mxcfg (t : Slot) (d : Nat) (x : BitVec 32) : (t.setP d x).mxcfg = t.mxcfg := by unfold Slot.setP; split <;> rfl
@[simp] theorem Slot.setP_sca (t : Slot) (d : Nat) (x : BitVec 32) : (t.setP d x).sca = t.sca := by unfold Slot.setP; split <;> rfl
@[simp] theorem Slot.setP_scb (t : Slot) (d : Nat) (x : BitVec 32) : (t.setP d x).scb = t.scb := by unfold Slot.setP; split <;> rfl
@[simp] theorem Slot.setP_swin (t : Slot) (d : Nat) (x : BitVec 32) : (t.setP d x).swin = t.swin := by unfold Slot.setP; split <;> rfl
@[simp] theorem Slot.setP_tcause (t : Slot) (d : Nat) (x : BitVec 32) : (t.setP d x).tcause = t.tcause := by unfold Slot.setP; split <;> rfl
@[simp] theorem Slot.setP_tval (t : Slot) (d : Nat) (x : BitVec 32) : (t.setP d x).tval = t.tval := by unfold Slot.setP; split <;> rfl
@[simp] theorem Slot.setP_epc (t : Slot) (d : Nat) (x : BitVec 32) : (t.setP d x).epc = t.epc := by unfold Slot.setP; split <;> rfl
@[simp] theorem Slot.setP_hdr (t : Slot) (d : Nat) (x : BitVec 32) : (t.setP d x).hdr = t.hdr := by unfold Slot.setP; split <;> rfl
@[simp] theorem Slot.setP_joinRef (t : Slot) (d : Nat) (x : BitVec 32) : (t.setP d x).joinRef = t.joinRef := by unfold Slot.setP; split <;> rfl
@[simp] theorem Slot.setP_keys (t : Slot) (d : Nat) (x : BitVec 32) : (t.setP d x).keys = t.keys := by unfold Slot.setP; split <;> rfl
@[simp] theorem Slot.setP_pendJoin (t : Slot) (d : Nat) (x : BitVec 32) : (t.setP d x).pendJoin = t.pendJoin := by unfold Slot.setP; split <;> rfl
@[simp] theorem Slot.setP_allow (t : Slot) (d : Nat) (x : BitVec 32) : (t.setP d x).allow = t.allow := by unfold Slot.setP; split <;> rfl
@[simp] theorem Slot.setP_cpq (t : Slot) (d : Nat) (x : BitVec 32) : (t.setP d x).cpq = t.cpq := by unfold Slot.setP; split <;> rfl
@[simp] theorem Slot.setP_mxq (t : Slot) (d : Nat) (x : BitVec 32) : (t.setP d x).mxq = t.mxq := by unfold Slot.setP; split <;> rfl
@[simp] theorem Slot.setP_ssq (t : Slot) (d : Nat) (x : BitVec 32) : (t.setP d x).ssq = t.ssq := by unfold Slot.setP; split <;> rfl
@[simp] theorem Slot.setP_ixq (t : Slot) (d : Nat) (x : BitVec 32) : (t.setP d x).ixq = t.ixq := by unfold Slot.setP; split <;> rfl
@[simp] theorem Slot.setP_ixo (t : Slot) (d : Nat) (x : BitVec 32) : (t.setP d x).ixo = t.ixo := by unfold Slot.setP; split <;> rfl
@[simp] theorem Slot.setP_sso (t : Slot) (d : Nat) (x : BitVec 32) : (t.setP d x).sso = t.sso := by unfold Slot.setP; split <;> rfl
@[simp] theorem Slot.setP_hold (t : Slot) (d : Nat) (x : BitVec 32) : (t.setP d x).hold = t.hold := by unfold Slot.setP; split <;> rfl
@[simp] theorem Slot.setP_bypass (t : Slot) (d : Nat) (x : BitVec 32) : (t.setP d x).bypass = t.bypass := by unfold Slot.setP; split <;> rfl
@[simp] theorem Slot.setP_faultWord (t : Slot) (d : Nat) (x : BitVec 32) : (t.setP d x).faultWord = t.faultWord := by unfold Slot.setP; split <;> rfl
@[simp] theorem Slot.setP_faultWin (t : Slot) (d : Nat) (x : BitVec 32) : (t.setP d x).faultWin = t.faultWin := by unfold Slot.setP; split <;> rfl
@[simp] theorem Slot.setP_replay (t : Slot) (d : Nat) (x : BitVec 32) : (t.setP d x).replay = t.replay := by unfold Slot.setP; split <;> rfl
@[simp] theorem Slot.setP_sbuf (t : Slot) (d : Nat) (x : BitVec 32) : (t.setP d x).sbuf = t.sbuf := by unfold Slot.setP; split <;> rfl
@[simp] theorem Slot.setP_early (t : Slot) (d : Nat) (x : BitVec 32) : (t.setP d x).early = t.early := by unfold Slot.setP; split <;> rfl
@[simp] theorem Slot.setP_duePreempt (t : Slot) (d : Nat) (x : BitVec 32) : (t.setP d x).duePreempt = t.duePreempt := by unfold Slot.setP; split <;> rfl
@[simp] theorem Slot.setP_dueCorr (t : Slot) (d : Nat) (x : BitVec 32) : (t.setP d x).dueCorr = t.dueCorr := by unfold Slot.setP; split <;> rfl
@[simp] theorem Slot.setP_dueStore (t : Slot) (d : Nat) (x : BitVec 32) : (t.setP d x).dueStore = t.dueStore := by unfold Slot.setP; split <;> rfl
@[simp] theorem Slot.setP_duePage (t : Slot) (d : Nat) (x : BitVec 32) : (t.setP d x).duePage = t.duePage := by unfold Slot.setP; split <;> rfl
@[simp] theorem Slot.setP_block (t : Slot) (d : Nat) (x : BitVec 32) : (t.setP d x).block = t.block := by unfold Slot.setP; split <;> rfl
@[simp] theorem Slot.setP_waddr0 (t : Slot) (d : Nat) (x : BitVec 32) : (t.setP d x).waddr0 = t.waddr0 := by unfold Slot.setP; split <;> rfl
@[simp] theorem Slot.setP_wctl0 (t : Slot) (d : Nat) (x : BitVec 32) : (t.setP d x).wctl0 = t.wctl0 := by unfold Slot.setP; split <;> rfl
@[simp] theorem Slot.setP_waddr1 (t : Slot) (d : Nat) (x : BitVec 32) : (t.setP d x).waddr1 = t.waddr1 := by unfold Slot.setP; split <;> rfl
@[simp] theorem Slot.setP_wctl1 (t : Slot) (d : Nat) (x : BitVec 32) : (t.setP d x).wctl1 = t.wctl1 := by unfold Slot.setP; split <;> rfl
@[simp] theorem Slot.setP_bell (t : Slot) (d : Nat) (x : BitVec 32) : (t.setP d x).bell = t.bell := by unfold Slot.setP; split <;> rfl
@[simp] theorem Slot.setP_wait (t : Slot) (d : Nat) (x : BitVec 32) : (t.setP d x).wait = t.wait := by unfold Slot.setP; split <;> rfl
@[simp] theorem Slot.setP_xf (t : Slot) (d : Nat) (x : BitVec 32) : (t.setP d x).xf = t.xf := by unfold Slot.setP; split <;> rfl
@[simp] theorem Slot.setP_beat (t : Slot) (d : Nat) (x : BitVec 32) : (t.setP d x).beat = t.beat := by unfold Slot.setP; split <;> rfl
@[simp] theorem Slot.setP_examined (t : Slot) (d : Nat) (x : BitVec 32) : (t.setP d x).examined = t.examined := by unfold Slot.setP; split <;> rfl

@[simp] theorem Slot.setM_regs (t : Slot) (d : Nat) (x : Dword) : (t.setM d x).regs = t.regs := rfl
@[simp] theorem Slot.setM_bank (t : Slot) (d : Nat) (x : Dword) : (t.setM d x).bank = t.bank := rfl
@[simp] theorem Slot.setM_pend (t : Slot) (d : Nat) (x : Dword) : (t.setM d x).pend = t.pend := rfl
@[simp] theorem Slot.setM_v (t : Slot) (d : Nat) (x : Dword) : (t.setM d x).v = t.v := rfl
@[simp] theorem Slot.setM_p (t : Slot) (d : Nat) (x : Dword) : (t.setM d x).p = t.p := rfl
@[simp] theorem Slot.setM_pc (t : Slot) (d : Nat) (x : Dword) : (t.setM d x).pc = t.pc := rfl
@[simp] theorem Slot.setM_sup (t : Slot) (d : Nat) (x : Dword) : (t.setM d x).sup = t.sup := rfl
@[simp] theorem Slot.setM_busy (t : Slot) (d : Nat) (x : Dword) : (t.setM d x).busy = t.busy := rfl
@[simp] theorem Slot.setM_start (t : Slot) (d : Nat) (x : Dword) : (t.setM d x).start = t.start := rfl
@[simp] theorem Slot.setM_conv (t : Slot) (d : Nat) (x : Dword) : (t.setM d x).conv = t.conv := rfl
@[simp] theorem Slot.setM_leaving (t : Slot) (d : Nat) (x : Dword) : (t.setM d x).leaving = t.leaving := rfl
@[simp] theorem Slot.setM_fpctl (t : Slot) (d : Nat) (x : Dword) : (t.setM d x).fpctl = t.fpctl := rfl
@[simp] theorem Slot.setM_mxcfg (t : Slot) (d : Nat) (x : Dword) : (t.setM d x).mxcfg = t.mxcfg := rfl
@[simp] theorem Slot.setM_sca (t : Slot) (d : Nat) (x : Dword) : (t.setM d x).sca = t.sca := rfl
@[simp] theorem Slot.setM_scb (t : Slot) (d : Nat) (x : Dword) : (t.setM d x).scb = t.scb := rfl
@[simp] theorem Slot.setM_swin (t : Slot) (d : Nat) (x : Dword) : (t.setM d x).swin = t.swin := rfl
@[simp] theorem Slot.setM_tcause (t : Slot) (d : Nat) (x : Dword) : (t.setM d x).tcause = t.tcause := rfl
@[simp] theorem Slot.setM_tval (t : Slot) (d : Nat) (x : Dword) : (t.setM d x).tval = t.tval := rfl
@[simp] theorem Slot.setM_epc (t : Slot) (d : Nat) (x : Dword) : (t.setM d x).epc = t.epc := rfl
@[simp] theorem Slot.setM_hdr (t : Slot) (d : Nat) (x : Dword) : (t.setM d x).hdr = t.hdr := rfl
@[simp] theorem Slot.setM_joinRef (t : Slot) (d : Nat) (x : Dword) : (t.setM d x).joinRef = t.joinRef := rfl
@[simp] theorem Slot.setM_keys (t : Slot) (d : Nat) (x : Dword) : (t.setM d x).keys = t.keys := rfl
@[simp] theorem Slot.setM_pendJoin (t : Slot) (d : Nat) (x : Dword) : (t.setM d x).pendJoin = t.pendJoin := rfl
@[simp] theorem Slot.setM_allow (t : Slot) (d : Nat) (x : Dword) : (t.setM d x).allow = t.allow := rfl
@[simp] theorem Slot.setM_cpq (t : Slot) (d : Nat) (x : Dword) : (t.setM d x).cpq = t.cpq := rfl
@[simp] theorem Slot.setM_mxq (t : Slot) (d : Nat) (x : Dword) : (t.setM d x).mxq = t.mxq := rfl
@[simp] theorem Slot.setM_ssq (t : Slot) (d : Nat) (x : Dword) : (t.setM d x).ssq = t.ssq := rfl
@[simp] theorem Slot.setM_ixq (t : Slot) (d : Nat) (x : Dword) : (t.setM d x).ixq = t.ixq := rfl
@[simp] theorem Slot.setM_ixo (t : Slot) (d : Nat) (x : Dword) : (t.setM d x).ixo = t.ixo := rfl
@[simp] theorem Slot.setM_sso (t : Slot) (d : Nat) (x : Dword) : (t.setM d x).sso = t.sso := rfl
@[simp] theorem Slot.setM_hold (t : Slot) (d : Nat) (x : Dword) : (t.setM d x).hold = t.hold := rfl
@[simp] theorem Slot.setM_bypass (t : Slot) (d : Nat) (x : Dword) : (t.setM d x).bypass = t.bypass := rfl
@[simp] theorem Slot.setM_faultWord (t : Slot) (d : Nat) (x : Dword) : (t.setM d x).faultWord = t.faultWord := rfl
@[simp] theorem Slot.setM_faultWin (t : Slot) (d : Nat) (x : Dword) : (t.setM d x).faultWin = t.faultWin := rfl
@[simp] theorem Slot.setM_replay (t : Slot) (d : Nat) (x : Dword) : (t.setM d x).replay = t.replay := rfl
@[simp] theorem Slot.setM_sbuf (t : Slot) (d : Nat) (x : Dword) : (t.setM d x).sbuf = t.sbuf := rfl
@[simp] theorem Slot.setM_early (t : Slot) (d : Nat) (x : Dword) : (t.setM d x).early = t.early := rfl
@[simp] theorem Slot.setM_duePreempt (t : Slot) (d : Nat) (x : Dword) : (t.setM d x).duePreempt = t.duePreempt := rfl
@[simp] theorem Slot.setM_dueCorr (t : Slot) (d : Nat) (x : Dword) : (t.setM d x).dueCorr = t.dueCorr := rfl
@[simp] theorem Slot.setM_dueStore (t : Slot) (d : Nat) (x : Dword) : (t.setM d x).dueStore = t.dueStore := rfl
@[simp] theorem Slot.setM_duePage (t : Slot) (d : Nat) (x : Dword) : (t.setM d x).duePage = t.duePage := rfl
@[simp] theorem Slot.setM_block (t : Slot) (d : Nat) (x : Dword) : (t.setM d x).block = t.block := rfl
@[simp] theorem Slot.setM_waddr0 (t : Slot) (d : Nat) (x : Dword) : (t.setM d x).waddr0 = t.waddr0 := rfl
@[simp] theorem Slot.setM_wctl0 (t : Slot) (d : Nat) (x : Dword) : (t.setM d x).wctl0 = t.wctl0 := rfl
@[simp] theorem Slot.setM_waddr1 (t : Slot) (d : Nat) (x : Dword) : (t.setM d x).waddr1 = t.waddr1 := rfl
@[simp] theorem Slot.setM_wctl1 (t : Slot) (d : Nat) (x : Dword) : (t.setM d x).wctl1 = t.wctl1 := rfl
@[simp] theorem Slot.setM_bell (t : Slot) (d : Nat) (x : Dword) : (t.setM d x).bell = t.bell := rfl
@[simp] theorem Slot.setM_wait (t : Slot) (d : Nat) (x : Dword) : (t.setM d x).wait = t.wait := rfl
@[simp] theorem Slot.setM_xf (t : Slot) (d : Nat) (x : Dword) : (t.setM d x).xf = t.xf := rfl
@[simp] theorem Slot.setM_beat (t : Slot) (d : Nat) (x : Dword) : (t.setM d x).beat = t.beat := rfl
@[simp] theorem Slot.setM_examined (t : Slot) (d : Nat) (x : Dword) : (t.setM d x).examined = t.examined := rfl

@[simp] theorem Slot.addPend_regs (t : Slot) (n : Nat) : (t.addPend n).regs = t.regs := rfl
@[simp] theorem Slot.addPend_bank (t : Slot) (n : Nat) : (t.addPend n).bank = t.bank := rfl
@[simp] theorem Slot.addPend_v (t : Slot) (n : Nat) : (t.addPend n).v = t.v := rfl
@[simp] theorem Slot.addPend_p (t : Slot) (n : Nat) : (t.addPend n).p = t.p := rfl
@[simp] theorem Slot.addPend_m (t : Slot) (n : Nat) : (t.addPend n).m = t.m := rfl
@[simp] theorem Slot.addPend_pc (t : Slot) (n : Nat) : (t.addPend n).pc = t.pc := rfl
@[simp] theorem Slot.addPend_sup (t : Slot) (n : Nat) : (t.addPend n).sup = t.sup := rfl
@[simp] theorem Slot.addPend_busy (t : Slot) (n : Nat) : (t.addPend n).busy = t.busy := rfl
@[simp] theorem Slot.addPend_start (t : Slot) (n : Nat) : (t.addPend n).start = t.start := rfl
@[simp] theorem Slot.addPend_conv (t : Slot) (n : Nat) : (t.addPend n).conv = t.conv := rfl
@[simp] theorem Slot.addPend_leaving (t : Slot) (n : Nat) : (t.addPend n).leaving = t.leaving := rfl
@[simp] theorem Slot.addPend_fpctl (t : Slot) (n : Nat) : (t.addPend n).fpctl = t.fpctl := rfl
@[simp] theorem Slot.addPend_mxcfg (t : Slot) (n : Nat) : (t.addPend n).mxcfg = t.mxcfg := rfl
@[simp] theorem Slot.addPend_sca (t : Slot) (n : Nat) : (t.addPend n).sca = t.sca := rfl
@[simp] theorem Slot.addPend_scb (t : Slot) (n : Nat) : (t.addPend n).scb = t.scb := rfl
@[simp] theorem Slot.addPend_swin (t : Slot) (n : Nat) : (t.addPend n).swin = t.swin := rfl
@[simp] theorem Slot.addPend_tcause (t : Slot) (n : Nat) : (t.addPend n).tcause = t.tcause := rfl
@[simp] theorem Slot.addPend_tval (t : Slot) (n : Nat) : (t.addPend n).tval = t.tval := rfl
@[simp] theorem Slot.addPend_epc (t : Slot) (n : Nat) : (t.addPend n).epc = t.epc := rfl
@[simp] theorem Slot.addPend_hdr (t : Slot) (n : Nat) : (t.addPend n).hdr = t.hdr := rfl
@[simp] theorem Slot.addPend_joinRef (t : Slot) (n : Nat) : (t.addPend n).joinRef = t.joinRef := rfl
@[simp] theorem Slot.addPend_keys (t : Slot) (n : Nat) : (t.addPend n).keys = t.keys := rfl
@[simp] theorem Slot.addPend_pendJoin (t : Slot) (n : Nat) : (t.addPend n).pendJoin = t.pendJoin := rfl
@[simp] theorem Slot.addPend_allow (t : Slot) (n : Nat) : (t.addPend n).allow = t.allow := rfl
@[simp] theorem Slot.addPend_cpq (t : Slot) (n : Nat) : (t.addPend n).cpq = t.cpq := rfl
@[simp] theorem Slot.addPend_mxq (t : Slot) (n : Nat) : (t.addPend n).mxq = t.mxq := rfl
@[simp] theorem Slot.addPend_ssq (t : Slot) (n : Nat) : (t.addPend n).ssq = t.ssq := rfl
@[simp] theorem Slot.addPend_ixq (t : Slot) (n : Nat) : (t.addPend n).ixq = t.ixq := rfl
@[simp] theorem Slot.addPend_ixo (t : Slot) (n : Nat) : (t.addPend n).ixo = t.ixo := rfl
@[simp] theorem Slot.addPend_sso (t : Slot) (n : Nat) : (t.addPend n).sso = t.sso := rfl
@[simp] theorem Slot.addPend_hold (t : Slot) (n : Nat) : (t.addPend n).hold = t.hold := rfl
@[simp] theorem Slot.addPend_bypass (t : Slot) (n : Nat) : (t.addPend n).bypass = t.bypass := rfl
@[simp] theorem Slot.addPend_faultWord (t : Slot) (n : Nat) : (t.addPend n).faultWord = t.faultWord := rfl
@[simp] theorem Slot.addPend_faultWin (t : Slot) (n : Nat) : (t.addPend n).faultWin = t.faultWin := rfl
@[simp] theorem Slot.addPend_replay (t : Slot) (n : Nat) : (t.addPend n).replay = t.replay := rfl
@[simp] theorem Slot.addPend_sbuf (t : Slot) (n : Nat) : (t.addPend n).sbuf = t.sbuf := rfl
@[simp] theorem Slot.addPend_early (t : Slot) (n : Nat) : (t.addPend n).early = (t.unmark n).early := rfl
@[simp] theorem Slot.addPend_duePreempt (t : Slot) (n : Nat) : (t.addPend n).duePreempt = t.duePreempt := rfl
@[simp] theorem Slot.addPend_dueCorr (t : Slot) (n : Nat) : (t.addPend n).dueCorr = t.dueCorr := rfl
@[simp] theorem Slot.addPend_dueStore (t : Slot) (n : Nat) : (t.addPend n).dueStore = t.dueStore := rfl
@[simp] theorem Slot.addPend_duePage (t : Slot) (n : Nat) : (t.addPend n).duePage = t.duePage := rfl
@[simp] theorem Slot.addPend_block (t : Slot) (n : Nat) : (t.addPend n).block = t.block := rfl
@[simp] theorem Slot.addPend_waddr0 (t : Slot) (n : Nat) : (t.addPend n).waddr0 = t.waddr0 := rfl
@[simp] theorem Slot.addPend_wctl0 (t : Slot) (n : Nat) : (t.addPend n).wctl0 = t.wctl0 := rfl
@[simp] theorem Slot.addPend_waddr1 (t : Slot) (n : Nat) : (t.addPend n).waddr1 = t.waddr1 := rfl
@[simp] theorem Slot.addPend_wctl1 (t : Slot) (n : Nat) : (t.addPend n).wctl1 = t.wctl1 := rfl
@[simp] theorem Slot.addPend_bell (t : Slot) (n : Nat) : (t.addPend n).bell = t.bell := rfl
@[simp] theorem Slot.addPend_wait (t : Slot) (n : Nat) : (t.addPend n).wait = t.wait := rfl
@[simp] theorem Slot.addPend_xf (t : Slot) (n : Nat) : (t.addPend n).xf = t.xf := rfl
@[simp] theorem Slot.addPend_beat (t : Slot) (n : Nat) : (t.addPend n).beat = t.beat := rfl
@[simp] theorem Slot.addPend_examined (t : Slot) (n : Nat) : (t.addPend n).examined = t.examined := rfl

@[simp] theorem Slot.dropPend_regs (t : Slot) (n : Nat) : (t.dropPend n).regs = t.regs := rfl
@[simp] theorem Slot.dropPend_bank (t : Slot) (n : Nat) : (t.dropPend n).bank = t.bank := rfl
@[simp] theorem Slot.dropPend_v (t : Slot) (n : Nat) : (t.dropPend n).v = t.v := rfl
@[simp] theorem Slot.dropPend_p (t : Slot) (n : Nat) : (t.dropPend n).p = t.p := rfl
@[simp] theorem Slot.dropPend_m (t : Slot) (n : Nat) : (t.dropPend n).m = t.m := rfl
@[simp] theorem Slot.dropPend_pc (t : Slot) (n : Nat) : (t.dropPend n).pc = t.pc := rfl
@[simp] theorem Slot.dropPend_sup (t : Slot) (n : Nat) : (t.dropPend n).sup = t.sup := rfl
@[simp] theorem Slot.dropPend_busy (t : Slot) (n : Nat) : (t.dropPend n).busy = t.busy := rfl
@[simp] theorem Slot.dropPend_start (t : Slot) (n : Nat) : (t.dropPend n).start = t.start := rfl
@[simp] theorem Slot.dropPend_conv (t : Slot) (n : Nat) : (t.dropPend n).conv = t.conv := rfl
@[simp] theorem Slot.dropPend_leaving (t : Slot) (n : Nat) : (t.dropPend n).leaving = t.leaving := rfl
@[simp] theorem Slot.dropPend_fpctl (t : Slot) (n : Nat) : (t.dropPend n).fpctl = t.fpctl := rfl
@[simp] theorem Slot.dropPend_mxcfg (t : Slot) (n : Nat) : (t.dropPend n).mxcfg = t.mxcfg := rfl
@[simp] theorem Slot.dropPend_sca (t : Slot) (n : Nat) : (t.dropPend n).sca = t.sca := rfl
@[simp] theorem Slot.dropPend_scb (t : Slot) (n : Nat) : (t.dropPend n).scb = t.scb := rfl
@[simp] theorem Slot.dropPend_swin (t : Slot) (n : Nat) : (t.dropPend n).swin = t.swin := rfl
@[simp] theorem Slot.dropPend_tcause (t : Slot) (n : Nat) : (t.dropPend n).tcause = t.tcause := rfl
@[simp] theorem Slot.dropPend_tval (t : Slot) (n : Nat) : (t.dropPend n).tval = t.tval := rfl
@[simp] theorem Slot.dropPend_epc (t : Slot) (n : Nat) : (t.dropPend n).epc = t.epc := rfl
@[simp] theorem Slot.dropPend_hdr (t : Slot) (n : Nat) : (t.dropPend n).hdr = t.hdr := rfl
@[simp] theorem Slot.dropPend_joinRef (t : Slot) (n : Nat) : (t.dropPend n).joinRef = t.joinRef := rfl
@[simp] theorem Slot.dropPend_keys (t : Slot) (n : Nat) : (t.dropPend n).keys = t.keys := rfl
@[simp] theorem Slot.dropPend_pendJoin (t : Slot) (n : Nat) : (t.dropPend n).pendJoin = t.pendJoin := rfl
@[simp] theorem Slot.dropPend_allow (t : Slot) (n : Nat) : (t.dropPend n).allow = t.allow := rfl
@[simp] theorem Slot.dropPend_cpq (t : Slot) (n : Nat) : (t.dropPend n).cpq = t.cpq := rfl
@[simp] theorem Slot.dropPend_mxq (t : Slot) (n : Nat) : (t.dropPend n).mxq = t.mxq := rfl
@[simp] theorem Slot.dropPend_ssq (t : Slot) (n : Nat) : (t.dropPend n).ssq = t.ssq := rfl
@[simp] theorem Slot.dropPend_ixq (t : Slot) (n : Nat) : (t.dropPend n).ixq = t.ixq := rfl
@[simp] theorem Slot.dropPend_ixo (t : Slot) (n : Nat) : (t.dropPend n).ixo = t.ixo := rfl
@[simp] theorem Slot.dropPend_sso (t : Slot) (n : Nat) : (t.dropPend n).sso = t.sso := rfl
@[simp] theorem Slot.dropPend_hold (t : Slot) (n : Nat) : (t.dropPend n).hold = t.hold := rfl
@[simp] theorem Slot.dropPend_bypass (t : Slot) (n : Nat) : (t.dropPend n).bypass = t.bypass := rfl
@[simp] theorem Slot.dropPend_faultWord (t : Slot) (n : Nat) : (t.dropPend n).faultWord = t.faultWord := rfl
@[simp] theorem Slot.dropPend_faultWin (t : Slot) (n : Nat) : (t.dropPend n).faultWin = t.faultWin := rfl
@[simp] theorem Slot.dropPend_replay (t : Slot) (n : Nat) : (t.dropPend n).replay = t.replay := rfl
@[simp] theorem Slot.dropPend_sbuf (t : Slot) (n : Nat) : (t.dropPend n).sbuf = t.sbuf := rfl
@[simp] theorem Slot.dropPend_early (t : Slot) (n : Nat) : (t.dropPend n).early = t.early := rfl
@[simp] theorem Slot.dropPend_duePreempt (t : Slot) (n : Nat) : (t.dropPend n).duePreempt = t.duePreempt := rfl
@[simp] theorem Slot.dropPend_dueCorr (t : Slot) (n : Nat) : (t.dropPend n).dueCorr = t.dueCorr := rfl
@[simp] theorem Slot.dropPend_dueStore (t : Slot) (n : Nat) : (t.dropPend n).dueStore = t.dueStore := rfl
@[simp] theorem Slot.dropPend_duePage (t : Slot) (n : Nat) : (t.dropPend n).duePage = t.duePage := rfl
@[simp] theorem Slot.dropPend_block (t : Slot) (n : Nat) : (t.dropPend n).block = t.block := rfl
@[simp] theorem Slot.dropPend_waddr0 (t : Slot) (n : Nat) : (t.dropPend n).waddr0 = t.waddr0 := rfl
@[simp] theorem Slot.dropPend_wctl0 (t : Slot) (n : Nat) : (t.dropPend n).wctl0 = t.wctl0 := rfl
@[simp] theorem Slot.dropPend_waddr1 (t : Slot) (n : Nat) : (t.dropPend n).waddr1 = t.waddr1 := rfl
@[simp] theorem Slot.dropPend_wctl1 (t : Slot) (n : Nat) : (t.dropPend n).wctl1 = t.wctl1 := rfl
@[simp] theorem Slot.dropPend_bell (t : Slot) (n : Nat) : (t.dropPend n).bell = t.bell := rfl
@[simp] theorem Slot.dropPend_wait (t : Slot) (n : Nat) : (t.dropPend n).wait = t.wait := rfl
@[simp] theorem Slot.dropPend_xf (t : Slot) (n : Nat) : (t.dropPend n).xf = t.xf := rfl
@[simp] theorem Slot.dropPend_beat (t : Slot) (n : Nat) : (t.dropPend n).beat = t.beat := rfl
@[simp] theorem Slot.dropPend_examined (t : Slot) (n : Nat) : (t.dropPend n).examined = t.examined := rfl

end Sys2Proof.Machine
end

