-- ==== Sys2Proof/Laws/Tables.lean ====
section
/-!
SUPPORT. Sparse tables and memory: reading what was set, leaving every other entry alone, and the canonical form that every
operation on memory keeps.
-/

namespace Sys2Proof.Machine

/-! ## Tables -/

@[simp] theorem Tbl.get_set_same {α : Type} (d : α) (t : Tbl α) (k : Nat) (x : α) :
    Tbl.get d (Tbl.set t k x) k = x := by
  induction t with
  | nil => simp [Tbl.set, Tbl.get]
  | cons e t ih =>
    obtain ⟨j, y⟩ := e
    by_cases h : k = j
    · simp [Tbl.set, Tbl.get, h]
    · by_cases h2 : k < j
      · simp [Tbl.set, Tbl.get, h, h2]
      · simp [Tbl.set, Tbl.get, h, h2, Ne.symm h, ih]

theorem Tbl.get_set_other {α : Type} (d : α) (t : Tbl α) (k j : Nat) (x : α) (h : j ≠ k) :
    Tbl.get d (Tbl.set t k x) j = Tbl.get d t j := by
  induction t with
  | nil => simp [Tbl.set, Tbl.get, Ne.symm h]
  | cons e t ih =>
    obtain ⟨i, y⟩ := e
    by_cases h1 : k = i
    · subst h1; simp [Tbl.set, Tbl.get, Ne.symm h]
    · by_cases h2 : k < i
      · simp [Tbl.set, Tbl.get, h1, h2, Ne.symm h]
      · simp [Tbl.set, Tbl.get, h1, h2, ih]

/-! ## One byte of memory -/

theorem memGet_set_same (m : List Host.Cell) (a : Nat) (b : Byte) : memGet (Tbl.set m a b) a = b := by
  induction m with
  | nil => simp [Tbl.set, memGet]
  | cons e t ih =>
    obtain ⟨j, y⟩ := e
    by_cases h : a = j
    · simp [Tbl.set, memGet, h]
    · by_cases h2 : a < j
      · simp [Tbl.set, memGet, h, h2]
      · simp [Tbl.set, memGet, h, h2, Ne.symm h, ih]

theorem memGet_set_other (m : List Host.Cell) (a x : Nat) (b : Byte) (h : x ≠ a) :
    memGet (Tbl.set m a b) x = memGet m x := by
  induction m with
  | nil => simp [Tbl.set, memGet, Ne.symm h]
  | cons e t ih =>
    obtain ⟨i, y⟩ := e
    by_cases h1 : a = i
    · subst h1; simp [Tbl.set, memGet, Ne.symm h]
    · by_cases h2 : a < i
      · simp [Tbl.set, memGet, h1, h2, Ne.symm h]
      · simp [Tbl.set, memGet, h1, h2, ih]

theorem memGet_filter_out (m : List Host.Cell) (q : Host.Cell → Bool) (x : Nat)
    (h : ∀ c ∈ m, c.1 = x → q c = false) : memGet (m.filter q) x = unlisted := by
  induction m with
  | nil => rfl
  | cons e t ih =>
    obtain ⟨i, y⟩ := e
    have ht := ih fun c hc => h c (List.mem_cons_of_mem _ hc)
    by_cases hq : q (i, y) = true
    · have hi : i ≠ x := fun hx => by have := h (i, y) List.mem_cons_self hx; simp [hq] at this
      simp [hq, memGet, hi, ht]
    · simp [hq, ht]

theorem memGet_filter_keep (m : List Host.Cell) (q : Host.Cell → Bool) (x : Nat)
    (h : ∀ c ∈ m, c.1 = x → q c = true) : memGet (m.filter q) x = memGet m x := by
  induction m with
  | nil => rfl
  | cons e t ih =>
    obtain ⟨i, y⟩ := e
    have ht := ih fun c hc => h c (List.mem_cons_of_mem _ hc)
    by_cases hx : i = x
    · have hq := h (i, y) List.mem_cons_self hx
      subst hx
      simp [hq, memGet]
    · by_cases hq : q (i, y) = true
      · simp [hq, memGet, hx, ht]
      · simp [hq, memGet, hx, ht]

@[simp] theorem memGet_memSet_same (m : List Host.Cell) (a : Nat) (b : Byte) : memGet (memSet m a b) a = b := by
  unfold memSet
  split
  · next h => rw [h]; exact memGet_filter_out m _ a fun c _ hc => by simp [hc]
  · exact memGet_set_same m a b

theorem memGet_memSet_other (m : List Host.Cell) (a x : Nat) (b : Byte) (h : x ≠ a) :
    memGet (memSet m a b) x = memGet m x := by
  unfold memSet
  split
  · exact memGet_filter_keep m _ x fun c _ hc => by simp [hc, h]
  · exact memGet_set_other m a x b h

/-! ## Ranges of bytes -/

theorem memGet_wrBytes_out (d : List Byte) : ∀ (m : List Host.Cell) (a x : Nat), (x < a ∨ a + d.length ≤ x) →
    memGet (wrBytes m a d) x = memGet m x := by
  induction d with
  | nil => intro m a x _; rfl
  | cons b t ih =>
    intro m a x h
    have h' : x < a + 1 ∨ a + 1 + t.length ≤ x := by simp only [List.length_cons] at h; omega
    have hx : x ≠ a := by simp only [List.length_cons] at h; omega
    rw [wrBytes, ih _ _ _ h', memGet_memSet_other _ _ _ _ hx]

theorem rdBytes_length : ∀ (n : Nat) (m : List Host.Cell) (a : Nat), (rdBytes m a n).length = n
  | 0, _, _ => rfl
  | n + 1, m, a => by simp [rdBytes, rdBytes_length n]

theorem rdBytes_congr : ∀ (n : Nat) (m m' : List Host.Cell) (a : Nat),
    (∀ x, a ≤ x → x < a + n → memGet m x = memGet m' x) → rdBytes m a n = rdBytes m' a n
  | 0, _, _, _, _ => rfl
  | n + 1, m, m', a, h => by
    rw [rdBytes, rdBytes, h a (Nat.le_refl a) (by omega),
      rdBytes_congr n m m' (a + 1) fun x h1 h2 => h x (by omega) (by omega)]

theorem rdBytes_wrBytes (d : List Byte) : ∀ (m : List Host.Cell) (a : Nat), rdBytes (wrBytes m a d) a d.length = d := by
  induction d with
  | nil => intro m a; rfl
  | cons b t ih =>
    intro m a
    have h : memGet (wrBytes (memSet m a b) (a + 1) t) a = b := by
      rw [memGet_wrBytes_out t _ _ _ (.inl (Nat.lt_succ_self a)), memGet_memSet_same]
    simp only [List.length_cons, wrBytes, rdBytes, h]
    rw [ih]

theorem rdBytes_wrBytes_apart (m : List Host.Cell) (a b n : Nat) (d : List Byte) (h : b + n ≤ a ∨ a + d.length ≤ b) :
    rdBytes (wrBytes m a d) b n = rdBytes m b n :=
  rdBytes_congr n _ _ b fun x _ _ => memGet_wrBytes_out d m a x (by omega)

/-! ## The canonical form -/

theorem risingFrom_weaken : ∀ (m : List Host.Cell) (l k : Nat), k ≤ l → risingFrom (some l) m = true →
    risingFrom (some k) m = true
  | [], _, _, _, _ => rfl
  | (a, b) :: t, l, k, hkl, h => by
    simp only [risingFrom, Bool.and_eq_true, decide_eq_true_eq] at h ⊢
    exact ⟨by omega, h.2⟩

theorem risingFrom_none {m : List Host.Cell} {l : Nat} (h : risingFrom (some l) m = true) : risingFrom none m = true := by
  cases m with
  | nil => rfl
  | cons e t =>
    simp only [risingFrom, Bool.and_eq_true, decide_eq_true_eq] at h ⊢
    exact h.2

theorem risingFrom_filter (q : Host.Cell → Bool) : ∀ (m : List Host.Cell) (lo : Option Nat),
    risingFrom lo m = true → risingFrom lo (m.filter q) = true
  | [], lo, _ => by cases lo <;> rfl
  | (a, b) :: t, lo, h => by
    have ht : risingFrom (some a) t = true := by
      cases lo with
      | none => exact h
      | some l => simp only [risingFrom, Bool.and_eq_true] at h; exact h.2
    have hf := risingFrom_filter q t (some a) ht
    rw [List.filter_cons]
    split
    · cases lo with
      | none => exact hf
      | some l =>
        simp only [risingFrom, Bool.and_eq_true] at h ⊢
        exact ⟨h.1, hf⟩
    · cases lo with
      | none => exact risingFrom_none hf
      | some l =>
        simp only [risingFrom, Bool.and_eq_true, decide_eq_true_eq] at h
        exact risingFrom_weaken _ a l (by omega) hf

theorem risingFrom_set (b : Byte) : ∀ (m : List Host.Cell) (lo : Option Nat) (a : Nat),
    risingFrom lo m = true → (∀ l, lo = some l → l < a) → risingFrom lo (Tbl.set m a b) = true
  | [], lo, a, _, hl => by
    cases lo with
    | none => rfl
    | some l => simp [Tbl.set, risingFrom, hl l rfl]
  | (j, y) :: t, lo, a, h, hl => by
    have ht : risingFrom (some j) t = true := by
      cases lo with
      | none => exact h
      | some l => simp only [risingFrom, Bool.and_eq_true] at h; exact h.2
    unfold Tbl.set
    split
    · next hk =>
      subst hk
      cases lo with
      | none => exact ht
      | some l => simp only [risingFrom, Bool.and_eq_true, decide_eq_true_eq]; exact ⟨hl l rfl, ht⟩
    · next hk =>
      split
      · next hlt =>
        have hr : risingFrom (some a) ((j, y) :: t) = true := by
          simp only [risingFrom, Bool.and_eq_true, decide_eq_true_eq]; exact ⟨hlt, ht⟩
        cases lo with
        | none => exact hr
        | some l =>
          rw [risingFrom, Bool.and_eq_true, decide_eq_true_eq]; exact ⟨hl l rfl, hr⟩
      · next hge =>
        have hr := risingFrom_set b t (some j) a ht fun l hj => by cases hj; omega
        cases lo with
        | none => exact hr
        | some l =>
          simp only [risingFrom, Bool.and_eq_true, decide_eq_true_eq] at h ⊢
          exact ⟨h.1, hr⟩

theorem mem_set {α : Type} {t : Tbl α} {k : Nat} {x : α} {e : Nat × α} (h : e ∈ Tbl.set t k x) : e = (k, x) ∨ e ∈ t := by
  induction t with
  | nil => simp [Tbl.set] at h; exact .inl h
  | cons f t ih =>
    obtain ⟨j, y⟩ := f
    unfold Tbl.set at h
    split at h
    · simp only [List.mem_cons] at h ⊢
      exact h.imp_right .inr
    · split at h
      · simp only [List.mem_cons] at h ⊢
        exact h
      · simp only [List.mem_cons] at h ⊢
        rcases h with h | h
        · exact .inr (.inl h)
        · exact (ih h).imp_right .inr

theorem Memory.wf_iff {m : List Host.Cell} :
    Memory.wf m = true ↔ risingFrom none m = true ∧ ∀ c ∈ m, c.2 ≠ unlisted := by
  simp [Memory.wf, List.all_eq_true]

@[simp] theorem Memory.wf_filter {m : List Host.Cell} (q : Host.Cell → Bool) (h : Memory.wf m = true) :
    Memory.wf (m.filter q) = true := by
  rw [Memory.wf_iff] at h ⊢
  exact ⟨risingFrom_filter q m none h.1, fun c hc => h.2 c (List.mem_of_mem_filter hc)⟩

@[simp] theorem Memory.wf_memSet {m : List Host.Cell} (a : Nat) (b : Byte) (h : Memory.wf m = true) :
    Memory.wf (memSet m a b) = true := by
  unfold memSet
  split
  · exact Memory.wf_filter _ h
  · next hb =>
    rw [Memory.wf_iff] at h ⊢
    refine ⟨risingFrom_set b m none a h.1 (fun l hl => nomatch hl), fun c hc => ?_⟩
    rcases mem_set hc with h1 | h1
    · rw [h1]; exact hb
    · exact h.2 c h1

@[simp] theorem Memory.wf_wrBytes (d : List Byte) : ∀ (m : List Host.Cell) (a : Nat), Memory.wf m = true →
    Memory.wf (wrBytes m a d) = true := by
  induction d with
  | nil => intro m a h; exact h
  | cons b t ih => intro m a h; exact ih _ _ (Memory.wf_memSet a b h)

@[simp] theorem Memory.wf_foldl_memSet {β : Type} (f : β → Nat × Byte) : ∀ (l : List β) (m : List Host.Cell),
    Memory.wf m = true → Memory.wf (l.foldl (fun m x => memSet m (f x).1 (f x).2) m) = true
  | [], _, h => h
  | x :: t, _, h => Memory.wf_foldl_memSet f t _ (Memory.wf_memSet (f x).1 (f x).2 h)

@[simp] theorem Memory.wf_wrCells (s : State) (p : Place) (d : List Byte) (h : Memory.wf s.mem = true) :
    Memory.wf (s.wrCells p d) = true := by
  unfold State.wrCells
  split
  · exact Memory.wf_wrBytes _ _ _ h
  · unfold State.wrGranule
    split <;> exact Memory.wf_wrBytes _ _ _ h

@[simp] theorem State.wr_wf (s : State) (p : Place) (d : List Byte) (h : Memory.wf s.mem = true) :
    Memory.wf (s.wr p d).mem = true := Memory.wf_wrCells s p d h

@[simp] theorem State.wrLong_wf : ∀ (n : Nat) (s : State) (p : Place) (d : List Byte), Memory.wf s.mem = true →
    Memory.wf (s.wrLong n p d).mem = true
  | 0, _, _, _, h => h
  | n + 1, s, p, d, h => by
    unfold State.wrLong
    dsimp only
    split
    · exact h
    · exact State.wrLong_wf n _ _ _ (State.wr_wf s _ _ h)

/-! ## Repeated updates -/

/-- A fold of updates that leave memory alone leaves it alone. -/
theorem State.foldl_mem {β : Type} {f : State → β → State} (h : ∀ s x, (f s x).mem = s.mem) :
    ∀ (l : List β) (s : State), (l.foldl f s).mem = s.mem
  | [], _ => rfl
  | x :: t, s => (State.foldl_mem h t (f s x)).trans (h s x)

/-- A fold of updates that keep the canonical form keeps it. -/
theorem State.foldl_wf {β : Type} {f : State → β → State}
    (h : ∀ s x, Memory.wf s.mem = true → Memory.wf (f s x).mem = true) :
    ∀ (l : List β) (s : State), Memory.wf s.mem = true → Memory.wf (l.foldl f s).mem = true
  | [], _, hs => hs
  | x :: t, s, hs => State.foldl_wf h t (f s x) (h s x hs)

end Sys2Proof.Machine
end

