-- ==== Sys2Proof/Laws/Access.lean ====
section
/-!
SUPPORT. Reading the tables of agents and the registers of a slot after an update: what was written is read back, and
every other entry and register is as before.
-/

namespace Sys2Proof.Machine

/-! ## Tables of agents -/

@[simp] theorem State.slot_setSlot_same (s : State) (u : Nat) (t : Slot) : (s.setSlot u t).slot u = t :=
  Tbl.get_set_same _ _ _ _
theorem State.slot_setSlot_other (s : State) (u j : Nat) (t : Slot) (h : j ≠ u) :
    (s.setSlot u t).slot j = s.slot j := Tbl.get_set_other _ _ _ _ _ h
@[simp] theorem State.core_setCore_same (s : State) (g : Nat) (x : Core) : (s.setCore g x).core g = x :=
  Tbl.get_set_same _ _ _ _
theorem State.core_setCore_other (s : State) (g j : Nat) (x : Core) (h : j ≠ g) :
    (s.setCore g x).core j = s.core j := Tbl.get_set_other _ _ _ _ _ h
@[simp] theorem State.facet_setFacet_same (s : State) (f : Nat) (x : Facet) : (s.setFacet f x).facet f = x :=
  Tbl.get_set_same _ _ _ _
theorem State.facet_setFacet_other (s : State) (f j : Nat) (x : Facet) (h : j ≠ f) :
    (s.setFacet f x).facet j = s.facet j := Tbl.get_set_other _ _ _ _ _ h
@[simp] theorem State.walker_setWalker_same (s : State) (w : Nat) (x : Walker) : (s.setWalker w x).walker w = x :=
  Tbl.get_set_same _ _ _ _
theorem State.walker_setWalker_other (s : State) (w j : Nat) (x : Walker) (h : j ≠ w) :
    (s.setWalker w x).walker j = s.walker j := Tbl.get_set_other _ _ _ _ _ h
@[simp] theorem State.ctx_setCtx_same (s : State) (c : Nat) (x : Ctx) : (s.setCtx c x).ctx c = x :=
  Tbl.get_set_same _ _ _ _
theorem State.ctx_setCtx_other (s : State) (c j : Nat) (x : Ctx) (h : j ≠ c) :
    (s.setCtx c x).ctx j = s.ctx j := Tbl.get_set_other _ _ _ _ _ h
@[simp] theorem State.queue_setQueue_same (s : State) (q : Nat) (x : LaunchQ) : (s.setQueue q x).queue q = x :=
  Tbl.get_set_same _ _ _ _
theorem State.queue_setQueue_other (s : State) (q j : Nat) (x : LaunchQ) (h : j ≠ q) :
    (s.setQueue q x).queue j = s.queue j := Tbl.get_set_other _ _ _ _ _ h
@[simp] theorem State.region_setRegion_same (s : State) (n : Nat) (x : Region) : (s.setRegion n x).region n = x :=
  Tbl.get_set_same _ _ _ _
theorem State.region_setRegion_other (s : State) (n j : Nat) (x : Region) (h : j ≠ n) :
    (s.setRegion n x).region j = s.region j := Tbl.get_set_other _ _ _ _ _ h
@[simp] theorem State.index_setIndex_same (s : State) (n : Nat) (x : IndexSlot) : (s.setIndex n x).index n = x :=
  Tbl.get_set_same _ _ _ _
theorem State.index_setIndex_other (s : State) (n j : Nat) (x : IndexSlot) (h : j ≠ n) :
    (s.setIndex n x).index j = s.index j := Tbl.get_set_other _ _ _ _ _ h

@[simp] theorem State.core_setSlot (s : State) (u j : Nat) (t : Slot) : (s.setSlot u t).core j = s.core j := rfl
@[simp] theorem State.facet_setSlot (s : State) (u j : Nat) (t : Slot) : (s.setSlot u t).facet j = s.facet j := rfl
@[simp] theorem State.walker_setSlot (s : State) (u j : Nat) (t : Slot) : (s.setSlot u t).walker j = s.walker j := rfl
@[simp] theorem State.ctx_setSlot (s : State) (u j : Nat) (t : Slot) : (s.setSlot u t).ctx j = s.ctx j := rfl
@[simp] theorem State.queue_setSlot (s : State) (u j : Nat) (t : Slot) : (s.setSlot u t).queue j = s.queue j := rfl
@[simp] theorem State.region_setSlot (s : State) (u j : Nat) (t : Slot) : (s.setSlot u t).region j = s.region j := rfl
@[simp] theorem State.index_setSlot (s : State) (u j : Nat) (t : Slot) : (s.setSlot u t).index j = s.index j := rfl
@[simp] theorem State.slot_setCore (s : State) (g j : Nat) (x : Core) : (s.setCore g x).slot j = s.slot j := rfl
@[simp] theorem State.facet_setCore (s : State) (g j : Nat) (x : Core) : (s.setCore g x).facet j = s.facet j := rfl
@[simp] theorem State.walker_setCore (s : State) (g j : Nat) (x : Core) : (s.setCore g x).walker j = s.walker j := rfl
@[simp] theorem State.ctx_setCore (s : State) (g j : Nat) (x : Core) : (s.setCore g x).ctx j = s.ctx j := rfl
@[simp] theorem State.queue_setCore (s : State) (g j : Nat) (x : Core) : (s.setCore g x).queue j = s.queue j := rfl
@[simp] theorem State.region_setCore (s : State) (g j : Nat) (x : Core) : (s.setCore g x).region j = s.region j := rfl
@[simp] theorem State.index_setCore (s : State) (g j : Nat) (x : Core) : (s.setCore g x).index j = s.index j := rfl
@[simp] theorem State.slot_setFacet (s : State) (f j : Nat) (x : Facet) : (s.setFacet f x).slot j = s.slot j := rfl
@[simp] theorem State.core_setFacet (s : State) (f j : Nat) (x : Facet) : (s.setFacet f x).core j = s.core j := rfl
@[simp] theorem State.walker_setFacet (s : State) (f j : Nat) (x : Facet) : (s.setFacet f x).walker j = s.walker j := rfl
@[simp] theorem State.ctx_setFacet (s : State) (f j : Nat) (x : Facet) : (s.setFacet f x).ctx j = s.ctx j := rfl
@[simp] theorem State.queue_setFacet (s : State) (f j : Nat) (x : Facet) : (s.setFacet f x).queue j = s.queue j := rfl
@[simp] theorem State.region_setFacet (s : State) (f j : Nat) (x : Facet) : (s.setFacet f x).region j = s.region j := rfl
@[simp] theorem State.index_setFacet (s : State) (f j : Nat) (x : Facet) : (s.setFacet f x).index j = s.index j := rfl
@[simp] theorem State.slot_setWalker (s : State) (w j : Nat) (x : Walker) : (s.setWalker w x).slot j = s.slot j := rfl
@[simp] theorem State.core_setWalker (s : State) (w j : Nat) (x : Walker) : (s.setWalker w x).core j = s.core j := rfl
@[simp] theorem State.facet_setWalker (s : State) (w j : Nat) (x : Walker) : (s.setWalker w x).facet j = s.facet j := rfl
@[simp] theorem State.ctx_setWalker (s : State) (w j : Nat) (x : Walker) : (s.setWalker w x).ctx j = s.ctx j := rfl
@[simp] theorem State.queue_setWalker (s : State) (w j : Nat) (x : Walker) : (s.setWalker w x).queue j = s.queue j := rfl
@[simp] theorem State.region_setWalker (s : State) (w j : Nat) (x : Walker) : (s.setWalker w x).region j = s.region j := rfl
@[simp] theorem State.index_setWalker (s : State) (w j : Nat) (x : Walker) : (s.setWalker w x).index j = s.index j := rfl
@[simp] theorem State.slot_setCtx (s : State) (c j : Nat) (x : Ctx) : (s.setCtx c x).slot j = s.slot j := rfl
@[simp] theorem State.core_setCtx (s : State) (c j : Nat) (x : Ctx) : (s.setCtx c x).core j = s.core j := rfl
@[simp] theorem State.facet_setCtx (s : State) (c j : Nat) (x : Ctx) : (s.setCtx c x).facet j = s.facet j := rfl
@[simp] theorem State.walker_setCtx (s : State) (c j : Nat) (x : Ctx) : (s.setCtx c x).walker j = s.walker j := rfl
@[simp] theorem State.queue_setCtx (s : State) (c j : Nat) (x : Ctx) : (s.setCtx c x).queue j = s.queue j := rfl
@[simp] theorem State.region_setCtx (s : State) (c j : Nat) (x : Ctx) : (s.setCtx c x).region j = s.region j := rfl
@[simp] theorem State.index_setCtx (s : State) (c j : Nat) (x : Ctx) : (s.setCtx c x).index j = s.index j := rfl
@[simp] theorem State.slot_setQueue (s : State) (q j : Nat) (x : LaunchQ) : (s.setQueue q x).slot j = s.slot j := rfl
@[simp] theorem State.core_setQueue (s : State) (q j : Nat) (x : LaunchQ) : (s.setQueue q x).core j = s.core j := rfl
@[simp] theorem State.facet_setQueue (s : State) (q j : Nat) (x : LaunchQ) : (s.setQueue q x).facet j = s.facet j := rfl
@[simp] theorem State.walker_setQueue (s : State) (q j : Nat) (x : LaunchQ) : (s.setQueue q x).walker j = s.walker j := rfl
@[simp] theorem State.ctx_setQueue (s : State) (q j : Nat) (x : LaunchQ) : (s.setQueue q x).ctx j = s.ctx j := rfl
@[simp] theorem State.region_setQueue (s : State) (q j : Nat) (x : LaunchQ) : (s.setQueue q x).region j = s.region j := rfl
@[simp] theorem State.index_setQueue (s : State) (q j : Nat) (x : LaunchQ) : (s.setQueue q x).index j = s.index j := rfl
@[simp] theorem State.slot_setRegion (s : State) (n j : Nat) (x : Region) : (s.setRegion n x).slot j = s.slot j := rfl
@[simp] theorem State.core_setRegion (s : State) (n j : Nat) (x : Region) : (s.setRegion n x).core j = s.core j := rfl
@[simp] theorem State.facet_setRegion (s : State) (n j : Nat) (x : Region) : (s.setRegion n x).facet j = s.facet j := rfl
@[simp] theorem State.walker_setRegion (s : State) (n j : Nat) (x : Region) : (s.setRegion n x).walker j = s.walker j := rfl
@[simp] theorem State.ctx_setRegion (s : State) (n j : Nat) (x : Region) : (s.setRegion n x).ctx j = s.ctx j := rfl
@[simp] theorem State.queue_setRegion (s : State) (n j : Nat) (x : Region) : (s.setRegion n x).queue j = s.queue j := rfl
@[simp] theorem State.index_setRegion (s : State) (n j : Nat) (x : Region) : (s.setRegion n x).index j = s.index j := rfl
@[simp] theorem State.slot_setIndex (s : State) (n j : Nat) (x : IndexSlot) : (s.setIndex n x).slot j = s.slot j := rfl
@[simp] theorem State.core_setIndex (s : State) (n j : Nat) (x : IndexSlot) : (s.setIndex n x).core j = s.core j := rfl
@[simp] theorem State.facet_setIndex (s : State) (n j : Nat) (x : IndexSlot) : (s.setIndex n x).facet j = s.facet j := rfl
@[simp] theorem State.walker_setIndex (s : State) (n j : Nat) (x : IndexSlot) : (s.setIndex n x).walker j = s.walker j := rfl
@[simp] theorem State.ctx_setIndex (s : State) (n j : Nat) (x : IndexSlot) : (s.setIndex n x).ctx j = s.ctx j := rfl
@[simp] theorem State.queue_setIndex (s : State) (n j : Nat) (x : IndexSlot) : (s.setIndex n x).queue j = s.queue j := rfl
@[simp] theorem State.region_setIndex (s : State) (n j : Nat) (x : IndexSlot) : (s.setIndex n x).region j = s.region j := rfl

/-! ## The running slot -/

@[simp] theorem State.here_setHere (s : State) (t : Slot) : (s.setHere t).here = t := Tbl.get_set_same _ _ _ _
theorem State.slot_setHere_other (s : State) (t : Slot) (u : Nat) (h : u ≠ s.cur) :
    (s.setHere t).slot u = s.slot u := Tbl.get_set_other _ _ _ _ _ h
@[simp] theorem State.here_setCore (s : State) (g : Nat) (x : Core) : (s.setCore g x).here = s.here := rfl
@[simp] theorem State.here_setFacet (s : State) (f : Nat) (x : Facet) : (s.setFacet f x).here = s.here := rfl
@[simp] theorem State.here_setWalker (s : State) (w : Nat) (x : Walker) : (s.setWalker w x).here = s.here := rfl
@[simp] theorem State.here_setCtx (s : State) (c : Nat) (x : Ctx) : (s.setCtx c x).here = s.here := rfl
@[simp] theorem State.here_setMac (s : State) (f m : Nat) (y : Mac) : (s.setMac f m y).here = s.here := rfl
@[simp] theorem State.here_wr (s : State) (p : Place) (d : List Byte) : (s.wr p d).here = s.here := rfl

@[simp] theorem State.core_setHere (s : State) (t : Slot) (j : Nat) : (s.setHere t).core j = s.core j := rfl
@[simp] theorem State.facet_setHere (s : State) (t : Slot) (j : Nat) : (s.setHere t).facet j = s.facet j := rfl
@[simp] theorem State.walker_setHere (s : State) (t : Slot) (j : Nat) : (s.setHere t).walker j = s.walker j := rfl
@[simp] theorem State.ctx_setHere (s : State) (t : Slot) (j : Nat) : (s.setHere t).ctx j = s.ctx j := rfl
@[simp] theorem State.queue_setHere (s : State) (t : Slot) (j : Nat) : (s.setHere t).queue j = s.queue j := rfl
@[simp] theorem State.region_setHere (s : State) (t : Slot) (j : Nat) : (s.setHere t).region j = s.region j := rfl
@[simp] theorem State.index_setHere (s : State) (t : Slot) (j : Nat) : (s.setHere t).index j = s.index j := rfl
@[simp] theorem State.slot_wr (s : State) (p : Place) (d : List Byte) (j : Nat) : (s.wr p d).slot j = s.slot j := rfl
@[simp] theorem State.core_wr (s : State) (p : Place) (d : List Byte) (j : Nat) : (s.wr p d).core j = s.core j := rfl
@[simp] theorem State.facet_wr (s : State) (p : Place) (d : List Byte) (j : Nat) : (s.wr p d).facet j = s.facet j := rfl
@[simp] theorem State.walker_wr (s : State) (p : Place) (d : List Byte) (j : Nat) : (s.wr p d).walker j = s.walker j := rfl
@[simp] theorem State.ctx_wr (s : State) (p : Place) (d : List Byte) (j : Nat) : (s.wr p d).ctx j = s.ctx j := rfl
@[simp] theorem State.queue_wr (s : State) (p : Place) (d : List Byte) (j : Nat) : (s.wr p d).queue j = s.queue j := rfl
@[simp] theorem State.region_wr (s : State) (p : Place) (d : List Byte) (j : Nat) : (s.wr p d).region j = s.region j := rfl
@[simp] theorem State.index_wr (s : State) (p : Place) (d : List Byte) (j : Nat) : (s.wr p d).index j = s.index j := rfl

/-! ## Registers -/

theorem Slot.phys_zero (t : Slot) : t.phys 0 = 0 := rfl

theorem getD_set_same {α : Type} {n : Nat} (v : Vector α n) (i : Nat) (x d : α) (h : i < n) :
    (v.setIfInBounds i x).getD i d = x := by
  simp [Vector.getD, Array.getD, h]

theorem getD_set_other {α : Type} {n : Nat} (v : Vector α n) (i j : Nat) (x d : α) (h : j ≠ i) :
    (v.setIfInBounds i x).getD j d = v.getD j d := by
  by_cases hj : j < n <;> simp [Vector.getD, Array.getD, hj, Ne.symm h]

theorem Slot.phys_setPhys_same (t : Slot) (n : Nat) (x : Dword) (h0 : n ≠ 0) (h32 : n ≠ 32) (h : n < 40) :
    (t.setPhys n x).phys n = x := by
  unfold Slot.phys Slot.setPhys
  by_cases hn : n < 33
  · simp only [h0, hn, if_true, if_false]
    exact getD_set_same _ _ _ _ (by omega)
  · simp only [h0, hn, if_false]
    exact getD_set_same _ _ _ _ (by omega)

theorem Slot.phys_setPhys_other (t : Slot) (n k : Nat) (x : Dword) (h : k ≠ n) : (t.setPhys n x).phys k = t.phys k := by
  unfold Slot.phys Slot.setPhys
  by_cases hn0 : n = 0
  · simp only [hn0, if_true]
  · by_cases hk0 : k = 0
    · simp only [hk0, if_true]
    · by_cases hn : n < 33 <;> by_cases hk : k < 33 <;> simp only [hn0, hk0, hn, hk, if_true, if_false]
      · exact getD_set_other _ _ _ _ _ h
      · exact getD_set_other _ _ _ _ _ (by omega)

@[simp] theorem Slot.phys_unmark (t : Slot) (n k : Nat) : (t.unmark n).phys k = t.phys k := rfl

theorem Slot.regNo_lt (t : Slot) (a : Nat) (h : a < 32) : t.regNo a < 40 := by
  unfold Slot.regNo; split
  · next hc => simp at hc; omega
  · omega

theorem Slot.regNo_ne_zero (t : Slot) (a : Nat) (h : a ≠ 0) : t.regNo a ≠ 0 := by unfold Slot.regNo; split <;> omega

theorem Slot.regNo_ne_gap (t : Slot) (a : Nat) (h : a < 32) : t.regNo a ≠ 32 := by
  unfold Slot.regNo; split
  · next hc => simp at hc; omega
  · omega

theorem Slot.regNo_inj (t : Slot) (a b : Nat) (ha : a < 32) (hb : b < 32) (h : t.regNo a = t.regNo b) : a = b := by
  unfold Slot.regNo at h
  split at h <;> split at h <;> simp_all
  all_goals omega

@[simp] theorem Slot.s_zero (t : Slot) : t.s 0 = 0 := by simp [Slot.s, Slot.regNo, Slot.phys]

@[simp] theorem Slot.regNo_setS (t : Slot) (d a : Nat) (x : Dword) : (t.setS d x).regNo a = t.regNo a := by
  simp [Slot.regNo]

/-- What a written register reads as. -/
theorem Slot.s_setS_same (t : Slot) (d : Nat) (x : Dword) (h0 : d ≠ 0) (h : d < 32) : (t.setS d x).s d = x := by
  rw [Slot.s, Slot.regNo_setS, Slot.setS, Slot.phys_unmark]
  exact Slot.phys_setPhys_same _ _ _ (t.regNo_ne_zero d h0) (t.regNo_ne_gap d h) (t.regNo_lt d h)

/-- Every other register of the level reads as before. -/
theorem Slot.s_setS_other (t : Slot) (a d : Nat) (x : Dword) (ha : a < 32) (hd : d < 32) (h : a ≠ d) :
    (t.setS d x).s a = t.s a := by
  rw [Slot.s, Slot.regNo_setS, Slot.setS, Slot.phys_unmark]
  exact Slot.phys_setPhys_other _ _ _ _ fun he => h (t.regNo_inj a d ha hd he)

/-- A write to s0 is discarded. -/
theorem Slot.setS_zero (t : Slot) (x : Dword) : t.setS 0 x = t.unmark 0 := by simp [Slot.setS, Slot.regNo, Slot.setPhys]

theorem Slot.vreg_setV_same (t : Slot) (d : Nat) (x : Vec) (h : d < 32) : (t.setV d x).vreg d = x :=
  getD_set_same _ _ _ _ h
theorem Slot.vreg_setV_other (t : Slot) (d a : Nat) (x : Vec) (h : a ≠ d) : (t.setV d x).vreg a = t.vreg a :=
  getD_set_other _ _ _ _ _ h

end Sys2Proof.Machine
end

