-- ==== Sys2Proof/Laws/Canonical.lean ====
section
/-!
SUPPORT. What the operations of the instructions do to memory: they leave it alone, or they keep its canonical form.
-/

set_option Elab.async false
set_option linter.all false

namespace Sys2Proof.Machine

/-! ## Translate -/

@[simp] theorem State.sendWalk_mem (s : State) (f c page : Nat) : (State.sendWalk s f c page).mem = s.mem := by
  unfold State.sendWalk
  try dsimp only
  repeat' split
  all_goals first | rfl | simp | simp_all

@[simp] theorem State.missOn_mem (s : State) (f c va : Nat) : (State.missOn s f c va).mem = s.mem := by
  unfold State.missOn
  try dsimp only
  repeat' split
  all_goals first | rfl | simp | simp_all

/-! ## Net -/

@[simp] theorem State.setLog_mem (s : State) (a : LogAt) (l : ErrLog) : (State.setLog s a l).mem = s.mem := by
  unfold State.setLog
  try dsimp only
  repeat' split
  all_goals first | rfl | simp | simp_all

@[simp] theorem State.report_mem (s : State) (a : LogAt) (i c : Nat) : (State.report s a i c).mem = s.mem := by
  unfold State.report
  try dsimp only
  repeat' split
  all_goals first | rfl | simp | simp_all

@[simp] theorem State.logEvent_mem (s : State) (a : LogAt) (kind : Nat) (ctx : Option Nat) (count addr : Nat) (toCtx : Bool) : (State.logEvent s a kind ctx count addr toCtx).mem = s.mem := by
  unfold State.logEvent
  try dsimp only
  repeat' split
  all_goals first | rfl | simp | simp_all

@[simp] theorem State.touchUnit_mem (s : State) (c : Option Nat) (u : Nat) : (State.touchUnit s c u).mem = s.mem := by
  unfold State.touchUnit
  try dsimp only
  repeat' split
  all_goals first | rfl | simp | simp_all

@[simp] theorem State.touch_mem (s : State) (c pa n : Nat) : (s.touch c pa n).mem = s.mem := by
  unfold State.touch
  split
  · rfl
  · exact State.foldl_mem (fun s u => State.touchUnit_mem s (some c) u) _ _

@[simp] theorem State.touchPart_mem (s : State) (c pa n : Nat) : (s.touchPart c pa n).mem = s.mem := by
  unfold State.touchPart
  split
  · rfl
  · exact State.foldl_mem (fun s u => State.touchUnit_mem s (some c) u) _ _

@[simp] theorem State.write_wf (s : State) (c : Nat) (p : Place) (d : List Byte) (hw : Memory.wf s.mem = true) :
    Memory.wf (s.write c p d).mem = true := by
  unfold State.write
  exact State.wr_wf _ _ _ (by rw [State.touchPart_mem]; exact hw)

@[simp] theorem State.walkTouch_mem (s : State) (c page : Nat) : (s.walkTouch c page).mem = s.mem := by
  unfold State.walkTouch
  split
  · rfl
  · exact State.foldl_mem (fun s a => State.touch_mem s c a 8) _ _

@[simp] theorem State.decodeWord_mem (s : State) (f : Nat) (c : Option Nat) (w : Nat) : (State.decodeWord s f c w).mem = s.mem := by
  unfold State.decodeWord
  try dsimp only
  repeat' split
  all_goals first | rfl | simp | simp_all

@[simp] theorem State.exitRetention_mem (s : State) (f m : Nat) (c : Option Nat) : (s.exitRetention f m c).mem = s.mem := by
  unfold State.exitRetention
  exact State.foldl_mem (fun s w => State.decodeWord_mem s f c w) _ _

@[simp] theorem State.wakeNow_mem (s : State) (c pa : Nat) : (State.wakeNow s c pa).mem = s.mem := by
  unfold State.wakeNow
  try dsimp only
  repeat' split
  all_goals first | rfl | simp | simp_all

@[simp] theorem State.putBytes_wf (f c : Nat) : ∀ (fuel : Nat) (s : State) (va : Nat) (d : List Byte),
    Memory.wf s.mem = true → Memory.wf (s.putBytes f c fuel va d).mem = true
  | 0, _, _, _, hw => hw
  | fuel + 1, s, va, d, hw => by
    unfold State.putBytes
    dsimp only
    split
    · exact hw
    · apply State.putBytes_wf
      split
      · exact State.write_wf _ _ _ _ (by rw [State.wakeNow_mem, State.walkTouch_mem]; exact hw)
      · rw [State.walkTouch_mem]; exact hw

@[simp] theorem State.getBytes_mem (f c : Nat) : ∀ (fuel : Nat) (s : State) (va : Nat) (d : List Byte),
    (s.getBytes f c fuel va d).1.mem = s.mem
  | 0, _, _, _ => rfl
  | fuel + 1, s, va, d => by
    unfold State.getBytes
    dsimp only
    split
    · rfl
    · split <;> simp [State.getBytes_mem]

@[simp] theorem State.ringPut_wf (s : State) (f c base i : Nat) (m : Msg) (hw : Memory.wf s.mem = true) :
    Memory.wf (s.ringPut f c base i m).mem = true := State.putBytes_wf _ _ _ _ _ _ hw

@[simp] theorem State.ringGet_mem (s : State) (f c base i : Nat) (m : Msg) : (s.ringGet f c base i m).1.mem = s.mem :=
  State.getBytes_mem _ _ _ _ _ _

@[simp] theorem State.ringBell_mem (s : State) (g : Nat) : (State.ringBell s g).mem = s.mem := by
  unfold State.ringBell
  try dsimp only
  repeat' split
  all_goals first | rfl | simp | simp_all

@[simp] theorem State.deliver_wf (s0 : State) (g c : Nat) (pri : Bool) (x : Held) (hw : Memory.wf s0.mem = true) :
    Memory.wf (State.deliver s0 g c pri x).mem = true := by
  unfold State.deliver
  try dsimp only
  repeat' split
  all_goals first | exact hw | (simp (maxDischargeDepth := 12) [hw]; done) | (simp_all (maxDischargeDepth := 12); done)

@[simp] theorem State.takeBox_mem (s : State) (g c : Nat) (pri : Bool) : (State.takeBox s g c pri).mem = s.mem := by
  unfold State.takeBox
  try dsimp only
  repeat' split
  all_goals first | rfl | simp | simp_all

@[simp] theorem State.pushTop_wf (s : State) (g c : Nat) (x : Held) (hw : Memory.wf s.mem = true) :
    Memory.wf (State.pushTop s g c x).mem = true := by
  unfold State.pushTop
  try dsimp only
  repeat' split
  all_goals first | exact hw | (simp (maxDischargeDepth := 12) [hw]; done) | (simp_all (maxDischargeDepth := 12); done)

@[simp] theorem State.popTop_mem (s : State) (g c : Nat) : (State.popTop s g c).mem = s.mem := by
  unfold State.popTop
  try dsimp only
  repeat' split
  all_goals first | rfl | simp | simp_all

@[simp] theorem State.bottom_mem (s : State) (g c : Nat) : (s.bottom g c).1.mem = s.mem := by
  unfold State.bottom
  dsimp only
  split <;> simp

@[simp] theorem State.dropBottom_mem (s : State) (g : Nat) : (State.dropBottom s g).mem = s.mem := by
  unfold State.dropBottom
  try dsimp only
  repeat' split
  all_goals first | rfl | simp | simp_all

@[simp] theorem State.setBottom_wf (s : State) (g c : Nat) (x : Held) (hw : Memory.wf s.mem = true) :
    Memory.wf (State.setBottom s g c x).mem = true := by
  unfold State.setBottom
  try dsimp only
  repeat' split
  all_goals first | exact hw | (simp (maxDischargeDepth := 12) [hw]; done) | (simp_all (maxDischargeDepth := 12); done)

/-! ## Ops -/

@[simp] theorem State.zeroRange_wf (s : State) (pa n : Nat) (hw : Memory.wf s.mem = true) :
    Memory.wf (s.zeroRange pa n).mem = true := Memory.wf_filter _ hw

@[simp] theorem State.zeroSpan_wf (s : State) (p : Place) (n : Nat) (hw : Memory.wf s.mem = true) :
    Memory.wf (s.zeroSpan p n).mem = true := by
  unfold State.zeroSpan
  split
  · exact State.zeroRange_wf _ _ _ hw
  · exact State.foldl_wf (fun s _ h => State.wr_wf s _ _ h) _ _ hw

@[simp] theorem State.zeroArea_wf : ∀ (l : List Place) (s : State) (n : Nat),
    Memory.wf s.mem = true → Memory.wf (s.zeroArea l n).mem = true
  | [], _, _, hw => hw
  | p :: t, s, n, hw => by
    unfold State.zeroArea
    split
    · exact hw
    · exact State.zeroArea_wf t _ _ (State.zeroSpan_wf _ _ _ hw)

@[simp] theorem State.areaWr_wf (c : Nat) (pages : List Place) : ∀ (fuel : Nat) (s : State) (o : Nat) (d : List Byte),
    Memory.wf s.mem = true → Memory.wf (s.areaWr c pages fuel o d).mem = true
  | 0, _, _, _, hw => hw
  | fuel + 1, s, o, d, hw => by
    unfold State.areaWr
    dsimp only
    split
    · exact hw
    · exact State.areaWr_wf c pages fuel _ _ _ (State.write_wf _ _ _ _ hw)

@[simp] theorem State.insertWrites_wf (s : State) (i : Nat) (l : List (Nat × List Byte)) (hw : Memory.wf s.mem = true) :
    Memory.wf (s.insertWrites i l).mem = true :=
  State.foldl_wf (fun s (w : Nat × List Byte) h => State.areaWr_wf _ _ _ s _ _ h) _ _ hw

@[simp] theorem State.commitInserts_wf (s : State) (c : Nat) (hw : Memory.wf s.mem = true) :
    Memory.wf (s.commitInserts c).mem = true :=
  State.foldl_wf (fun s (r : IxReq) h => State.insertWrites_wf s _ r.writes h) _ _ hw

@[simp] theorem State.deleteIndex_wf (s : State) (n : Nat) (hw : Memory.wf s.mem = true) :
    Memory.wf (s.deleteIndex n).mem = true := State.zeroArea_wf _ _ _ hw

@[simp] theorem State.killFacet_wf (s : State) (c f : Nat) (hw : Memory.wf s.mem = true) :
    Memory.wf (s.killFacet c f).mem = true :=
  State.foldl_wf (fun s m h => State.zeroRange_wf s (spadAddr f (65536 * m)) 65536 h) _ _ hw

@[simp] theorem State.dropTraffic_mem (s : State) (c : Nat) : (State.dropTraffic s c).mem = s.mem := by
  unfold State.dropTraffic
  try dsimp only
  repeat' split
  all_goals first | rfl | simp | simp_all

@[simp] theorem State.freeSet_mem (s : State) (set : List Nat) : (State.freeSet s set).mem = s.mem := by
  unfold State.freeSet
  try dsimp only
  repeat' split
  all_goals first | rfl | simp | simp_all

@[simp] theorem State.kill_wf (s : State) (c code : Nat) (hw : Memory.wf s.mem = true) :
    Memory.wf (s.kill c code).mem = true := by
  unfold State.kill
  dsimp only
  split
  · exact hw
  · simp only [State.logEvent_mem, State.setCtx_mem]
    refine State.foldl_wf (fun s i h => State.deleteIndex_wf s i.1 h) _ _ ?_
    refine State.foldl_wf (fun s f h => State.killFacet_wf s c f h) _ _ ?_
    split <;> simp [hw]

@[simp] theorem State.trapAt_wf (s : State) (u code : Nat) (tval epc : Dword) (mark : Bool) (hw : Memory.wf s.mem = true) :
    Memory.wf (State.trapAt s u code tval epc mark).mem = true := by
  unfold State.trapAt
  try dsimp only
  repeat' split
  all_goals first | exact hw | (simp (maxDischargeDepth := 12) [hw]; done) | (simp_all (maxDischargeDepth := 12); done)

@[simp] theorem State.trap_wf (s : State) (code : Nat) (tval : Dword) (hw : Memory.wf s.mem = true) :
    Memory.wf (State.trap s code tval).mem = true := by
  unfold State.trap
  try dsimp only
  repeat' split
  all_goals first | exact hw | (simp (maxDischargeDepth := 12) [hw]; done) | (simp_all (maxDischargeDepth := 12); done)

theorem State.takeDue_wf (s t : State) (u : Nat) (hw : Memory.wf s.mem = true) (h : s.takeDue u = some t) :
    Memory.wf t.mem = true := by
  unfold State.takeDue at h
  dsimp only at h
  split at h
  · cases h
  · split at h
    · cases h
    · cases h
      exact State.trapAt_wf _ _ _ _ _ _ hw

@[simp] theorem State.rouse_mem (s : State) (c pa : Nat) : (State.rouse s c pa).mem = s.mem := by
  unfold State.rouse
  try dsimp only
  repeat' split
  all_goals first | rfl | simp | simp_all

@[simp] theorem State.waitOn_mem (s : State) (va : Nat) : (State.waitOn s va).mem = s.mem := by
  unfold State.waitOn
  try dsimp only
  repeat' split
  all_goals first | rfl | simp | simp_all

/-- The state that a load leaves behind, whether it waits, traps or answers. -/
def Loaded.state : Loaded → State
  | .out s => s
  | .got s _ => s

@[simp] theorem State.loadNow_wf (s : State) (va : Nat) (p : Place) (n : Nat) (hw : Memory.wf s.mem = true) :
    Memory.wf (s.loadNow va p n).state.mem = true := by
  unfold State.loadNow
  dsimp only
  repeat' split
  all_goals simp [Loaded.state, hw]

@[simp] theorem State.passEarly_mem (s : State) (p : Place) (n : Nat) (acq : Bool) : (State.passEarly s p n acq).mem = s.mem := by
  unfold State.passEarly
  try dsimp only
  repeat' split
  all_goals first | rfl | simp | simp_all

@[simp] theorem State.loadPlace_wf (s : State) (va : Nat) (p : Place) (n : Nat) (acq : Bool) (hw : Memory.wf s.mem = true) :
    Memory.wf (s.loadPlace va p n acq).state.mem = true := by
  unfold State.loadPlace
  have h1 := State.loadNow_wf s va p n hw
  split
  · exact hw
  · split
    · next h => rw [h] at h1; exact h1
    · next h =>
      rw [h] at h1
      simpa [Loaded.state] using h1

@[simp] theorem State.load_wf (s : State) (ea n : Nat) (acq : Bool) (hw : Memory.wf s.mem = true) :
    Memory.wf (s.load ea n acq).state.mem = true := by
  unfold State.load
  repeat' split
  all_goals first | exact State.loadPlace_wf _ _ _ _ _ hw | simp [Loaded.state, hw]

theorem State.load_out_wf {s t : State} {ea n : Nat} {acq : Bool} (hw : Memory.wf s.mem = true)
    (h : s.load ea n acq = .out t) : Memory.wf t.mem = true := by
  have := State.load_wf s ea n acq hw
  rwa [h] at this

theorem State.load_got_wf {s t : State} {ea n : Nat} {acq : Bool} {b : List Byte} (hw : Memory.wf s.mem = true)
    (h : s.load ea n acq = .got t b) : Memory.wf t.mem = true := by
  have := State.load_wf s ea n acq hw
  rwa [h] at this

@[simp] theorem State.pushStore_mem (s : State) (e : SEntry) : (State.pushStore s e).mem = s.mem := by
  unfold State.pushStore
  try dsimp only
  repeat' split
  all_goals first | rfl | simp | simp_all

@[simp] theorem State.done_mem (s : State) : (State.done s).mem = s.mem := by
  unfold State.done
  try dsimp only
  repeat' split
  all_goals first | rfl | simp | simp_all

@[simp] theorem State.store_wf (s : State) (ea : Nat) (d : List Byte) (kind : StoreKind) (hw : Memory.wf s.mem = true) :
    Memory.wf (State.store s ea d kind).mem = true := by
  unfold State.store
  try dsimp only
  repeat' split
  all_goals first | exact hw | (simp (maxDischargeDepth := 12) [hw]; done) | (simp_all (maxDischargeDepth := 12); done)

@[simp] theorem State.walksTouch_mem (s : State) (c : Nat) (l : List Nat) : (s.walksTouch c l).mem = s.mem :=
  State.foldl_mem (fun s va => State.walkTouch_mem s c (va / 65536)) _ _

@[simp] theorem State.replay_mem (s : State) (u : Nat) : (s.replay u).mem = s.mem := by
  unfold State.replay
  simp

@[simp] theorem State.wipeMacro_wf (s : State) (f m : Nat) (hw : Memory.wf s.mem = true) :
    Memory.wf (State.wipeMacro s f m).mem = true := by
  unfold State.wipeMacro
  try dsimp only
  repeat' split
  all_goals first | exact hw | (simp (maxDischargeDepth := 12) [hw]; done) | (simp_all (maxDischargeDepth := 12); done)

@[simp] theorem State.rewalkCode_mem (s : State) (u : Nat) : (State.rewalkCode s u).mem = s.mem := by
  unfold State.rewalkCode
  try dsimp only
  repeat' split
  all_goals first | rfl | simp | simp_all

@[simp] theorem State.startAt_wf (s : State) (u : Nat) (hw : Memory.wf s.mem = true) :
    Memory.wf (s.startAt u).mem = true := by
  unfold State.startAt
  dsimp only
  repeat' split
  all_goals simp [hw]

@[simp] theorem State.afterReplay_wf (s : State) (u : Nat) (hw : Memory.wf s.mem = true) :
    Memory.wf (s.afterReplay u).mem = true := by
  unfold State.afterReplay
  try dsimp only
  repeat' split
  all_goals first | exact hw | (simp (maxDischargeDepth := 12) [hw]; done) | (simp_all (maxDischargeDepth := 12); done)

@[simp] theorem State.returnFrom_wf (s : State) (u : Nat) (hw : Memory.wf s.mem = true) :
    Memory.wf (State.returnFrom s u).mem = true := by
  unfold State.returnFrom
  try dsimp only
  repeat' split
  all_goals first | exact hw | (simp (maxDischargeDepth := 12) [hw]; done) | (simp_all (maxDischargeDepth := 12); done)

@[simp] theorem State.startTask_wf (s : State) (u : Nat) (m : Msg) (hw : Memory.wf s.mem = true) :
    Memory.wf (State.startTask s u m).mem = true := by
  unfold State.startTask
  try dsimp only
  repeat' split
  all_goals first | exact hw | (simp (maxDischargeDepth := 12) [hw]; done) | (simp_all (maxDischargeDepth := 12); done)

@[simp] theorem State.releaseKeys_mem (s : State) (c : Nat) (keys : List Nat) : (State.releaseKeys s c keys).mem = s.mem := by
  unfold State.releaseKeys
  try dsimp only
  repeat' split
  all_goals first | rfl | simp | simp_all

@[simp] theorem State.sendArrival_mem (s : State) (c u pa : Nat) : (State.sendArrival s c u pa).mem = s.mem := by
  unfold State.sendArrival
  try dsimp only
  repeat' split
  all_goals first | rfl | simp | simp_all

/-! ## Operands -/

@[simp] theorem State.clobber_wf (s : State) (d : Nat) (hw : Memory.wf s.mem = true) :
    Memory.wf (State.clobber s d).mem = true := by
  unfold State.clobber
  try dsimp only
  repeat' split
  all_goals first | exact hw | (simp (maxDischargeDepth := 12) [hw]; done) | (simp_all (maxDischargeDepth := 12); done)

theorem State.scalar_next_wf (s : State) (src : List Reg) (d : Reg) (r : Slot → Dword) (t : State) (hw : Memory.wf s.mem = true)
    (h : State.scalar s src d r = .next t) : Memory.wf t.mem = true := by
  unfold State.scalar at h
  try dsimp only at h
  try unfold State.stall at h
  repeat' split at h
  all_goals first
    | exact State.load_out_wf hw (by cases h; assumption)
    | (have h2 := State.load_got_wf hw (by assumption); cases h; simp [h2]; done)
    | (cases h; first | exact hw | (simp (maxDischargeDepth := 12) [hw]; done) | (simp_all (maxDischargeDepth := 12); done))

theorem State.branch_next_wf (s : State) (a b : Reg) (o : BitVec 16) (taken : Dword → Dword → Bool) (t : State) (hw : Memory.wf s.mem = true)
    (h : State.branch s a b o taken = .next t) : Memory.wf t.mem = true := by
  unfold State.branch at h
  try dsimp only at h
  try unfold State.stall at h
  repeat' split at h
  all_goals first
    | exact State.load_out_wf hw (by cases h; assumption)
    | (have h2 := State.load_got_wf hw (by assumption); cases h; simp [h2]; done)
    | (cases h; first | exact hw | (simp (maxDischargeDepth := 12) [hw]; done) | (simp_all (maxDischargeDepth := 12); done))

/-! ## Scalar -/

theorem State.alu_next_wf (s : State) (d a b : Reg) (f : Dword → Dword → Dword) (t : State) (hw : Memory.wf s.mem = true)
    (h : s.alu d a b f = .next t) : Memory.wf t.mem = true := State.scalar_next_wf s _ _ _ t hw h

theorem State.alu1_next_wf (s : State) (d a : Reg) (f : Dword → Dword) (t : State) (hw : Memory.wf s.mem = true)
    (h : s.alu1 d a f = .next t) : Memory.wf t.mem = true := State.scalar_next_wf s _ _ _ t hw h

/-! ## Vector -/

theorem State.checkLanes_wf (s t : State) (k : Kind) (near : Bool) (w : Nat) (hw : Memory.wf s.mem = true) :
    ∀ l, s.checkLanes k near w l = .out t → Memory.wf t.mem = true
  | [], h => by cases h
  | (i, ea) :: l, h => by
    unfold State.checkLanes at h
    split at h
    · cases h; simp [hw]
    · split at h
      · cases h; simp [hw]
      · cases h; simp [hw]
      · split at h
        · cases h
        · next h1 => cases h; exact State.checkLanes_wf s t k near w hw l h1

@[simp] theorem State.readLane_mem (s : State) (w : Nat) (p : Place) : (s.readLane w p).1.mem = s.mem := by
  unfold State.readLane
  try dsimp only
  repeat' split
  all_goals simp

@[simp] theorem State.readLanes_mem (w : Nat) : ∀ (l : List (Nat × Nat × Place)) (s : State), (s.readLanes w l).1.mem = s.mem
  | [], _ => rfl
  | (i, ea, p) :: l, s => by
    unfold State.readLanes
    try dsimp only
    exact (State.readLanes_mem w l _).trans (State.readLane_mem _ _ _)

@[simp] theorem State.writeLanes_wf (s : State) (x : Vec) (w : Nat) (l : List (Nat × Nat × Place))
    (hw : Memory.wf s.mem = true) : Memory.wf (s.writeLanes x w l).mem = true := by
  unfold State.writeLanes
  refine State.foldl_wf (fun s _ h => ?_) _ _ hw
  first | exact State.write_wf _ _ _ _ h | exact State.wr_wf _ _ _ h

@[simp] theorem State.pushLanes_mem (s : State) (x : Vec) (w : Nat) (l : List (Nat × Nat × Place)) :
    (s.pushLanes x w l).mem = s.mem := by
  unfold State.pushLanes
  exact State.foldl_mem (fun s _ => State.pushStore_mem s _) _ _

theorem State.vecDone_next_wf (s : State) (d : Reg) (r : Vec × Fl) (t : State) (hw : Memory.wf s.mem = true)
    (h : State.vecDone s d r = .next t) : Memory.wf t.mem = true := by
  unfold State.vecDone at h
  try dsimp only at h
  try unfold State.stall at h
  repeat' split at h
  all_goals first
    | exact State.load_out_wf hw (by cases h; assumption)
    | (have h2 := State.load_got_wf hw (by assumption); cases h; simp [h2]; done)
    | (cases h; first | exact hw | (simp (maxDischargeDepth := 12) [hw]; done) | (simp_all (maxDischargeDepth := 12); done))

theorem State.laneOp_next_wf (s : State) (d a b : Reg) (p : PReg) (f : Fmt) (gi : Nat → Nat → Nat → Nat) (gf : BinFmt → Rm → Bool → Nat → Nat → Nat → Nat × Fl) (t : State) (hw : Memory.wf s.mem = true)
    (h : State.laneOp s d a b p f gi gf = .next t) : Memory.wf t.mem = true := by
  unfold State.laneOp at h
  try dsimp only at h
  try unfold State.stall at h
  repeat' split at h
  all_goals first
    | exact State.load_out_wf hw (by cases h; assumption)
    | (have h2 := State.load_got_wf hw (by assumption); cases h; simp [h2]; done)
    | (cases h; first | exact hw | (simp (maxDischargeDepth := 12) [hw]; done) | (simp_all (maxDischargeDepth := 12); done))

theorem State.vecScalar_next_wf (s : State) (d : Reg) (r : Slot → Dword × Fl) (t : State) (hw : Memory.wf s.mem = true)
    (h : State.vecScalar s d r = .next t) : Memory.wf t.mem = true := by
  unfold State.vecScalar at h
  try dsimp only at h
  try unfold State.stall at h
  repeat' split at h
  all_goals first
    | exact State.load_out_wf hw (by cases h; assumption)
    | (have h2 := State.load_got_wf hw (by assumption); cases h; simp [h2]; done)
    | (cases h; first | exact hw | (simp (maxDischargeDepth := 12) [hw]; done) | (simp_all (maxDischargeDepth := 12); done))

theorem State.vredExtreme_next_wf (s : State) (d a : Reg) (p : PReg) (f : Fmt) (greater : Bool) (t : State) (hw : Memory.wf s.mem = true)
    (h : s.vredExtreme d a p f greater = .next t) : Memory.wf t.mem = true := State.vecScalar_next_wf s _ _ t hw h

theorem State.loadLanes_next_wf (s : State) (near : Bool) (w : Nat) (l : List (Nat × Nat)) (d : Reg)
    (r : List (Nat × Nat) → Vec) (t : State) (hw : Memory.wf s.mem = true)
    (h : s.loadLanes near w l d r = .next t) : Memory.wf t.mem = true := by
  unfold State.loadLanes State.stall at h
  split at h
  · cases h; exact hw
  · split at h
    · next h1 => cases h; exact State.checkLanes_wf s _ _ _ _ hw _ h1
    · next ps h1 =>
      have hr := State.readLanes_mem w ps s
      dsimp only at h
      repeat' split at h
      all_goals first
        | (cases h; exact hw)
        | (cases h; exact State.trap_wf _ _ _ hw)
        | (cases h; exact State.trap_wf _ _ _ (by rw [hr]; exact hw))
        | (cases h; simp [hw])
        | (cases h; simpa using (by rw [hr]; exact hw))

theorem State.vlds_next_wf (s : State) (d a b : Reg) (w n : Nat) (t : State) (hw : Memory.wf s.mem = true)
    (h : s.vlds d a b w n = .next t) : Memory.wf t.mem = true := by
  unfold State.vlds at h
  dsimp only at h
  split at h
  · cases h; exact hw
  · exact State.loadLanes_next_wf s _ _ _ _ _ t hw h

/-! ## Control -/

@[simp] theorem State.retire_mem (s : State) (arrival : Option Place) : (State.retire s arrival).mem = s.mem := by
  unfold State.retire
  try dsimp only
  repeat' split
  all_goals first | rfl | simp | simp_all

@[simp] theorem State.discardCode_mem (s : State) (u : Nat) : (State.discardCode s u).mem = s.mem := by
  unfold State.discardCode
  try dsimp only
  repeat' split
  all_goals first | rfl | simp | simp_all

theorem State.endTask_next_wf (s : State) (t : State) (hw : Memory.wf s.mem = true)
    (h : State.endTask s = .next t) : Memory.wf t.mem = true := by
  unfold State.endTask at h
  try dsimp only at h
  try unfold State.stall at h
  repeat' split at h
  all_goals first
    | exact State.load_out_wf hw (by cases h; assumption)
    | (have h2 := State.load_got_wf hw (by assumption); cases h; simp [h2]; done)
    | (cases h; first | exact hw | (simp (maxDischargeDepth := 12) [hw]; done) | (simp_all (maxDischargeDepth := 12); done))

theorem State.endHandler_next_wf (s : State) (t : State) (hw : Memory.wf s.mem = true)
    (h : s.endHandler = .next t) : Memory.wf t.mem = true := by
  unfold State.endHandler at h
  dsimp only at h
  have h1 (u : State) (hu : Memory.wf u.mem = true) (l : List Nat) :
      Memory.wf (l.foldl (fun s m => s.wipeMacro s.myFacet m) (u.setHere u.here.discard)).mem = true :=
    State.foldl_wf (fun s m h => State.wipeMacro_wf s _ m h) _ _ hu
  have h2 := h1 (s.walkTouch s.myCtx (s.here.joinRef.toNat / 65536)) (by rw [State.walkTouch_mem]; exact hw)
  repeat' split at h
  all_goals (cases h; simp [h2])

/-! ## LoadStore -/

@[simp] theorem State.readEarly_mem (s : State) (u va n : Nat) : (State.readEarly s u va n).mem = s.mem := by
  unfold State.readEarly
  try dsimp only
  repeat' split
  all_goals first | rfl | simp | simp_all

theorem State.scalarLoad_next_wf (s : State) (d a : Reg) (ea : Slot → Nat) (n : Nat) (r : List Byte → Dword) (acq : Bool) (t : State) (hw : Memory.wf s.mem = true)
    (h : State.scalarLoad s d a ea n r acq = .next t) : Memory.wf t.mem = true := by
  unfold State.scalarLoad at h
  try dsimp only at h
  try unfold State.stall at h
  repeat' split at h
  all_goals first
    | exact State.load_out_wf hw (by cases h; assumption)
    | (have h2 := State.load_got_wf hw (by assumption); cases h; simp [h2]; done)
    | (cases h; first | exact hw | (simp (maxDischargeDepth := 12) [hw]; done) | (simp_all (maxDischargeDepth := 12); done))

theorem State.scalarStore_next_wf (s : State) (d a : Reg) (ea : Slot → Nat) (n : Nat) (kind : StoreKind) (t : State) (hw : Memory.wf s.mem = true)
    (h : State.scalarStore s d a ea n kind = .next t) : Memory.wf t.mem = true := by
  unfold State.scalarStore at h
  try dsimp only at h
  try unfold State.stall at h
  repeat' split at h
  all_goals first
    | exact State.load_out_wf hw (by cases h; assumption)
    | (have h2 := State.load_got_wf hw (by assumption); cases h; simp [h2]; done)
    | (cases h; first | exact hw | (simp (maxDischargeDepth := 12) [hw]; done) | (simp_all (maxDischargeDepth := 12); done))

/-! ## Atomics -/

@[simp] theorem State.amoPerform_wf (s : State) (d : Reg) (ad n : Nat) (p : Place) (op : Nat → Nat) (res : Nat → Dword) (hw : Memory.wf s.mem = true) :
    Memory.wf (State.amoPerform s d ad n p op res).mem = true := by
  unfold State.amoPerform
  try dsimp only
  repeat' split
  all_goals first | exact hw | (simp (maxDischargeDepth := 12) [hw]; done) | (simp_all (maxDischargeDepth := 12); done)

@[simp] theorem State.amoCut_wf (s : State) (ad n : Nat) (p : Place) (op : Nat → Nat) (hw : Memory.wf s.mem = true) :
    Memory.wf (State.amoCut s ad n p op).mem = true := by
  unfold State.amoCut
  try dsimp only
  repeat' split
  all_goals first | exact hw | (simp (maxDischargeDepth := 12) [hw]; done) | (simp_all (maxDischargeDepth := 12); done)

@[simp] theorem State.pushFence_mem (s : State) (e : SEntry) : (State.pushFence s e).mem = s.mem := by
  unfold State.pushFence
  try dsimp only
  repeat' split
  all_goals first | rfl | simp | simp_all

@[simp] theorem State.fenceEarly_mem (s : State) (k : BitVec 4) (x : Scope) : (State.fenceEarly s k x).mem = s.mem := by
  unfold State.fenceEarly
  try dsimp only
  repeat' split
  all_goals first | rfl | simp | simp_all

theorem State.amo_next_wf (s : State) (d a b : Reg) (isCas : Bool) (c : Scope) (o : Order) (n : Nat) (op : Nat → Nat) (res : Nat → Dword) (t : State) (hw : Memory.wf s.mem = true)
    (h : State.amo s d a b isCas c o n op res = .next t) : Memory.wf t.mem = true := by
  unfold State.amo at h
  try dsimp only at h
  try unfold State.stall at h
  repeat' split at h
  all_goals first
    | exact State.load_out_wf hw (by cases h; assumption)
    | (have h2 := State.load_got_wf hw (by assumption); cases h; simp [h2]; done)
    | (cases h; first | exact hw | (simp (maxDischargeDepth := 12) [hw]; done) | (simp_all (maxDischargeDepth := 12); done))

theorem State.amoInt_next_wf (s : State) (d a b : Reg) (isCas : Bool) (c : Scope) (o : Order) (z : ASize)
    (op : Nat → Nat → Nat → Nat → Nat) (t : State) (hw : Memory.wf s.mem = true)
    (h : s.amoInt d a b isCas c o z op = .next t) : Memory.wf t.mem = true := State.amo_next_wf s _ _ _ _ _ _ _ _ _ t hw h

/-! ## Queue -/

@[simp] theorem State.clearOverrun_mem (s : State) (n : Nat) : (State.clearOverrun s n).mem = s.mem := by
  unfold State.clearOverrun
  try dsimp only
  repeat' split
  all_goals first | rfl | simp | simp_all

theorem State.loadBlock_wf : ∀ (n : Nat) (s : State) (ea : Nat), Memory.wf s.mem = true →
    Memory.wf (s.loadBlock ea n).state.mem = true
  | 0, _, _, hw => hw
  | n + 1, s, ea, hw => by
    unfold State.loadBlock
    split
    · next h => exact State.load_out_wf hw h
    · next s1 b h =>
      have h1 := State.loadBlock_wf n s1 (ea + 8) (State.load_got_wf hw h)
      split
      · next h2 => rw [h2] at h1; exact h1
      · next h2 => rw [h2] at h1; exact h1

theorem State.indexSend_next_wf (s : State) (d : Reg) (r : Nat → IxReq) (t : State) (hw : Memory.wf s.mem = true)
    (h : State.indexSend s d r = .next t) : Memory.wf t.mem = true := by
  unfold State.indexSend at h
  try dsimp only at h
  try unfold State.stall at h
  repeat' split at h
  all_goals first
    | exact State.load_out_wf hw (by cases h; assumption)
    | (have h2 := State.load_got_wf hw (by assumption); cases h; simp [h2]; done)
    | (cases h; first | exact hw | (simp (maxDischargeDepth := 12) [hw]; done) | (simp_all (maxDischargeDepth := 12); done))

theorem State.indexPlain_next_wf (s : State) (i : Instr) (d a : Reg) (t : State) (hw : Memory.wf s.mem = true)
    (h : s.indexPlain i d a = .next t) : Memory.wf t.mem = true := by
  unfold State.indexPlain at h
  split at h
  · cases h; exact hw
  · exact State.indexSend_next_wf s _ _ t hw h

theorem State.indexPair_next_wf (s : State) (i : Instr) (d a b : Reg) (t : State) (hw : Memory.wf s.mem = true)
    (h : s.indexPair i d a b = .next t) : Memory.wf t.mem = true := by
  unfold State.indexPair at h
  dsimp only at h
  split at h
  · cases h; exact hw
  · split at h
    · cases h; simp [hw]
    · split at h
      · cases h; simp [hw]
      · cases h; simp [hw]
      · exact State.indexSend_next_wf s _ _ t hw h

/-! ## Tasks -/

@[simp] theorem State.transmit_mem (s : State) (m : Msg) (d : Dest) : (State.transmit s m d).mem = s.mem := by
  unfold State.transmit
  try dsimp only
  repeat' split
  all_goals first | rfl | simp | simp_all

@[simp] theorem State.enterBox_wf (s : State) (g c : Nat) (m : Msg) (hw : Memory.wf s.mem = true) :
    Memory.wf (State.enterBox s g c m).mem = true := by
  unfold State.enterBox
  try dsimp only
  repeat' split
  all_goals first | exact hw | (simp (maxDischargeDepth := 12) [hw]; done) | (simp_all (maxDischargeDepth := 12); done)

@[simp] theorem State.park_wf (s : State) (c pa : Nat) (m : Msg) (hw : Memory.wf s.mem = true) :
    Memory.wf (State.park s c pa m).mem = true := by
  unfold State.park
  try dsimp only
  repeat' split
  all_goals first | exact hw | (simp (maxDischargeDepth := 12) [hw]; done) | (simp_all (maxDischargeDepth := 12); done)

@[simp] theorem State.restTouch_mem (s : State) : (State.restTouch s).mem = s.mem := by
  unfold State.restTouch
  try dsimp only
  repeat' split
  all_goals first | rfl | simp | simp_all

@[simp] theorem State.suspend_wf (s : State) (m : Msg) (r : Resting) (hw : Memory.wf s.mem = true) :
    Memory.wf (State.suspend s m r).mem = true := by
  unfold State.suspend
  try dsimp only
  repeat' split
  all_goals first | exact hw | (simp (maxDischargeDepth := 12) [hw]; done) | (simp_all (maxDischargeDepth := 12); done)

theorem State.send_next_wf (s : State) (d a : Reg) (pri : Bool) (t : State) (hw : Memory.wf s.mem = true)
    (h : State.send s d a pri = .next t) : Memory.wf t.mem = true := by
  unfold State.send at h
  try dsimp only at h
  try unfold State.stall at h
  repeat' split at h
  all_goals first
    | exact State.load_out_wf hw (by cases h; assumption)
    | (have h2 := State.load_got_wf hw (by assumption); cases h; simp [h2]; done)
    | (cases h; first | exact hw | (simp (maxDischargeDepth := 12) [hw]; done) | (simp_all (maxDischargeDepth := 12); done))

theorem State.arriveAt_next_wf (s : State) (a : Reg) (rlx : Bool) (t : State) (hw : Memory.wf s.mem = true)
    (h : State.arriveAt s a rlx = .next t) : Memory.wf t.mem = true := by
  unfold State.arriveAt at h
  try dsimp only at h
  try unfold State.stall at h
  repeat' split at h
  all_goals first
    | exact State.load_out_wf hw (by cases h; assumption)
    | (have h2 := State.load_got_wf hw (by assumption); cases h; simp [h2]; done)
    | (cases h; first | exact hw | (simp (maxDischargeDepth := 12) [hw]; done) | (simp_all (maxDischargeDepth := 12); done))

theorem State.suspTask_next_wf (s : State) (target : Dword) (t : State) (hw : Memory.wf s.mem = true)
    (h : State.suspTask s target = .next t) : Memory.wf t.mem = true := by
  unfold State.suspTask at h
  try dsimp only at h
  try unfold State.stall at h
  repeat' split at h
  all_goals first
    | exact State.load_out_wf hw (by cases h; assumption)
    | (have h2 := State.load_got_wf hw (by assumption); cases h; simp [h2]; done)
    | (cases h; first | exact hw | (simp (maxDischargeDepth := 12) [hw]; done) | (simp_all (maxDischargeDepth := 12); done))

theorem State.convert_next_wf (s : State) (t : State) (hw : Memory.wf s.mem = true)
    (h : State.convert s = .next t) : Memory.wf t.mem = true := by
  unfold State.convert at h
  try dsimp only at h
  try unfold State.stall at h
  repeat' split at h
  all_goals first
    | exact State.load_out_wf hw (by cases h; assumption)
    | (have h2 := State.load_got_wf hw (by assumption); cases h; simp [h2]; done)
    | (cases h; first | exact hw | (simp (maxDischargeDepth := 12) [hw]; done) | (simp_all (maxDischargeDepth := 12); done))

theorem State.suspHandler_next_wf (s : State) (o : BitVec 21) (t : State) (hw : Memory.wf s.mem = true)
    (h : State.suspHandler s o = .next t) : Memory.wf t.mem = true := by
  unfold State.suspHandler at h
  try dsimp only at h
  try unfold State.stall at h
  repeat' split at h
  all_goals first
    | exact State.load_out_wf hw (by cases h; assumption)
    | (have h2 := State.load_got_wf hw (by assumption); cases h; simp [h2]; done)
    | (cases h; first | exact hw | (simp (maxDischargeDepth := 12) [hw]; done) | (simp_all (maxDischargeDepth := 12); done))

/-! ## SaveArea -/

@[simp] theorem State.touchSpan_mem (s : State) (c pa n : Nat) : (s.touchSpan c pa n).mem = s.mem :=
  State.foldl_mem (fun s (u : Nat × Nat) => State.touchUnit_mem s (some c) u.1) _ _

@[simp] theorem State.wakePlaces_mem (s : State) (c : Nat) (l : List Place) : (s.wakePlaces c l).mem = s.mem :=
  State.foldl_mem (fun s (p : Place) => State.wakeNow_mem s c p.pa) _ _

@[simp] theorem State.touchRec_mem (s : State) (f c va n : Nat) : (s.touchRec f c va n).mem = s.mem := by
  unfold State.touchRec
  dsimp only
  split
  · split
    · simp
    · exact (State.foldl_mem (fun s (p : Nat × Nat) => State.touchSpan_mem s c p.1 p.2) _ _).trans (by simp)
  · simp

theorem State.saveRec_wf {s t : State} {f c va n : Nat} {g : Nat → Nat} (hw : Memory.wf s.mem = true)
    (h : s.saveRec f c va n g = some t) : Memory.wf t.mem = true := by
  unfold State.saveRec at h
  dsimp only at h
  rw [Option.map_eq_some_iff] at h
  obtain ⟨l, -, rfl⟩ := h
  refine State.foldl_wf (fun s i h => ?_) _ _ ?_
  · split
    · exact h
    · exact State.wr_wf _ _ _ h
  · exact State.foldl_wf (fun s (p : Nat × Nat) h => State.zeroSpan_wf s _ p.2 h) _ _ (by rw [State.wakePlaces_mem, State.walksTouch_mem]; exact hw)

@[simp] theorem State.saveDiff_wf (s : State) (f c va n : Nat) (old new : Nat → Nat) (hw : Memory.wf s.mem = true) :
    Memory.wf (s.saveDiff f c va n old new).mem = true := by
  unfold State.saveDiff
  split
  · exact hw
  · refine State.foldl_wf (fun s i h => ?_) _ _ hw
    split
    · exact h
    · exact State.write_wf _ _ _ _ h

theorem State.loadRec_mem {s : State} {f c va n : Nat} {r : State × (Nat → Nat)} (h : s.loadRec f c va n = some r) :
    r.1.mem = s.mem := by
  unfold State.loadRec at h
  dsimp only at h
  split at h
  · cases h
  · split at h
    · cases h
    · cases h; simp

@[simp] theorem State.joinImage_wf (s : State) (g c : Nat) (pri : Bool) (x : Held) (hw : Memory.wf s.mem = true) :
    Memory.wf (s.joinImage g c pri x).mem = true := by
  have hg {t : State} {f va : Nat} {r : Nat → Nat} (h : Memory.wf t.mem = true) :
      Memory.wf ((t.saveRec f c va 8192 r).getD t).mem = true := by
    cases h1 : t.saveRec f c va 8192 r with
    | none => exact h
    | some t1 => exact State.saveRec_wf h h1
  unfold State.joinImage
  dsimp only
  rw [State.setCtx_mem]
  repeat' split
  all_goals simp [hw, hg]

@[simp] theorem State.acceptAt_wf (s : State) (g c : Nat) (pri : Bool) (x : Held) (hw : Memory.wf s.mem = true) :
    Memory.wf (State.acceptAt s g c pri x).mem = true := by
  unfold State.acceptAt
  try dsimp only
  repeat' split
  all_goals first | exact hw | (simp (maxDischargeDepth := 12) [hw]; done) | (simp_all (maxDischargeDepth := 12); done)

@[simp] theorem State.countUnit_wf (s : State) (c : Nat) (p : Place) (hw : Memory.wf s.mem = true) :
    Memory.wf (s.countUnit c p).mem = true :=
  State.write_wf _ _ _ _ (by rw [State.touch_mem, State.wakeNow_mem]; exact hw)

/-- What a unit that returns into a saved record does: a walk, then nothing, a count in memory, or one in what is kept. -/
theorem State.returnSaved_cases (s : State) (c u va : Nat) (P : State → Prop) (h : ∀ a, P (s.walkTouch c a))
    (h1 : ∀ t p, P t → P (t.countUnit c p)) (h2 : ∀ t x, P t → P (State.setCtx t c x)) : P (s.returnSaved c u va) := by
  unfold State.returnSaved
  have h := h (va / 65536)
  generalize s.walkTouch c (va / 65536) = t at h ⊢
  dsimp only
  split
  · split
    · exact h1 _ _ h
    · exact h
  · exact h2 _ _ h

@[simp] theorem State.returnSaved_wf (s : State) (c u va : Nat) (hw : Memory.wf s.mem = true) :
    Memory.wf (s.returnSaved c u va).mem = true :=
  State.returnSaved_cases s c u va (fun t => Memory.wf t.mem = true) (fun a => by rw [State.walkTouch_mem]; exact hw)
    (fun _ _ h => State.countUnit_wf _ _ _ h) (fun _ _ h => by rw [State.setCtx_mem]; exact h)

@[simp] theorem State.returnUnit_wf (s : State) (src : Option Nat) (c : Option Nat) (hw : Memory.wf s.mem = true) :
    Memory.wf (State.returnUnit s src c).mem = true := by
  unfold State.returnUnit
  repeat' split
  all_goals first | exact hw | exact State.returnSaved_wf _ _ _ _ hw

/-! ## Deliver -/

@[simp] theorem State.update_mem (s : State) (u : Nat) (w : Which) (e : Nat) (c : Cmd) : (State.update s u w e c).mem = s.mem := by
  unfold State.update
  try dsimp only
  repeat' split
  all_goals first | rfl | simp | simp_all

@[simp] theorem State.acknowledge_mem (s : State) (f c b n : Nat) : (State.acknowledge s f c b n).mem = s.mem := by
  unfold State.acknowledge
  try dsimp only
  repeat' split
  all_goals first | rfl | simp | simp_all

@[simp] theorem State.writeDeliv_wf (s : State) (d : Deliv) (hw : Memory.wf s.mem = true) :
    Memory.wf (State.writeDeliv s d).mem = true := by
  unfold State.writeDeliv
  try dsimp only
  repeat' split
  all_goals first | exact hw | (simp (maxDischargeDepth := 12) [hw]; done) | (simp_all (maxDischargeDepth := 12); done)

@[simp] theorem State.answerBulk_mem (s : State) (b : BulkReq) (code : Nat) : (s.answerBulk b code).mem = s.mem := rfl

@[simp] theorem State.moreBulk_mem (s : State) (k : Nat) (b : BulkReq) : (s.moreBulk k b).mem = s.mem := by
  unfold State.moreBulk
  split <;> rfl

@[simp] theorem State.markAt_mem (s : State) (u k pa n : Nat) : (s.markAt u k pa n).mem = s.mem := by
  unfold State.markAt
  try dsimp only
  repeat' split
  all_goals first | rfl | simp | simp_all

@[simp] theorem State.delivered_mem (s : State) (u : Nat) (c : Cmd) (pa n : Nat) : (s.delivered u c pa n).mem = s.mem := by
  unfold State.delivered
  try dsimp only
  repeat' split
  all_goals first | rfl | simp | simp_all

@[simp] theorem State.performDeliv_wf (s : State) (u e k : Nat) (w : Which) (c : Cmd) (d : Deliv) (hw : Memory.wf s.mem = true) :
    Memory.wf (s.performDeliv u e k w c d).mem = true := by
  unfold State.performDeliv
  try dsimp only
  repeat' split
  all_goals first | exact hw | (simp (maxDischargeDepth := 12) [hw]; done) | (simp_all (maxDischargeDepth := 12); done)

@[simp] theorem State.performPiece_wf (s : State) (k j : Nat) (b : BulkReq) (x : Piece) (hw : Memory.wf s.mem = true) :
    Memory.wf (s.performPiece k j b x).mem = true := by
  unfold State.performPiece
  try dsimp only
  repeat' split
  all_goals first | exact hw | (simp (maxDischargeDepth := 12) [hw]; done) | (simp_all (maxDischargeDepth := 12); done)

@[simp] theorem State.drainKey_wf (n : Nat) : ∀ (fuel : Nat) (s : State), Memory.wf s.mem = true →
    Memory.wf (s.drainKey n fuel).mem = true
  | 0, _, hw => hw
  | fuel + 1, s, hw => by
    unfold State.drainKey
    split
    · exact State.drainKey_wf n fuel _ (State.performDeliv_wf _ _ _ _ _ _ _ hw)
    · split
      · exact State.drainKey_wf n fuel _ (State.performPiece_wf _ _ _ _ _ hw)
      · exact hw

/-! ## ControlSpace -/

@[simp] theorem State.writeXinv_mem (s : State) (v : Dword) : (State.writeXinv s v).mem = s.mem := by
  unfold State.writeXinv
  try dsimp only
  repeat' split
  all_goals first | rfl | simp | simp_all

@[simp] theorem State.useContext_mem (s : State) (c : Nat) : (State.useContext s c).mem = s.mem := by
  unfold State.useContext
  try dsimp only
  repeat' split
  all_goals first | rfl | simp | simp_all

@[simp] theorem State.sendUnsent_mem (s : State) (q : Nat) : (s.sendUnsent q).mem = s.mem := by
  unfold State.sendUnsent
  try dsimp only
  repeat' split
  all_goals first | rfl | simp | simp_all

@[simp] theorem State.writeLqctl_mem (s : State) (q : Nat) (v : Dword) : (State.writeLqctl s q v).mem = s.mem := by
  unfold State.writeLqctl
  try dsimp only
  repeat' split
  all_goals first | rfl | simp | simp_all

@[simp] theorem State.writeLqmask_mem (s : State) (q j : Nat) (v : Dword) : (State.writeLqmask s q j v).mem = s.mem := by
  unfold State.writeLqmask
  try dsimp only
  repeat' split
  all_goals first | rfl | simp | simp_all

@[simp] theorem State.requestPreempt_mem (s : State) (c : Nat) : (State.requestPreempt s c).mem = s.mem := by
  unfold State.requestPreempt
  try dsimp only
  repeat' split
  all_goals first | rfl | simp | simp_all

@[simp] theorem State.freeContext_wf (s : State) (c : Nat) (hw : Memory.wf s.mem = true) :
    Memory.wf (s.freeContext c).mem = true := by
  unfold State.freeContext
  try dsimp only
  repeat' split
  all_goals first | exact hw | (simp (maxDischargeDepth := 12) [hw]; done) | (simp_all (maxDischargeDepth := 12); done)

@[simp] theorem State.writeCtl_wf (s : State) (apex : Bool) (c : Nat) (v : Dword) (hw : Memory.wf s.mem = true) :
    Memory.wf (State.writeCtl s apex c v).mem = true := by
  unfold State.writeCtl
  try dsimp only
  repeat' split
  all_goals first | exact hw | (simp (maxDischargeDepth := 12) [hw]; done) | (simp_all (maxDischargeDepth := 12); done)

@[simp] theorem State.writeRecord_wf (s : State) (apex : Bool) (c i : Nat) (v : Dword) (hw : Memory.wf s.mem = true) :
    Memory.wf (State.writeRecord s apex c i v).mem = true := by
  unfold State.writeRecord
  try dsimp only
  repeat' split
  all_goals first | exact hw | (simp (maxDischargeDepth := 12) [hw]; done) | (simp_all (maxDischargeDepth := 12); done)

@[simp] theorem State.writeBase_mem (s : State) (c : Option Nat) (n : Nat) (v : Dword) : (State.writeBase s c n v).mem = s.mem := by
  unfold State.writeBase
  try dsimp only
  repeat' split
  all_goals first | rfl | simp | simp_all

@[simp] theorem State.writeLen_mem (s : State) (c : Option Nat) (n : Nat) (v : Dword) : (State.writeLen s c n v).mem = s.mem := by
  unfold State.writeLen
  try dsimp only
  repeat' split
  all_goals first | rfl | simp | simp_all

@[simp] theorem State.writeClaim_mem (s : State) (c : Option Nat) (n : Nat) (v : Dword) : (State.writeClaim s c n v).mem = s.mem := by
  unfold State.writeClaim
  try dsimp only
  repeat' split
  all_goals first | rfl | simp | simp_all

@[simp] theorem State.writeRegion_mem (s : State) (c : Option Nat) (n i : Nat) (v : Dword) : (State.writeRegion s c n i v).mem = s.mem := by
  unfold State.writeRegion
  try dsimp only
  repeat' split
  all_goals first | rfl | simp | simp_all

@[simp] theorem State.writeRetcfg_mem (s : State) (f : Nat) (v : Dword) : (State.writeRetcfg s f v).mem = s.mem := by
  unfold State.writeRetcfg
  try dsimp only
  repeat' split
  all_goals first | rfl | simp | simp_all

@[simp] theorem State.writeSsown_mem (s : State) (f : Nat) (v : Dword) : (State.writeSsown s f v).mem = s.mem := by
  unfold State.writeSsown
  try dsimp only
  repeat' split
  all_goals first | rfl | simp | simp_all

@[simp] theorem State.writeStgcan_mem (s : State) (f b : Nat) (v : Dword) : (State.writeStgcan s f b v).mem = s.mem := by
  unfold State.writeStgcan
  try dsimp only
  repeat' split
  all_goals first | rfl | simp | simp_all

@[simp] theorem State.writeLog_mem (s : State) (a : LogAt) (i : Nat) (v : Dword) : (State.writeLog s a i v).mem = s.mem := by
  unfold State.writeLog
  try dsimp only
  repeat' split
  all_goals first | rfl | simp | simp_all

@[simp] theorem State.cwrite_wf (s : State) (w : Who) (r : CReg) (x : Dword) (hw : Memory.wf s.mem = true) :
    Memory.wf (State.cwrite s w r x).mem = true := by
  unfold State.cwrite
  try dsimp only
  repeat' split
  all_goals first | exact hw | (simp (maxDischargeDepth := 12) [hw]; done) | (simp_all (maxDischargeDepth := 12); done)

/-! ## System -/

@[simp] theorem State.setCtl_mem (s : State) (n : Nat) (x : Dword) : (State.setCtl s n x).mem = s.mem := by
  unfold State.setCtl
  try dsimp only
  repeat' split
  all_goals first | rfl | simp | simp_all

end Sys2Proof.Machine
end

