-- ==== Sys2Proof/Laws/CanonicalSteps.lean ====
section
/-!
SUPPORT. What the operations of the device's own steps do to memory: they leave it alone, or they keep its canonical form.
-/

set_option Elab.async false
set_option linter.all false

namespace Sys2Proof.Machine

/-! ## Engine -/

@[simp] theorem State.fetchFrom_mem (f c : Nat) : ∀ (fuel : Nat) (s : State) (va n : Nat),
    (s.fetchFrom f c fuel va n).s.mem = s.mem
  | 0, _, _, _ => rfl
  | fuel + 1, s, va, n => by
    unfold State.fetchFrom
    split
    · rfl
    · dsimp only
      split
      · exact (State.fetchFrom_mem f c fuel _ _ _).trans (State.touch_mem _ _ _ _)
      · rfl

@[simp] theorem State.fetchBytes_mem (s : State) (f c va n : Nat) : (s.fetchBytes f c va n).s.mem = s.mem :=
  State.fetchFrom_mem _ _ _ _ _ _

@[simp] theorem State.fetchList_mem (f c : Nat) : ∀ (l : List (Nat × Nat)) (s : State), (s.fetchList f c l).s.mem = s.mem
  | [], _ => rfl
  | (va, n) :: t, s => by
    unfold State.fetchList
    dsimp only
    split
    · exact (State.fetchList_mem f c t _).trans (State.fetchBytes_mem _ _ _ _ _)
    · exact State.fetchBytes_mem _ _ _ _ _

@[simp] theorem State.engWait_mem (s : State) (u : Nat) (w : Which) (e : Nat) (c : Cmd) (ctx va : Nat) : (State.engWait s u w e c ctx va).mem = s.mem := by
  unfold State.engWait
  try dsimp only
  repeat' split
  all_goals first | rfl | simp | simp_all

@[simp] theorem State.engStop_mem (s : State) (u : Nat) (w : Which) (e : Nat) (c : Cmd) (ctx count : Nat) (stop : Stop) : (State.engStop s u w e c ctx count stop).mem = s.mem := by
  unfold State.engStop
  try dsimp only
  repeat' split
  all_goals first | rfl | simp | simp_all

@[simp] theorem State.deliverOne_wf (s : State) (u e k : Nat) (w : Which) (hw : Memory.wf s.mem = true) :
    Memory.wf (State.deliverOne s u e k w).mem = true := by
  unfold State.deliverOne
  try dsimp only
  repeat' split
  all_goals first | exact hw | (simp (maxDischargeDepth := 12) [hw]; done) | (simp_all (maxDischargeDepth := 12); done)

@[simp] theorem State.sendDeliv_mem (s : State) (u e : Nat) (w : Which) (c : Cmd) (ctx va : Nat) (data : List Byte) (bad : List Nat) (upd : Cmd → Cmd) : (State.sendDeliv s u e w c ctx va data bad upd).mem = s.mem := by
  unfold State.sendDeliv
  try dsimp only
  repeat' split
  all_goals first | rfl | simp | simp_all

/-! ## Copy -/

@[simp] theorem State.copyRead_mem (s : State) (u : Nat) (c : Cmd) (n : Nat) : (s.copyRead u c n).s.mem = s.mem := by
  unfold State.copyRead
  split
  · rfl
  · split
    · rfl
    · exact State.fetchBytes_mem _ _ _ _ _

@[simp] theorem State.beginCopy_mem (s : State) (u e : Nat) (c : Cmd) : (State.beginCopy s u e c).mem = s.mem := by
  unfold State.beginCopy
  try dsimp only
  repeat' split
  all_goals first | rfl | simp | simp_all

@[simp] theorem State.sendRemote_mem (s : State) (u e : Nat) (c : Cmd) (d : Nat) (r : Fetched) :
    (s.sendRemote u e c d r).mem = r.s.mem := by
  unfold State.sendRemote
  split <;> simp

@[simp] theorem State.stepCopy_mem (s : State) (u e : Nat) (c : Cmd) : (State.stepCopy s u e c).mem = s.mem := by
  unfold State.stepCopy
  try dsimp only
  repeat' split
  all_goals first | rfl | simp | simp_all

@[simp] theorem State.readElement_mem (s : State) (u e : Nat) (c : Cmd) : (State.readElement s u e c).mem = s.mem := by
  unfold State.readElement
  try dsimp only
  repeat' split
  all_goals first | rfl | simp | simp_all

@[simp] theorem State.stepGather_mem (s : State) (u e : Nat) (c : Cmd) : (State.stepGather s u e c).mem = s.mem := by
  unfold State.stepGather
  try dsimp only
  repeat' split
  all_goals first | rfl | simp | simp_all

@[simp] theorem State.armStage_mem (s : State) (u e : Nat) (c : Cmd) : (State.armStage s u e c).mem = s.mem := by
  unfold State.armStage
  try dsimp only
  repeat' split
  all_goals first | rfl | simp | simp_all

@[simp] theorem State.copyTurn_wf (s : State) (u : Nat) (mine : Nat → Bool) (go : State → Nat → Nat → Cmd → State)
    (hg : ∀ e c, Memory.wf (go s u e c).mem = true) (hw : Memory.wf s.mem = true) :
    Memory.wf (s.copyTurn u mine go).mem = true := by
  unfold State.copyTurn
  dsimp only
  repeat' split
  all_goals first | exact hw | exact hg _ _

@[simp] theorem State.runCopy_mem (s : State) (u e : Nat) (c : Cmd) : (State.runCopy s u e c).mem = s.mem := by
  unfold State.runCopy
  try dsimp only
  repeat' split
  all_goals first | rfl | simp | simp_all

@[simp] theorem State.runGather_mem (s : State) (u e : Nat) (c : Cmd) : (State.runGather s u e c).mem = s.mem := by
  unfold State.runGather
  try dsimp only
  repeat' split
  all_goals first | rfl | simp | simp_all

/-! ## Matrix -/

@[simp] theorem State.readOps_mem (f c : Nat) : ∀ (l : List (Nat × Nat × Bool)) (s : State), (s.readOps f c l).s.mem = s.mem
  | [], _ => rfl
  | (va, n, own) :: t, s => by
    unfold State.readOps
    split
    · rfl
    · dsimp only
      split <;> try exact State.fetchBytes_mem _ _ _ _ _
      split
      · exact State.fetchBytes_mem _ _ _ _ _
      · exact (State.readOps_mem f c t _).trans (State.fetchBytes_mem _ _ _ _ _)

@[simp] theorem State.touchMacro_mem (s : State) (c f m : Nat) : (s.touchMacro c f m).mem = s.mem := by
  unfold State.touchMacro
  exact State.foldl_mem (fun s (u : Nat × Nat) => State.touchUnit_mem s c u.1) _ _

@[simp] theorem State.await_mem (s : State) (u e : Nat) (c : Cmd) : (s.await u e c).mem = s.mem := by
  unfold State.await
  try dsimp only
  repeat' split
  all_goals first | rfl | simp | simp_all

@[simp] theorem State.claim_mem (s : State) (u e : Nat) (c : Cmd) (l : List Nat) (go : State) (h : go.mem = s.mem) :
    (s.claim u e c l go).mem = s.mem := by
  unfold State.claim
  repeat' split
  all_goals simp [h]

@[simp] theorem State.claim_wf (s : State) (u e : Nat) (c : Cmd) (l : List Nat) (go : State)
    (hw : Memory.wf s.mem = true) (h : Memory.wf go.mem = true) : Memory.wf (s.claim u e c l go).mem = true := by
  unfold State.claim
  repeat' split
  all_goals simp [h, hw]

@[simp] theorem State.loadLost_wf (s : State) (u : Nat) (c : Cmd) (hw : Memory.wf s.mem = true) :
    Memory.wf (s.loadLost u c).mem = true := by
  unfold State.loadLost
  dsimp only
  repeat' split
  all_goals first | exact hw | exact State.wipeMacro_wf _ _ _ hw

@[simp] theorem State.beginLoad_wf (s : State) (u e : Nat) (c : Cmd) (hw : Memory.wf s.mem = true) :
    Memory.wf (State.beginLoad s u e c).mem = true := by
  have h := State.loadLost_wf s u c hw
  unfold State.beginLoad
  dsimp only
  repeat' split
  all_goals simp [h, hw]

@[simp] theorem State.finishLoad_wf (s : State) (u e m : Nat) (c : Cmd) (rows : List (List Byte)) (scales : List Byte) (hw : Memory.wf s.mem = true) :
    Memory.wf (State.finishLoad s u e m c rows scales).mem = true := by
  unfold State.finishLoad
  try dsimp only
  repeat' split
  all_goals first | exact hw | (simp (maxDischargeDepth := 12) [hw]; done) | (simp_all (maxDischargeDepth := 12); done)

@[simp] theorem State.stepLoad_wf (s : State) (u e : Nat) (c : Cmd) (hw : Memory.wf s.mem = true) :
    Memory.wf (State.stepLoad s u e c).mem = true := by
  unfold State.stepLoad
  try dsimp only
  repeat' split
  all_goals first | exact hw | (simp (maxDischargeDepth := 12) [hw]; done) | (simp_all (maxDischargeDepth := 12); done)

@[simp] theorem State.runTlw_wf (s : State) (u e : Nat) (c : Cmd) (hw : Memory.wf s.mem = true) :
    Memory.wf (State.runTlw s u e c).mem = true := by
  unfold State.runTlw
  try dsimp only
  repeat' split
  all_goals first | exact hw | (simp (maxDischargeDepth := 12) [hw]; done) | (simp_all (maxDischargeDepth := 12); done)

@[simp] theorem State.runTrel_mem (s : State) (u e : Nat) (c : Cmd) : (State.runTrel s u e c).mem = s.mem := by
  unfold State.runTrel
  try dsimp only
  repeat' split
  all_goals first | rfl | simp | simp_all

@[simp] theorem State.runTacz_mem (s : State) (u e : Nat) (c : Cmd) : (State.runTacz s u e c).mem = s.mem := by
  unfold State.runTacz
  try dsimp only
  repeat' split
  all_goals first | rfl | simp | simp_all

@[simp] theorem State.sendNext_mem (s : State) (u e : Nat) (c : Cmd) : (State.sendNext s u e c).mem = s.mem := by
  unfold State.sendNext
  try dsimp only
  repeat' split
  all_goals first | rfl | simp | simp_all

@[simp] theorem State.beginTacs_mem (s : State) (u e : Nat) (c : Cmd) : (State.beginTacs s u e c).mem = s.mem := by
  unfold State.beginTacs
  try dsimp only
  repeat' split
  all_goals first | rfl | simp | simp_all

@[simp] theorem State.runTacs_mem (s : State) (u e : Nat) (c : Cmd) : (State.runTacs s u e c).mem = s.mem := by
  unfold State.runTacs
  try dsimp only
  repeat' split
  all_goals first | rfl | simp | simp_all

@[simp] theorem State.mmProduct_mem (s : State) (u e : Nat) (c : Cmd) (tab : Option (List (Nat × Nat))) :
    (s.mmProduct u e c tab).mem = s.mem := by
  have hg (c f : Nat) (l : List Nat) (t : State) : (l.foldl (fun s m => s.touchMacro c f m) t).mem = t.mem :=
    State.foldl_mem (fun s m => State.touchMacro_mem s _ _ m) _ _
  unfold State.mmProduct
  dsimp only
  repeat' split
  all_goals simp [hg]

@[simp] theorem State.goMm_mem (s : State) (u e : Nat) (c : Cmd) : (State.goMm s u e c).mem = s.mem := by
  unfold State.goMm
  try dsimp only
  repeat' split
  all_goals first | rfl | simp | simp_all

@[simp] theorem State.runMm_mem (s : State) (u e : Nat) (c : Cmd) : (State.runMm s u e c).mem = s.mem := by
  unfold State.runMm
  try dsimp only
  repeat' split
  all_goals first | rfl | simp | simp_all

@[simp] theorem State.beginTdot_mem (s : State) (u e : Nat) (c : Cmd) : (State.beginTdot s u e c).mem = s.mem := by
  unfold State.beginTdot
  try dsimp only
  repeat' split
  all_goals first | rfl | simp | simp_all

@[simp] theorem State.runTdot_mem (s : State) (u e : Nat) (c : Cmd) : (State.runTdot s u e c).mem = s.mem := by
  unfold State.runTdot
  try dsimp only
  repeat' split
  all_goals first | rfl | simp | simp_all

@[simp] theorem State.matrixTurn_wf (s : State) (u : Nat) (mine : Nat → Bool) (go : State → Nat → Nat → Cmd → State)
    (hg : ∀ e c, Memory.wf (go s u e c).mem = true) (hw : Memory.wf s.mem = true) :
    Memory.wf (s.matrixTurn u mine go).mem = true := by
  unfold State.matrixTurn
  dsimp only
  repeat' split
  all_goals first | exact hw | exact hg _ _

/-! ## Streams -/

@[simp] theorem State.streamRun_mem (s : State) (u : Nat) (c : Cmd) (bypass : Bool) : (State.streamRun s u c bypass).mem = s.mem := by
  unfold State.streamRun
  try dsimp only
  repeat' split
  all_goals first | rfl | simp | simp_all

@[simp] theorem State.streamTurn_mem (s : State) (u : Nat) (mine : Nat → Bool) : (State.streamTurn s u mine).mem = s.mem := by
  unfold State.streamTurn
  try dsimp only
  repeat' split
  all_goals first | rfl | simp | simp_all

/-! ## Index -/

@[simp] theorem State.areaTouch_mem (c : Nat) (pages : List Place) : ∀ (fuel : Nat) (s : State) (o n : Nat),
    (s.areaTouch c pages fuel o n).1.mem = s.mem
  | 0, _, _, _ => rfl
  | fuel + 1, s, o, n => by
    unfold State.areaTouch
    dsimp only
    split
    · rfl
    · exact (State.areaTouch_mem c pages fuel _ _ _).trans (State.touch_mem _ _ _ _)

@[simp] theorem State.areaZero_wf (s : State) (c : Nat) (pages : List Place) (o n : Nat) (hw : Memory.wf s.mem = true) :
    Memory.wf (s.areaZero c pages o n).mem = true := State.areaWr_wf _ _ _ _ _ _ hw

@[simp] theorem State.touchNode_mem (s : State) (x : IndexSlot) (i : Nat) : (s.touchNode x i).1.mem = s.mem :=
  State.areaTouch_mem _ _ _ _ _ _

@[simp] theorem State.visit_wf (s : State) (x : IndexSlot) (w j : Nat) (hw : Memory.wf s.mem = true) :
    Memory.wf (s.visit x w j).mem = true := State.wr_wf _ _ _ hw

@[simp] theorem State.clearVisited_wf (s : State) (x : IndexSlot) (w : Nat) (hw : Memory.wf s.mem = true) :
    Memory.wf (s.clearVisited x w).mem = true := State.areaZero_wf _ _ _ _ _ hw

@[simp] theorem Walking.look_mem (a : Walking) (x : IndexSlot) (tab j : Nat) : (a.look x tab j).s.mem = a.s.mem := by
  unfold Walking.look
  simp

theorem Walking.take_wf (a : Walking) (x : IndexSlot) (q : List Byte) (tab w j : Nat) (hw : Memory.wf a.s.mem = true) :
    Memory.wf (a.take x q tab w j).s.mem = true := by
  unfold Walking.take
  exact State.visit_wf _ _ _ _ (by simpa using hw)

theorem State.searchStart_wf (s : State) (x : IndexSlot) (q : List Byte) (tab w snap : Nat) (hw : Memory.wf s.mem = true) :
    Memory.wf (s.searchStart x q tab w snap).s.mem = true := by
  unfold State.searchStart
  dsimp only
  split
  · exact hw
  · exact Walking.take_wf _ _ _ _ _ _ (by simpa using hw)

theorem Walking.neighbours_wf (x : IndexSlot) (q : List Byte) (tab w snap : Nat) : ∀ (l : List Nat) (a : Walking),
    Memory.wf a.s.mem = true → Memory.wf (a.neighbours x q tab w snap l).s.mem = true
  | [], _, hw => hw
  | j :: t, a, hw => by
    have hl : Memory.wf (a.look x tab j).s.mem = true := by simpa using hw
    unfold Walking.neighbours
    dsimp only
    repeat' split
    · exact Walking.neighbours_wf x q tab w snap t _ hl
    · exact Walking.neighbours_wf x q tab w snap t _ (Walking.take_wf _ _ _ _ _ _ hl)
    · exact Walking.neighbours_wf x q tab w snap t _ hw

theorem Walking.expand_wf {a b : Walking} {x : IndexSlot} {q : List Byte} {tab w snap : Nat}
    (hw : Memory.wf a.s.mem = true)
    (h : a.expand x q tab w snap = .more b ∨ a.expand x q tab w snap = .restart b) : Memory.wf b.s.mem = true := by
  unfold Walking.expand at h
  split at h
  · simp at h
  · dsimp only at h
    split at h
    · simp only [reduceCtorEq, false_or, Expand.restart.injEq] at h
      rw [← h]
      simpa using hw
    · simp only [reduceCtorEq, or_false, Expand.more.injEq] at h
      rw [← h]
      exact Walking.neighbours_wf _ _ _ _ _ _ _ (by simpa using hw)

theorem Walking.search_wf (x : IndexSlot) (q : List Byte) (tab w snap : Nat) : ∀ (fuel : Nat) (a : Walking),
    Memory.wf a.s.mem = true → Memory.wf (Walking.search x q tab w snap fuel a).s.mem = true
  | 0, _, hw => hw
  | fuel + 1, a, hw => by
    unfold Walking.search
    split
    · exact hw
    · next h => exact Walking.expand_wf hw (.inr h)
    · next h => exact Walking.search_wf x q tab w snap fuel _ (Walking.expand_wf hw (.inl h))

@[simp] theorem State.ixDone_mem (s : State) (u k : Nat) (st : Dword) : (State.ixDone s u k st).mem = s.mem := by
  unfold State.ixDone
  try dsimp only
  repeat' split
  all_goals first | rfl | simp | simp_all

@[simp] theorem State.ixSet_mem (s : State) (u k : Nat) (r : IxReq) : (State.ixSet s u k r).mem = s.mem := by
  unfold State.ixSet
  try dsimp only
  repeat' split
  all_goals first | rfl | simp | simp_all

theorem State.indexTurn_wf (s : State) (u k fn : Nat) (ph : IxPhase → Bool) (go : IxReq → State)
    (hg : ∀ r, Memory.wf (go r).mem = true) (hw : Memory.wf s.mem = true) :
    Memory.wf (s.indexTurn u k fn ph go).mem = true := by
  unfold State.indexTurn
  dsimp only
  repeat' split
  all_goals first | exact hw | exact hg _

@[simp] theorem State.ixPark_mem (s : State) (u k va : Nat) (r : IxReq) : (State.ixPark s u k va r).mem = s.mem := by
  unfold State.ixPark
  try dsimp only
  repeat' split
  all_goals first | rfl | simp | simp_all

@[simp] theorem State.createIndex_wf (s0 : State) (u k : Nat) (r : IxReq) (hw : Memory.wf s0.mem = true) :
    Memory.wf (State.createIndex s0 u k r).mem = true := by
  unfold State.createIndex
  try dsimp only
  repeat' split
  all_goals first | exact hw | (simp (maxDischargeDepth := 12) [hw]; done) | (simp_all (maxDischargeDepth := 12); done)

@[simp] theorem State.dropIndex_wf (s : State) (u k : Nat) (r : IxReq) (hw : Memory.wf s.mem = true) :
    Memory.wf (State.dropIndex s u k r).mem = true := by
  unfold State.dropIndex
  try dsimp only
  repeat' split
  all_goals first | exact hw | (simp (maxDischargeDepth := 12) [hw]; done) | (simp_all (maxDischargeDepth := 12); done)

@[simp] theorem State.statusOf_mem (s : State) (u k : Nat) (r : IxReq) : (State.statusOf s u k r).mem = s.mem := by
  unfold State.statusOf
  try dsimp only
  repeat' split
  all_goals first | rfl | simp | simp_all

@[simp] theorem State.readVector_mem (s : State) (c : Nat) (p : Place) (d : Nat) : (s.readVector c p d).1.mem = s.mem := by
  unfold State.readVector
  refine State.foldl_mem (fun s i => ?_) _ _
  split
  · exact State.touch_mem _ _ _ _
  · rfl

theorem State.foldl_fst_mem {β γ : Type} {f : State × γ → β → State × γ} (h : ∀ r x, (f r x).1.mem = r.1.mem) :
    ∀ (l : List β) (r : State × γ), (l.foldl f r).1.mem = r.1.mem
  | [], _ => rfl
  | x :: t, r => (State.foldl_fst_mem h t (f r x)).trans (h r x)

@[simp] theorem State.badLinks_mem (s : State) (x : IndexSlot) (c : Cand) : (s.badLinks x c).1.mem = s.mem := by
  unfold State.badLinks
  exact (State.foldl_fst_mem (f := fun r i => ((r.1.touchNode x i).1, r.2 || (r.1.touchNode x i).2))
    (fun r i => State.touchNode_mem r.1 x i) _ _).trans (State.touchNode_mem _ _ _)

@[simp] theorem State.insertNode_wf (s : State) (u k i : Nat) (r : IxReq) (v : List Byte) (hw : Memory.wf s.mem = true) :
    Memory.wf (s.insertNode u k i r v).mem = true := by
  have h1 := Walking.search_wf (s.index i) v (s.index i).nw (s.index i).wb (s.index i).count ((s.index i).count + 1) _
    (State.searchStart_wf s (s.index i) v (s.index i).nw (s.index i).wb (s.index i).count hw)
  have h2 (l : List Cand) (q : State × Bool) (hq : Memory.wf q.1.mem = true) :
      Memory.wf (l.foldl (fun q c => ((q.1.badLinks (s.index i) c).1, q.2 || (q.1.badLinks (s.index i) c).2)) q).1.mem = true := by
    rw [State.foldl_fst_mem (f := fun q c => ((q.1.badLinks (s.index i) c).1, q.2 || (q.1.badLinks (s.index i) c).2))
      (fun q c => State.badLinks_mem q.1 (s.index i) c)]
    exact hq
  unfold State.insertNode
  dsimp only
  split
  · rw [State.ixDone_mem]
    exact hw
  · rw [State.ixSet_mem, State.setIndex_mem]
    exact State.clearVisited_wf _ _ _ (h2 _ _ h1)

@[simp] theorem State.commitInsert_wf (s : State) (r : IxReq) (hw : Memory.wf s.mem = true) :
    Memory.wf (State.commitInsert s r).mem = true := by
  unfold State.commitInsert
  try dsimp only
  repeat' split
  all_goals first | exact hw | (simp (maxDischargeDepth := 12) [hw]; done) | (simp_all (maxDischargeDepth := 12); done)

@[simp] theorem State.goInsert_wf (s : State) (u k : Nat) (r : IxReq) (hw : Memory.wf s.mem = true) :
    Memory.wf (State.goInsert s u k r).mem = true := by
  unfold State.goInsert
  try dsimp only
  repeat' split
  all_goals first | exact hw | (simp (maxDischargeDepth := 12) [hw]; done) | (simp_all (maxDischargeDepth := 12); done)

@[simp] theorem State.runInsert_wf (s : State) (u k : Nat) (r : IxReq) (hw : Memory.wf s.mem = true) :
    Memory.wf (State.runInsert s u k r).mem = true := by
  unfold State.runInsert
  try dsimp only
  repeat' split
  all_goals first | exact hw | (simp (maxDischargeDepth := 12) [hw]; done) | (simp_all (maxDischargeDepth := 12); done)

@[simp] theorem State.leaveWalk_wf (s : State) (i w : Nat) (hw : Memory.wf s.mem = true) :
    Memory.wf (State.leaveWalk s i w).mem = true := by
  unfold State.leaveWalk
  try dsimp only
  repeat' split
  all_goals first | exact hw | (simp (maxDischargeDepth := 12) [hw]; done) | (simp_all (maxDischargeDepth := 12); done)

@[simp] theorem State.answers_mem (s : State) (x : IndexSlot) (cands : List Cand) (k : Nat) :
    (s.answers x cands k).1.mem = s.mem := by
  unfold State.answers
  dsimp only
  generalize List.take k cands = l
  exact State.foldl_fst_mem
    (f := fun (r : State × Bool) (c : Cand) => ((r.1.touchNode x c.id).1, r.2 || (r.1.touchNode x c.id).2))
    (fun r c => State.touchNode_mem r.1 x c.id) l (s, false)

@[simp] theorem State.ixWalk_wf (u k i : Nat) (r : IxReq) (a : Walking) (hw : Memory.wf a.s.mem = true) :
    Memory.wf (State.ixWalk u k i r a).mem = true := by
  unfold State.ixWalk
  split <;> simp [hw]

@[simp] theorem State.accept_wf (s : State) (u k : Nat) (r : IxReq) (hw : Memory.wf s.mem = true) :
    Memory.wf (s.accept u k r).mem = true := by
  unfold State.accept
  dsimp only
  repeat' split
  all_goals first
    | exact State.ixWalk_wf _ _ _ _ _ (State.searchStart_wf _ _ _ _ _ _ (by simpa using hw))
    | simp [hw]

@[simp] theorem State.restartWalk_wf (s : State) (u k i : Nat) (r : IxReq) (hw : Memory.wf s.mem = true) :
    Memory.wf (s.restartWalk u k i r).mem = true := by
  unfold State.restartWalk
  exact State.ixWalk_wf _ _ _ _ _ (State.searchStart_wf _ _ _ _ _ _ (by simpa using State.clearVisited_wf _ _ _ hw))

@[simp] theorem State.answerWalk_wf (s : State) (u k i : Nat) (r : IxReq) (hw : Memory.wf s.mem = true) :
    Memory.wf (State.answerWalk s u k i r).mem = true := by
  unfold State.answerWalk
  try dsimp only
  repeat' split
  all_goals first | exact hw | (simp (maxDischargeDepth := 12) [hw]; done) | (simp_all (maxDischargeDepth := 12); done)

@[simp] theorem State.stepWalk_wf (s : State) (u k : Nat) (r : IxReq) (hw : Memory.wf s.mem = true) :
    Memory.wf (s.stepWalk u k r).mem = true := by
  let a : Walking := { s := s, cands := r.cands, vis := r.vis, bad := false }
  unfold State.stepWalk
  dsimp only
  split
  · simp [hw]
  · next h =>
    have := Walking.expand_wf (a := a) hw (.inr h)
    split <;> simp [this]
  · next h => exact State.ixWalk_wf _ _ _ _ _ (Walking.expand_wf (a := a) hw (.inl h))

@[simp] theorem State.pushRec_mem (s : State) (u k : Nat) (r : IxReq) : (State.pushRec s u k r).mem = s.mem := by
  unfold State.pushRec
  try dsimp only
  repeat' split
  all_goals first | rfl | simp | simp_all

/-! ## Walks -/

@[simp] theorem State.translateStore_mem (s : State) (u k seq va : Nat) (d : List Byte) (kind : StoreKind) (sup : Bool) : (State.translateStore s u k seq va d kind sup).mem = s.mem := by
  unfold State.translateStore
  try dsimp only
  repeat' split
  all_goals first | rfl | simp | simp_all

@[simp] theorem State.performAt_wf (s : State) (u k seq va : Nat) (p : Place) (d : List Byte) (kind : StoreKind) (hw : Memory.wf s.mem = true) :
    Memory.wf (State.performAt s u k seq va p d kind).mem = true := by
  unfold State.performAt
  try dsimp only
  repeat' split
  all_goals first | exact hw | (simp (maxDischargeDepth := 12) [hw]; done) | (simp_all (maxDischargeDepth := 12); done)

@[simp] theorem State.wakeStores_mem (u page : Nat) : ∀ (fuel : Nat) (s : State), (s.wakeStores u page fuel).mem = s.mem
  | 0, _ => rfl
  | fuel + 1, s => by
    unfold State.wakeStores
    split
    · rfl
    · split
      · exact (State.wakeStores_mem u page fuel _).trans (State.translateStore_mem _ _ _ _ _ _ _ _)
      · rfl

@[simp] theorem State.facetSlots_mem (s : State) (f : Nat) (h : Slot → Slot) : (State.facetSlots s f h).mem = s.mem := by
  unfold State.facetSlots
  try dsimp only
  repeat' split
  all_goals first | rfl | simp | simp_all

@[simp] theorem State.wakeFacet_mem (s : State) (page f : Nat) : (s.wakeFacet page f).mem = s.mem := by
  unfold State.wakeFacet
  exact State.foldl_mem (fun s (t : Nat × Slot) => State.wakeStores_mem t.1 _ t.2.sbuf.length s) _ _

@[simp] theorem State.walkReaches_mem (s : State) (k : Walk) (f : Nat) : (State.walkReaches s k f).mem = s.mem := by
  unfold State.walkReaches
  try dsimp only
  repeat' split
  all_goals first | rfl | simp | simp_all

@[simp] theorem State.dropLines_mem (s : State) (l : List (Nat × Nat)) : (State.dropLines s l).mem = s.mem := by
  unfold State.dropLines
  try dsimp only
  repeat' split
  all_goals first | rfl | simp | simp_all

@[simp] theorem State.codeDone_mem (s : State) (k : Nat) (r : CodeReq) (st : Dword) : (State.codeDone s k r st).mem = s.mem := by
  unfold State.codeDone
  try dsimp only
  repeat' split
  all_goals first | rfl | simp | simp_all

@[simp] theorem State.codeRun_mem (s0 : State) (k : Nat) (r : CodeReq) : (State.codeRun s0 k r).mem = s0.mem := by
  unfold State.codeRun
  try dsimp only
  repeat' split
  all_goals first | rfl | simp | simp_all

/-! ## Upkeep -/

@[simp] theorem State.scrubEvent_mem (s : State) (kind pa : Nat) : (State.scrubEvent s kind pa).mem = s.mem := by
  unfold State.scrubEvent
  try dsimp only
  repeat' split
  all_goals first | rfl | simp | simp_all

/-! ## Mail -/

@[simp] theorem State.settlePacket_wf (s : State) (k : Nat) (p : Packet) (hw : Memory.wf s.mem = true) :
    Memory.wf (State.settlePacket s k p).mem = true := State.returnUnit_wf _ _ _ hw

@[simp] theorem State.launchAt_wf (s : State) (q k : Nat) (p : Packet) (hw : Memory.wf s.mem = true) :
    Memory.wf (State.launchAt s q k p).mem = true := by
  unfold State.launchAt
  try dsimp only
  repeat' split
  all_goals first | exact hw | (simp (maxDischargeDepth := 12) [hw]; done) | (simp_all (maxDischargeDepth := 12); done)

@[simp] theorem State.lose_mem (s : State) (c : Option Nat) : (State.lose s c).mem = s.mem := by
  unfold State.lose
  try dsimp only
  repeat' split
  all_goals first | rfl | simp | simp_all

@[simp] theorem State.forwardUnit_mem (s : State) (k : Nat) (p : Packet) (v : Nat) : (State.forwardUnit s k p v).mem = s.mem := by
  unfold State.forwardUnit
  try dsimp only
  repeat' split
  all_goals first | rfl | simp | simp_all

@[simp] theorem State.arriveCore_wf (s : State) (k : Nat) (p : Packet) (g : Nat) (hw : Memory.wf s.mem = true) :
    Memory.wf (State.arriveCore s k p g).mem = true := by
  unfold State.arriveCore
  try dsimp only
  repeat' split
  all_goals first | exact hw | (simp (maxDischargeDepth := 12) [hw]; done) | (simp_all (maxDischargeDepth := 12); done)

@[simp] theorem State.arriveFar_wf (s : State) (k : Nat) (p : Packet) (d : Nat) (hw : Memory.wf s.mem = true) :
    Memory.wf (State.arriveFar s k p d).mem = true := by
  unfold State.arriveFar
  try dsimp only
  repeat' split
  all_goals first | exact hw | (simp (maxDischargeDepth := 12) [hw]; done) | (simp_all (maxDischargeDepth := 12); done)

@[simp] theorem State.acceptedFar_wf (s : State) (k : Nat) (hw : Memory.wf s.mem = true) :
    Memory.wf (State.acceptedFar s k).mem = true := by
  unfold State.acceptedFar
  try dsimp only
  repeat' split
  all_goals first | exact hw | (simp (maxDischargeDepth := 12) [hw]; done) | (simp_all (maxDischargeDepth := 12); done)

@[simp] theorem State.fromFabric_mem (s : State) (p : Inbound) : (State.fromFabric s p).mem = s.mem := by
  unfold State.fromFabric
  try dsimp only
  repeat' split
  all_goals first | rfl | simp | simp_all

/-! ## Sched -/

@[simp] theorem State.take_wf (s : State) (u c : Nat) (x : Held) (hw : Memory.wf s.mem = true) :
    Memory.wf (State.take s u c x).mem = true := by
  unfold State.take
  try dsimp only
  repeat' split
  all_goals first | exact hw | (simp (maxDischargeDepth := 12) [hw]; done) | (simp_all (maxDischargeDepth := 12); done)

@[simp] theorem State.dispatchAt_wf (s : State) (g c : Nat) (hw : Memory.wf s.mem = true) :
    Memory.wf (State.dispatchAt s g c).mem = true := by
  unfold State.dispatchAt
  try dsimp only
  repeat' split
  all_goals first | exact hw | (simp (maxDischargeDepth := 12) [hw]; done) | (simp_all (maxDischargeDepth := 12); done)

@[simp] theorem State.reply_mem (s : State) (thief : Nat) (x : Option Held) : (State.reply s thief x).mem = s.mem := by
  unfold State.reply
  try dsimp only
  repeat' split
  all_goals first | rfl | simp | simp_all

@[simp] theorem State.giveWhole_mem (s : State) (g thief : Nat) (x : Held) : (State.giveWhole s g thief x).mem = s.mem := by
  unfold State.giveWhole
  try dsimp only
  repeat' split
  all_goals first | rfl | simp | simp_all

@[simp] theorem State.split_wf (s0 : State) (g c thief mid : Nat) (x : Held) (hw : Memory.wf s0.mem = true) :
    Memory.wf (State.split s0 g c thief mid x).mem = true := by
  unfold State.split
  try dsimp only
  repeat' split
  all_goals first | exact hw | (simp (maxDischargeDepth := 12) [hw]; done) | (simp_all (maxDischargeDepth := 12); done)

@[simp] theorem State.serve_wf (s : State) (g c thief : Nat) (hw : Memory.wf s.mem = true) :
    Memory.wf (State.serve s g c thief).mem = true := by
  unfold State.serve
  try dsimp only
  repeat' split
  all_goals first | exact hw | (simp (maxDischargeDepth := 12) [hw]; done) | (simp_all (maxDischargeDepth := 12); done)

@[simp] theorem State.post_mem (s : State) (c g : Nat) (x : Held) : (State.post s c g x).mem = s.mem := by
  unfold State.post
  try dsimp only
  repeat' split
  all_goals first | rfl | simp | simp_all

@[simp] theorem State.granted_mem (s : State) (r : KeyReq) : (State.granted s r).mem = s.mem := by
  unfold State.granted
  try dsimp only
  repeat' split
  all_goals first | rfl | simp | simp_all

@[simp] theorem State.refuseKey_mem (s : State) (r : KeyReq) : (State.refuseKey s r).mem = s.mem := by
  unfold State.refuseKey
  try dsimp only
  repeat' split
  all_goals first | rfl | simp | simp_all

@[simp] theorem State.requestKey_mem (s : State) (r : KeyReq) (key : Nat) : (State.requestKey s r key).mem = s.mem := by
  unfold State.requestKey
  try dsimp only
  repeat' split
  all_goals first | rfl | simp | simp_all

@[simp] theorem State.passKey_mem (s : State) (c key : Nat) : (State.passKey s c key).mem = s.mem := by
  unfold State.passKey
  try dsimp only
  repeat' split
  all_goals first | rfl | simp | simp_all

@[simp] theorem State.setJoinWord_wf (s : State) (c pa w : Nat) (hw : Memory.wf s.mem = true) :
    Memory.wf (State.setJoinWord s c pa w).mem = true := by
  unfold State.setJoinWord
  try dsimp only
  repeat' split
  all_goals first | exact hw | (simp (maxDischargeDepth := 12) [hw]; done) | (simp_all (maxDischargeDepth := 12); done)

@[simp] theorem State.release_wf (s0 : State) (c pa : Nat) (hw : Memory.wf s0.mem = true) :
    Memory.wf (State.release s0 c pa).mem = true := by
  unfold State.release
  try dsimp only
  repeat' split
  all_goals first | exact hw | (simp (maxDischargeDepth := 12) [hw]; done) | (simp_all (maxDischargeDepth := 12); done)

@[simp] theorem State.joinArrive_wf (s0 : State) (c pa : Nat) (hw : Memory.wf s0.mem = true) :
    Memory.wf (State.joinArrive s0 c pa).mem = true := by
  unfold State.joinArrive
  try dsimp only
  repeat' split
  all_goals first | exact hw | (simp (maxDischargeDepth := 12) [hw]; done) | (simp_all (maxDischargeDepth := 12); done)

@[simp] theorem State.joinIncrement_wf (s0 : State) (c pa : Nat) (hw : Memory.wf s0.mem = true) :
    Memory.wf (State.joinIncrement s0 c pa).mem = true := by
  unfold State.joinIncrement
  try dsimp only
  repeat' split
  all_goals first | exact hw | (simp (maxDischargeDepth := 12) [hw]; done) | (simp_all (maxDischargeDepth := 12); done)

/-! ## Contexts -/

@[simp] theorem State.preemptMeeting_mem (s : State) (set : List Nat) : (State.preemptMeeting s set).mem = s.mem := by
  unfold State.preemptMeeting
  try dsimp only
  repeat' split
  all_goals first | rfl | simp | simp_all

@[simp] theorem State.settleXlate_mem (s : State) (u c k seq va : Nat) (d : List Byte) (kind : StoreKind) (sup : Bool) :
    (s.settleXlate u c k seq va d kind sup).mem = s.mem := by
  unfold State.settleXlate
  dsimp only
  repeat' split
  all_goals simp

@[simp] theorem State.settleLooks_mem (u c : Nat) : ∀ (l : List Nat) (s : State), (s.settleLooks u c l).mem = s.mem
  | [], _ => rfl
  | n :: rest, s => by
    unfold State.settleLooks
    repeat' split
    all_goals first
      | exact State.settleLooks_mem u c rest s
      | exact (State.settleLooks_mem u c rest _).trans (State.settleXlate_mem _ _ _ _ _ _ _ _ _)

@[simp] theorem State.settlePerform_wf (u c : Nat) : ∀ (fuel : Nat) (s : State), Memory.wf s.mem = true →
    Memory.wf (s.settlePerform u c fuel).mem = true
  | 0, _, hw => hw
  | fuel + 1, s, hw => by
    unfold State.settlePerform
    split
    · exact State.settlePerform_wf u c fuel _ (by simp [hw])
    · exact hw

@[simp] theorem State.settleStores_wf (s : State) (u c : Nat) (hw : Memory.wf s.mem = true) :
    Memory.wf (State.settleStores s u c).mem = true := by
  unfold State.settleStores
  try dsimp only
  repeat' split
  all_goals first | exact hw | (simp (maxDischargeDepth := 12) [hw]; done) | (simp_all (maxDischargeDepth := 12); done)

@[simp] theorem State.settleDeliv_wf (s : State) (u : Nat) (w : Which) (hw : Memory.wf s.mem = true) :
    Memory.wf (s.settleDeliv u w).mem = true := by
  unfold State.settleDeliv
  repeat' split
  all_goals simp [hw]

@[simp] theorem State.settleQueue_wf (u : Nat) (w : Which) : ∀ (fuel : Nat) (s : State), Memory.wf s.mem = true →
    Memory.wf (s.settleQueue u w fuel).mem = true
  | 0, _, hw => hw
  | fuel + 1, s, hw => State.settleQueue_wf u w fuel _ (State.settleDeliv_wf s u w hw)

@[simp] theorem State.settleInsert_wf (s : State) (u k : Nat) (hw : Memory.wf s.mem = true) :
    Memory.wf (State.settleInsert s u k).mem = true := by
  unfold State.settleInsert
  try dsimp only
  repeat' split
  all_goals first | exact hw | (simp (maxDischargeDepth := 12) [hw]; done) | (simp_all (maxDischargeDepth := 12); done)

@[simp] theorem State.settleSlot_wf (s : State) (c u : Nat) (hw : Memory.wf s.mem = true) :
    Memory.wf (s.settleSlot c u).mem = true := by
  have hm (l : List Nat) (s : State) :
      (l.foldl (fun s m => s.setMac (u / 256) m { s.mac (u / 256) m with resm := true }) s).mem = s.mem :=
    State.foldl_mem (fun s m => State.setMac_mem s _ _ _) l s
  unfold State.settleSlot
  dsimp only
  rw [State.setSlot_mem, hm]
  refine State.foldl_wf (fun s k h => State.settleInsert_wf s u k h) _ _ ?_
  exact State.settleQueue_wf _ _ _ _ (State.settleQueue_wf _ _ _ _ (State.settleStores_wf _ _ _ hw))

@[simp] theorem State.settleJoins_wf (s : State) (c : Nat) (hw : Memory.wf s.mem = true) :
    Memory.wf (s.settleJoins c).mem = true := by
  unfold State.settleJoins
  dsimp only
  refine State.foldl_wf (fun s (r : Arrival) h => ?_) _ _ (State.foldl_wf (fun s (r : Incr) h => ?_) _ _ hw)
  · split <;> simp [h]
  · split <;> simp [h]

@[simp] theorem State.settleCore_wf (s : State) (c g : Nat) (hw : Memory.wf s.mem = true) :
    Memory.wf (State.settleCore s c g).mem = true := by
  unfold State.settleCore
  try dsimp only
  repeat' split
  all_goals first | exact hw | (simp (maxDischargeDepth := 12) [hw]; done) | (simp_all (maxDischargeDepth := 12); done)

@[simp] theorem State.settleCode_mem (c : Nat) : ∀ (fuel : Nat) (s : State), (s.settleCode c fuel).mem = s.mem
  | 0, _ => rfl
  | fuel + 1, s => by
    unfold State.settleCode
    repeat' split
    all_goals first | rfl | exact (State.settleCode_mem c fuel _).trans (State.codeRun_mem _ _ _)

@[simp] theorem State.endHolds_mem (s : State) (c : Nat) : (State.endHolds s c).mem = s.mem := by
  unfold State.endHolds
  try dsimp only
  repeat' split
  all_goals first | rfl | simp | simp_all

@[simp] theorem State.keepToken_wf (s1 : State) (u k : Nat) (r : IxReq) (hw : Memory.wf s1.mem = true) (s : State) :
    Memory.wf (s.keepToken s1 u k r).mem = true := by
  unfold State.keepToken
  dsimp only
  split
  · exact hw
  · rw [State.setSlot_mem]; exact hw

@[simp] theorem State.settleRequest_wf (s : State) (u k : Nat) (hw : Memory.wf s.mem = true) :
    Memory.wf (s.settleRequest u k).mem = true := by
  unfold State.settleRequest
  dsimp only
  repeat' split
  all_goals first | exact hw | exact State.keepToken_wf _ _ _ _ (by simp [hw]) _

@[simp] theorem State.settleRequests_wf (s : State) (u : Nat) (hw : Memory.wf s.mem = true) :
    Memory.wf (s.settleRequests u).mem = true :=
  State.foldl_wf (fun s k h => State.settleRequest_wf s u k h) _ _ hw

@[simp] theorem State.settle_wf (s : State) (c : Nat) (hw : Memory.wf s.mem = true) :
    Memory.wf (s.settle c).mem = true := by
  unfold State.settle
  dsimp only
  rw [State.endHolds_mem, State.settleCode_mem]
  refine State.foldl_wf (fun s u h => State.settleRequests_wf s u h) _ _ ?_
  refine State.foldl_wf (fun s u h => State.settleSlot_wf s c u h) _ _ ?_
  exact State.foldl_wf (fun s g h => State.settleCore_wf s c g h) _ _ (State.settleJoins_wf _ _ hw)

@[simp] theorem State.copyOut_wf (s : State) (c src : Nat) (p : Place) (hw : Memory.wf s.mem = true) :
    Memory.wf (s.copyOut c src p).mem = true := by
  have h1 : Memory.wf (((s.wakeNow c src).wakeNow c p.pa).touchSpan c src 65536).mem = true := by
    rw [State.touchSpan_mem, State.wakeNow_mem, State.wakeNow_mem]; exact hw
  unfold State.copyOut
  dsimp only
  split
  · exact Memory.wf_foldl_memSet (fun (x : Host.Cell) => (p.pa + (x.1 - src), x.2)) _ _ (State.zeroRange_wf _ _ _ h1)
  · exact State.foldl_wf (fun _ _ h => State.wr_wf _ _ _ h) _ _ h1

@[simp] theorem State.copyIn_wf (s : State) (p : Place) (dst : Nat) (hw : Memory.wf s.mem = true) :
    Memory.wf (s.copyIn p dst).mem = true := by
  unfold State.copyIn
  split
  · exact Memory.wf_foldl_memSet (fun (x : Host.Cell) => (dst + (x.1 - p.pa), x.2)) _ _ (State.zeroRange_wf _ _ _ hw)
  · exact State.foldl_wf (fun _ _ h => State.wr_wf _ _ _ h) _ _ (State.zeroRange_wf _ _ _ hw)

theorem State.loadImage_wf {s t : State} {f c va dst : Nat} (hw : Memory.wf s.mem = true)
    (h : s.loadImage f c va dst = some t) : Memory.wf t.mem = true := by
  unfold State.loadImage at h
  dsimp only at h
  repeat' split at h
  all_goals first
    | (cases h; done)
    | (cases h; exact State.copyIn_wf _ _ _ (by simp [hw]))

/-- A chain of steps that may fail keeps the canonical form when each step does. -/
theorem State.foldlM_wf {β : Type} {f : State → β → Option State}
    (h : ∀ s t x, Memory.wf s.mem = true → f s x = some t → Memory.wf t.mem = true) :
    ∀ (l : List β) (s t : State), Memory.wf s.mem = true → l.foldlM f s = some t → Memory.wf t.mem = true
  | [], s, t, hs, ht => by cases ht; exact hs
  | x :: l, s, t, hs, ht => by
    rw [List.foldlM_cons] at ht
    obtain ⟨s1, h1, h2⟩ := Option.bind_eq_some_iff.mp ht
    exact State.foldlM_wf h l s1 t (h s s1 x hs h1) h2

theorem State.saveImages_wf {s t : State} {c f : Nat} (hw : Memory.wf s.mem = true) (h : s.saveImages c f = some t) :
    Memory.wf t.mem = true := by
  unfold State.saveImages at h
  refine State.foldlM_wf (fun s t p hs ht => ?_) _ _ _ hw h
  split at ht
  · dsimp only at ht
    rw [Option.map_eq_some_iff] at ht
    obtain ⟨q, -, rfl⟩ := ht
    exact State.copyOut_wf _ _ _ _ (by rw [State.walkTouch_mem]; exact hs)
  · cases ht; exact hs

theorem State.saveFacet_wf {s t : State} {c f : Nat} (hw : Memory.wf s.mem = true) (h : s.saveFacet c f = some t) :
    Memory.wf t.mem = true := by
  unfold State.saveFacet at h
  obtain ⟨s1, h1, h⟩ := Option.bind_eq_some_iff.mp h
  obtain ⟨s2, h2, h⟩ := Option.bind_eq_some_iff.mp h
  exact State.saveImages_wf
    (State.foldlM_wf (fun s t m hs ht => State.saveRec_wf hs ht) _ _ _ (State.saveRec_wf hw h1) h2) h

theorem State.saveAll_wf {s t : State} {c : Nat} (hw : Memory.wf s.mem = true) (h : s.saveAll c = some t) :
    Memory.wf t.mem = true := by
  unfold State.saveAll at h
  obtain ⟨s1, h1, h⟩ := Option.bind_eq_some_iff.mp h
  obtain ⟨s2, h2, h⟩ := Option.bind_eq_some_iff.mp h
  refine State.foldlM_wf (fun s t f hs ht => ?_) _ _ _ (State.foldlM_wf (fun s t f hs ht => ?_) _ _ _
    (State.foldlM_wf (fun s t f hs ht => ?_) _ _ _ hw h1) h2) h
  · exact State.foldlM_wf (fun s t i hs ht => State.saveRec_wf hs ht) _ _ _ hs ht
  · exact State.saveFacet_wf hs ht
  · exact State.foldlM_wf (fun s t i hs ht => State.saveRec_wf hs ht) _ _ _ hs ht

@[simp] theorem State.clearImages_wf (s : State) (c f : Nat) (hw : Memory.wf s.mem = true) :
    Memory.wf (s.clearImages c f).mem = true := by
  unfold State.clearImages
  split
  · exact hw
  · refine State.foldl_wf (fun s (p : (Nat × Nat) × Nat) h => ?_) _ _ hw
    split
    · exact h
    · exact State.zeroRange_wf _ _ _ h

@[simp] theorem State.leaveFacet_mem (s : State) (c f : Nat) : (State.leaveFacet s c f).mem = s.mem := by
  unfold State.leaveFacet
  try dsimp only
  repeat' split
  all_goals first | rfl | simp | simp_all

@[simp] theorem State.leave_wf (s : State) (c : Nat) (hw : Memory.wf s.mem = true) :
    Memory.wf (s.leave c).mem = true := by
  unfold State.leave
  dsimp only
  refine State.foldl_wf (fun s f h => ?_) _ _ hw
  rw [State.leaveFacet_mem]
  exact State.clearImages_wf _ _ _ h

@[simp] theorem State.putCore_mem (s : State) (c g : Nat) (k : Core) : (s.putCore c g k).mem = s.mem := rfl

theorem State.placeCore_mem {s t : State} {c g : Nat} (h : s.placeCore c g = some t) : t.mem = s.mem := by
  have fin {a b : State} (h : some a = some b) (hm : a.mem = s.mem) : b.mem = s.mem := Option.some.inj h ▸ hm
  unfold State.placeCore at h
  split at h
  · split at h
    · next h1 => exact fin h ((State.putCore_mem _ _ _ _).trans (State.loadRec_mem h1))
    · split at h
      · exact absurd h (Option.some_ne_none t).symm
      · exact fin h (State.putCore_mem _ _ _ _)
  · exact fin h (State.putCore_mem _ _ _ _)

theorem State.placeSlot_mem {s t : State} {c u : Nat} (h : s.placeSlot c u = some t) : t.mem = s.mem := by
  unfold State.placeSlot at h
  dsimp only at h
  split at h
  · rw [Option.map_eq_some_iff] at h
    obtain ⟨r, h1, rfl⟩ := h
    rw [State.setSlot_mem]
    exact State.loadRec_mem h1
  · cases h; rfl

@[simp] theorem State.placeMac_wf (s : State) (c f m : Nat) (g : Nat → Nat) (hw : Memory.wf s.mem = true) :
    Memory.wf (State.placeMac s c f m g).mem = true := by
  unfold State.placeMac
  try dsimp only
  repeat' split
  all_goals first | exact hw | (simp (maxDischargeDepth := 12) [hw]; done) | (simp_all (maxDischargeDepth := 12); done)

@[simp] theorem State.resetRetention_mem (s : State) (f : Nat) : (s.resetRetention f).mem = s.mem := by
  unfold State.resetRetention
  exact State.foldl_mem (fun s (y : Nat × Mac) => State.exitRetention_mem s f y.1 y.2.waker) _ _

@[simp] theorem State.freshFacet_wf (s : State) (c f : Nat) (hw : Memory.wf s.mem = true) :
    Memory.wf (s.freshFacet c f).mem = true := by
  unfold State.freshFacet
  dsimp only
  rw [State.setFacet_mem]
  exact State.foldl_wf (fun s m hs => State.placeMac_wf s c f m _ hs) _ _ (by rw [State.resetRetention_mem]; exact hw)

theorem State.placeFacet_wf {s t : State} {c f : Nat} (hw : Memory.wf s.mem = true) (h : s.placeFacet c f = some t) :
    Memory.wf t.mem = true := by
  unfold State.placeFacet at h
  dsimp only at h
  split at h
  · rw [← Option.some.inj h]
    exact State.freshFacet_wf s c f hw
  · obtain ⟨r, h1, h⟩ := Option.bind_eq_some_iff.mp h
    obtain ⟨s2, h2, h⟩ := Option.bind_eq_some_iff.mp h
    refine State.foldlM_wf (fun s t p hs ht => ?_) _ _ _ (State.foldlM_wf (fun s t m hs ht => ?_) _ _ _ ?_ h2) h
    · split at ht
      · exact State.loadImage_wf hs ht
      · cases ht; exact hs
    · rw [Option.map_eq_some_iff] at ht
      obtain ⟨g, hg, rfl⟩ := ht
      exact State.placeMac_wf _ _ _ _ _ (by rw [State.loadRec_mem hg]; exact hs)
    · rw [State.setFacet_mem, State.loadRec_mem h1]
      exact hw

theorem State.placeAll_wf {s t : State} {c : Nat} {set : List Nat} (hw : Memory.wf s.mem = true)
    (h : s.placeAll c set = some t) : Memory.wf t.mem = true := by
  unfold State.placeAll at h
  obtain ⟨s1, h1, h⟩ := Option.bind_eq_some_iff.mp h
  obtain ⟨s2, h2, h⟩ := Option.bind_eq_some_iff.mp h
  refine State.foldlM_wf (fun s t f hs ht => ?_) _ _ _ (State.foldlM_wf (fun s t f hs ht => ?_) _ _ _
    (State.foldlM_wf (fun s t f hs ht => ?_) _ _ _ hw h1) h2) h
  · exact State.foldlM_wf (fun s t i hs ht => by rw [State.placeSlot_mem ht]; exact hs) _ _ _ hs ht
  · exact State.foldlM_wf (fun s t i hs ht => by rw [State.placeCore_mem ht]; exact hs) _ _ _ hs ht
  · exact State.placeFacet_wf hs ht

@[simp] theorem State.resumeSlot_mem (s : State) (u : Nat) : (State.resumeSlot s u).mem = s.mem := by
  unfold State.resumeSlot
  try dsimp only
  repeat' split
  all_goals first | rfl | simp | simp_all

@[simp] theorem State.goRunning_mem (s : State) (c : Nat) (set : List Nat) : (s.goRunning c set).mem = s.mem := by
  unfold State.goRunning
  exact State.foldl_mem (fun s u => State.resumeSlot_mem s u) _ _

/-! ## Peers -/

@[simp] theorem State.replyTo_mem (s : State) (d u : Nat) (code : Dword) (b : List Byte) (bad : List Nat) :
    (s.replyTo d u code b bad).mem = s.mem := rfl

@[simp] theorem State.peerRead_mem (s : State) (p : Peer) (l : Place) (n : Nat) : (s.peerRead p l n).mem = s.mem := by
  unfold State.peerRead
  dsimp only
  split <;> simp

@[simp] theorem State.peerCopyRead_mem (s : State) (p : Peer) (l : Place) (n : Nat) :
    (s.peerCopyRead p l n).mem = s.mem := by
  unfold State.peerCopyRead
  simp

@[simp] theorem State.peerAmo_wf (s : State) (p : Peer) (l : Place) (n op : Nat) (v e : Dword) (hw : Memory.wf s.mem = true) :
    Memory.wf (s.peerAmo p l n op v e).mem = true := by
  unfold State.peerAmo
  dsimp only
  split <;> simp [hw]

@[simp] theorem State.commitPeer_mem (s : State) (p : Peer) : (s.commitPeer p).mem = s.mem := rfl

@[simp] theorem State.peerAt_wf (s : State) (p : Peer) (l : Place) (hw : Memory.wf s.mem = true) :
    Memory.wf (s.peerAt p l).mem = true := by
  unfold State.peerAt
  dsimp only
  repeat' split
  all_goals simp [hw]

@[simp] theorem State.performPeer_wf (s : State) (k : Nat) (hw : Memory.wf s.mem = true) :
    Memory.wf (s.performPeer k).mem = true := by
  unfold State.performPeer
  dsimp only
  repeat' split
  all_goals simp [hw]

@[simp] theorem State.fromPeer_wf (s : State) (p : Peer) (hw : Memory.wf s.mem = true) :
    Memory.wf (s.fromPeer p).mem = true := by
  unfold State.fromPeer
  dsimp only
  repeat' split
  all_goals simp [hw]



@[simp] theorem State.takeBulk_mem (s : State) (b : BulkReq) (n : Nat) : (s.takeBulk b n).mem = s.mem := by
  unfold State.takeBulk
  dsimp only
  repeat' split
  all_goals rfl

@[simp] theorem State.fromAsk_mem (s : State) (b : BulkAsk) : (s.fromAsk b).mem = s.mem := by
  unfold State.fromAsk
  split <;> simp



@[simp] theorem State.faultBulk_mem (s : State) (b : BulkReq) (va : Nat) : (s.faultBulk b va).1.mem = s.mem := by
  unfold State.faultBulk
  split <;> rfl

@[simp] theorem State.againBulk_mem (s : State) (d u : Nat) (go : Bool) : (s.againBulk d u go).mem = s.mem := by
  unfold State.againBulk
  dsimp only
  split <;> rfl

@[simp] theorem State.cutBulk_mem (b : BulkReq) (lim fuel : Nat) (s : State) : (s.cutBulk b lim fuel).1.mem = s.mem := by
  induction fuel generalizing s b with
  | zero => rfl
  | succ n ih =>
    unfold State.cutBulk
    dsimp only
    repeat' split
    all_goals simp [ih]

@[simp] theorem State.openBulk_mem (s : State) (k : Nat) (b : BulkReq) : (s.openBulk k b).mem = s.mem := by
  unfold State.openBulk
  split <;> simp

@[simp] theorem State.pieceBulk_wf (s : State) (k j : Nat) (b : BulkReq) (x : Piece) (hw : Memory.wf s.mem = true) :
    Memory.wf (s.pieceBulk k j b x).mem = true := by
  unfold State.pieceBulk
  repeat' split
  all_goals simp [hw]

@[simp] theorem State.stepBulk_wf (s : State) (k j : Nat) (hw : Memory.wf s.mem = true) :
    Memory.wf (s.stepBulk k j).mem = true := by
  unfold State.stepBulk
  repeat' split
  all_goals simp [hw]

/-! ## Apex -/

@[simp] theorem State.powerCycle_wf (s : State) (hw : Memory.wf s.mem = true) :
    Memory.wf (State.powerCycle s).mem = true := by
  unfold State.powerCycle
  try dsimp only
  repeat' split
  all_goals first | exact hw | (simp (maxDischargeDepth := 12) [hw]; done) | (simp_all (maxDischargeDepth := 12); done)

@[simp] theorem State.extend_mem (s : State) (i : Nat) (d : List Byte) : (State.extend s i d).mem = s.mem := by
  unfold State.extend
  try dsimp only
  repeat' split
  all_goals first | rfl | simp | simp_all

@[simp] theorem State.boot_mem (s : State) (b : Boot) : (State.boot s b).mem = s.mem := by
  unfold State.boot
  try dsimp only
  repeat' split
  all_goals first | rfl | simp | simp_all

@[simp] theorem State.answer_mem (s : State) (k : Nat) (b : List Byte) : (State.answer s k b).mem = s.mem := by
  unfold State.answer
  try dsimp only
  repeat' split
  all_goals first | rfl | simp | simp_all

@[simp] theorem State.request_wf (s : State) (f : State → State)
    (h : ∀ t, Memory.wf t.mem = true → Memory.wf (f t).mem = true) (hw : Memory.wf s.mem = true) :
    Memory.wf (s.request f).mem = true := by
  unfold State.request
  repeat' split
  all_goals first | exact hw | exact h _ hw

@[simp] theorem State.mgmtControl_wf (s : State) (wr : Bool) (a v : Dword) (hw : Memory.wf s.mem = true) :
    Memory.wf (State.mgmtControl s wr a v).mem = true := by
  unfold State.mgmtControl
  try dsimp only
  repeat' split
  all_goals first | exact hw | (simp (maxDischargeDepth := 12) [hw]; done) | (simp_all (maxDischargeDepth := 12); done)

@[simp] theorem State.touchApex_mem (s : State) (pa n : Nat) (part : Bool) : (s.touchApex pa n part).mem = s.mem :=
  State.foldl_mem (fun s (u : Nat × Nat) => State.touchUnit_mem s none u.1) _ _

@[simp] theorem State.mgmtHbm_wf (s : State) (wr : Bool) (a : Dword) (n : Nat) (data : List Byte) (hw : Memory.wf s.mem = true) :
    Memory.wf (State.mgmtHbm s wr a n data).mem = true := by
  unfold State.mgmtHbm
  try dsimp only
  repeat' split
  all_goals first | exact hw | (simp (maxDischargeDepth := 12) [hw]; done) | (simp_all (maxDischargeDepth := 12); done)

@[simp] theorem State.attestFor_mem (s : State) (d : Nat) (nonce : List Byte) : (State.attestFor s d nonce).mem = s.mem := by
  unfold State.attestFor
  try dsimp only
  repeat' split
  all_goals first | rfl | simp | simp_all

@[simp] theorem State.placeSection_wf (c : Nat) : ∀ (fuel : Nat) (s : State) (va : Nat) (d : List Byte),
    Memory.wf s.mem = true → Memory.wf (s.placeSection c fuel va d).mem = true
  | 0, _, _, _, hw => hw
  | fuel + 1, s, va, d, hw => by
    unfold State.placeSection
    dsimp only
    split
    · exact hw
    · apply State.placeSection_wf
      split <;> simp [hw]

@[simp] theorem State.fillKeys_mem (s : State) (c : Nat) : (State.fillKeys s c).mem = s.mem := by
  unfold State.fillKeys
  try dsimp only
  repeat' split
  all_goals first | rfl | simp | simp_all

/-! ## Fetch -/

@[simp] theorem State.tookTurn_mem (s : State) (u : Nat) : (State.tookTurn s u).mem = s.mem := by
  unfold State.tookTurn
  try dsimp only
  repeat' split
  all_goals first | rfl | simp | simp_all

@[simp] theorem State.cached_mem (s : State) (p : Place) (b : List Byte) : (State.cached s p b).mem = s.mem := by
  unfold State.cached
  try dsimp only
  repeat' split
  all_goals first | rfl | simp | simp_all

/-- The state that a fetch leaves behind, whether it waits, traps or answers. -/
def Fetch.state : Fetch → State
  | .out s => s
  | .word s _ => s

@[simp] theorem State.fetchPlace_wf (s : State) (p : Place) (hw : Memory.wf s.mem = true) :
    Memory.wf (s.fetchPlace p).state.mem = true := by
  unfold State.fetchPlace
  dsimp only
  repeat' split
  all_goals simp [Fetch.state, hw]

@[simp] theorem State.fetch_wf (s : State) (hw : Memory.wf s.mem = true) : Memory.wf s.fetch.state.mem = true := by
  unfold State.fetch
  dsimp only
  repeat' split
  all_goals first | exact State.fetchPlace_wf _ _ hw | simp [Fetch.state, hw]

/-- What the order of R280 makes of an attempt: nothing of it, all of it, or all of it with the turn recorded. -/
theorem State.ordered_cases (s : State) (u : Nat) (t : State) :
    s.ordered u t = s ∨ s.ordered u t = t ∨ s.ordered u t = t.tookTurn u := by
  unfold State.ordered
  repeat' split
  · exact .inr (.inl rfl)
  · exact .inl rfl
  · exact .inr (.inr rfl)

@[simp] theorem State.ordered_wf (s : State) (u : Nat) (t : State) (hs : Memory.wf s.mem = true)
    (ht : Memory.wf t.mem = true) : Memory.wf (s.ordered u t).mem = true := by
  rcases State.ordered_cases s u t with h | h | h <;> rw [h] <;> first | exact hs | exact ht | (rw [State.tookTurn_mem]; exact ht)

@[simp] theorem State.strike_mem (s : State) (a kind : Nat) : (State.strike s a kind).mem = s.mem := by
  unfold State.strike
  try dsimp only
  repeat' split
  all_goals first | rfl | simp | simp_all

@[simp] theorem State.nextTurn_mem (s : State) : (State.nextTurn s).2.mem = s.mem := by
  unfold State.nextTurn
  try dsimp only
  repeat' split
  all_goals first | rfl | simp | simp_all

@[simp] theorem State.putWord_wf (s : State) (w : Word) (hw : Memory.wf s.mem = true) :
    Memory.wf (State.putWord s w).mem = true := by
  unfold State.putWord
  try dsimp only
  repeat' split
  all_goals first | exact hw | (simp (maxDischargeDepth := 12) [hw]; done) | (simp_all (maxDischargeDepth := 12); done)

@[simp] theorem State.placeWord_wf (s : State) (w : Word) (hw : Memory.wf s.mem = true) :
    Memory.wf (State.placeWord s w).mem = true := by
  have h : (s.placeWord w).mem = (s.putWord w).mem := by
    unfold State.placeWord
    dsimp only [State.setFacet_mem, State.setCtx_mem, State.setSlot_mem, State.setCore_mem]
  rw [h]
  exact State.putWord_wf s w hw

/-! ## Step -/

@[simp] theorem State.whenUp_wf (s : State) (f : State → State)
    (h : ∀ t, Memory.wf t.mem = true → Memory.wf (f t).mem = true) (hw : Memory.wf s.mem = true) :
    Memory.wf (s.whenUp f).mem = true := by
  unfold State.whenUp
  split
  · exact h _ hw
  · exact hw

end Sys2Proof.Machine
end

