-- ==== Sys2Proof/Tests/Slice0.lean ====
section
/-!
SUPPORT. The model's own tests: words of every instruction decode, words and terms outside the maps are refused, small
steps give the spec's worked values, and for every statement a state that meets its hypotheses.
-/

set_option Elab.async false

namespace Sys2Proof.Tests

open Sys2Proof Sys2Proof.Machine

/-! ## Small states -/

/-- Context 0 runs on facet 0, slot 0 holds a task at 0x10000 and core 0 has a handler. Page 1 is a page of HBM, page 2 the
local memories of cores 0 to 3, pages 3 and 4 are macros 0 and 1 of facet 0. -/
def base : State :=
  let s := State.reset.placeWord 0
  let x := s.facet 0
  let e (page leaf : Nat) : TlbEntry := ⟨0, false, page, dw (leaf + 0xE2)⟩
  let s1 := s.setFacet 0 { x with tlb := x.tlb ++ [e 2 (2 ^ 48), e 3 (2 ^ 49), e 4 (2 ^ 49 + 0x10000)] }
  { s1.setCore 0 { s1.core 0 with tvec := 0x10100, htab := 0x10200 } with schedule := [] }

/-- The base state with another slot 0. -/
def at0 (f : Slot → Slot) : State := base.setHere (f base.here)

/-- Scalar registers written. -/
def regs (l : List (Nat × Dword)) (t : Slot) : Slot := l.foldl (fun t x => t.setS x.1 x.2) t

/-- Slot 0 with some scalar registers. -/
def with0 (l : List (Nat × Dword)) : State := at0 (regs l)

/-- Slot 0 at supervisor level. -/
def sup0 (l : List (Nat × Dword)) : State := at0 fun t => regs l { t with sup := true, epc := 0x10040 }

/-- Memory with bytes. -/
def stored (s : State) (a : Nat) (l : List Byte) : State := { s with mem := wrBytes s.mem a l }

/-- Context 0 with a page table at 0x100000 that maps pages 5 and 6 to HBM 0x500000 and 0x510000 for reads and writes, and
page 7 to HBM 0x520000 for fetches. -/
def mapped (s : State := base) : State :=
  let put (s : State) (a x : Nat) : State := stored s a (toBytes x 8)
  let s1 := put (put (put s 0x100000 0x200001) 0x200000 0x300001) 0x300000 0x400001
  let s2 := put (put (put s1 0x400028 0x500062) 0x400030 0x510062) 0x400038 0x5200A2
  s2.setCtx 0 { s2.ctx 0 with ptbase := 0x100000 }

/-- The outcome is a next state that passes a check. -/
def next? (o : Out) (p : State → Bool) : Bool :=
  match o with
  | .next t => p t
  | _ => false

/-- The instruction completes with a value in a register of slot 0, at the next address. -/
def gives (i : Instr) (s : State) (d : Nat) (x : Dword) : Bool :=
  next? (exec i s) fun t => t.here.s d == x && t.here.pc == s.here.pc + 4

/-- The instruction enters the handler with a cause and a value. -/
def traps (i : Instr) (s : State) (code : Nat) (tval : Dword) : Bool :=
  next? (exec i s) fun t => t.here.sup && t.here.tcause == dw code && t.here.tval == tval && t.here.epc == s.here.pc && t.here.pc == 0x10100

/-- R41, R121. -/
theorem test_decode_register_operations :
    decodeWord 0x05990000 = .ok (.add 12 25 0)
    ∧ decodeWord 0x04642801 = .ok (.sub 3 4 5)
    ∧ decodeWord 0x04630802 = .ok (.and 3 3 1)
    ∧ decodeWord 0b000001_00001_01010_10000_00000000011 = .ok (.or 1 10 16)
    ∧ decodeWord 0b000001_00010_10001_11011_00000000100 = .ok (.xor 2 17 27)
    ∧ decodeWord 0b000001_00011_11000_00110_00000000101 = .ok (.andn 3 24 6)
    ∧ decodeWord 0b000001_00100_11111_10001_00000001000 = .ok (.sll 4 31 17)
    ∧ decodeWord 0b000001_00101_00110_11100_00000001001 = .ok (.srl 5 6 28)
    ∧ decodeWord 0b000001_00110_01101_00111_00000001010 = .ok (.sra 6 13 7)
    ∧ decodeWord 0b000001_00111_10100_10010_00000010000 = .ok (.slt 7 20 18)
    ∧ decodeWord 0x06A84811 = .ok (.sltZ 21 8 9)
    ∧ decodeWord 0b000001_01000_11011_11101_00000010010 = .ok (.seq 8 27 29)
    ∧ decodeWord 0b000001_01001_00010_01000_00000011000 = .ok (.min 9 2 8)
    ∧ decodeWord 0b000001_01010_01001_10011_00000011001 = .ok (.max 10 9 19) := by
  decide

/-- R41, R121, R122. -/
theorem test_decode_products_and_counts :
    decodeWord 0b000001_01011_10000_11110_00000011010 = .ok (.minZ 11 16 30)
    ∧ decodeWord 0b000001_01100_10111_01001_00000011011 = .ok (.maxZ 12 23 9)
    ∧ decodeWord 0b000001_01101_11110_10100_00000100000 = .ok (.mul 13 30 20)
    ∧ decodeWord 0b000001_01110_00101_11111_00000100001 = .ok (.mulh 14 5 31)
    ∧ decodeWord 0x05211022 = .ok (.mulhZ 9 1 2)
    ∧ decodeWord 0x04C74028 = .ok (.div 6 7 8)
    ∧ decodeWord 0b000001_01111_01100_01010_00000101001 = .ok (.divZ 15 12 10)
    ∧ decodeWord 0b000001_10000_10011_10101_00000101010 = .ok (.rem 16 19 21)
    ∧ decodeWord 0b000001_10001_11010_00000_00000101011 = .ok (.remZ 17 26 0)
    ∧ decodeWord 0x04850030 = .ok (.clz 4 5)
    ∧ decodeWord 0x04630031 = .ok (.popc 3 3) := by
  decide

/-- R40, R123 to R125. -/
theorem test_decode_immediates :
    decodeWord 0x0842FFFF = .ok (.addImm 2 2 0xFFFF)
    ∧ decodeWord 0x0C8400FF = .ok (.andImm 4 4 255)
    ∧ decodeWord 0b000100_01001_00010_1000000100100011 = .ok (.orImm 9 2 0x8123)
    ∧ decodeWord 0x1421FFFF = .ok (.xorImm 1 1 0xFFFF)
    ∧ decodeWord 0b000110_01110_01111_1001000100100110 = .ok (.sltImm 14 15 0x9126)
    ∧ decodeWord 0x1CA6FFFF = .ok (.sltZImm 5 6 0xFFFF)
    ∧ decodeWord 0x20208000 = .ok (.li 1 0x8000)
    ∧ decodeWord 0x24218000 = .ok (.lsi 1 1 0x8000)
    ∧ decodeWord 0x2AD40001 = .ok (.sllImm 22 20 1)
    ∧ decodeWord 0x2864013F = .ok (.srlImm 3 4 63)
    ∧ decodeWord 0x28640201 = .ok (.sraImm 3 4 1) := by
  decide

/-- R40, R126 to R128. -/
theorem test_decode_branches_and_jumps :
    decodeWord 0b001101_10011_11100_1010000100101001 = .ok (.beq 19 28 0xA129)
    ∧ decodeWord 0x3840FFFC = .ok (.bne 2 0 0xFFFC)
    ∧ decodeWord 0x3D400021 = .ok (.blt 10 0 33)
    ∧ decodeWord 0b010000_11000_01001_1011000100101100 = .ok (.bge 24 9 0xB12C)
    ∧ decodeWord 0b010001_11101_10110_1100000100101111 = .ok (.bltZ 29 22 0xC12F)
    ∧ decodeWord 0b010010_00010_00011_1101000100110010 = .ok (.bgeZ 2 3 0xD132)
    ∧ decodeWord 0x2EE0000A = .ok (.jal 23 10)
    ∧ decodeWord 0x2C1FFFFE = .ok (.jal 0 0x1FFFFE)
    ∧ decodeWord 0x30170000 = .ok (.jalr 0 23 0)
    ∧ decodeWord 0x32E90010 = .ok (.jalr 23 9 16) := by
  decide

/-- R42, R131, R291. -/
theorem test_decode_system :
    decodeWord 0x4C000000 = .ok .nop
    ∧ decodeWord 0x4C000001 = .ok .endTask
    ∧ decodeWord 0x4C000002 = .ok .eret
    ∧ decodeWord 0x4C000003 = .ok .ifence
    ∧ decodeWord 0x4C000004 = .ok .waiti
    ∧ decodeWord 0x4C000107 = .ok (.trap 7)
    ∧ decodeWord 0x4D442805 = .ok (.codepub 10 4 5) := by
  decide

/-- R40, R43. -/
theorem test_decode_loads :
    decodeWord 0b011000_00111_10000_1110000100110101 = .ok (.ldB 7 16 0xE135)
    ∧ decodeWord 0b011001_01100_11101_1111000100111000 = .ok (.ldH 12 29 0xF138)
    ∧ decodeWord 0x6864FFF8 = .ok (.ldW 3 4 0xFFF8)
    ∧ decodeWord 0x6DFA0080 = .ok (.ldD 15 26 128)
    ∧ decodeWord 0b011100_10001_01010_0000000100111011 = .ok (.ldBz 17 10 0x013B)
    ∧ decodeWord 0b011101_10110_10111_0001000100111110 = .ok (.ldHz 22 23 0x113E)
    ∧ decodeWord 0b011110_11011_00100_0010000101000001 = .ok (.ldWz 27 4 0x2141)
    ∧ decodeWord 0b100110_10101_01010_0000000000000000 = .ok (.ldaW 21 10)
    ∧ decodeWord 0x98850001 = .ok (.ldaD 4 5)
    ∧ decodeWord 0x903A0000 = .ok (.vld 1 26 0)
    ∧ decodeWord 0x98433804 = .ok (.vldsH 2 3 7)
    ∧ decodeWord 0b100110_11111_10000_00001_00000000101 = .ok (.vldsW 31 16 1) := by
  decide

/-- R40, R43. -/
theorem test_decode_stores_and_tags :
    decodeWord 0b100000_00000_10001_0011000101000100 = .ok (.stB 0 17 0x3144)
    ∧ decodeWord 0b100001_00101_11110_0100000101000111 = .ok (.stH 5 30 0x4147)
    ∧ decodeWord 0b100010_01010_01011_0101000101001010 = .ok (.stW 10 11 0x514A)
    ∧ decodeWord 0x8CFB0000 = .ok (.stD 7 27 0)
    ∧ decodeWord 0b100110_00110_11001_0000000000000010 = .ok (.stlW 6 25)
    ∧ decodeWord 0x98850003 = .ok (.stlD 4 5)
    ∧ decodeWord 0x945A0000 = .ok (.vst 2 26 0)
    ∧ decodeWord 0x9A300008 = .ok (.tagl 17 16)
    ∧ decodeWord 0x98108809 = .ok (.tags 16 17)
    ∧ decodeWord 0x9811000A = .ok (.tagi 17)
    ∧ decodeWord 0x9809000C = .ok (.retx 9) := by
  decide

/-- R45. -/
theorem test_decode_atomics :
    decodeWord 0x9C642810 = .ok (.amoAdd 3 4 5 .core .rlx .d)
    ∧ decodeWord 0b100111_00001_10001_00110_001_01_0_0_0001 = .ok (.amoAnd 1 17 6 .facet .acq .w)
    ∧ decodeWord 0b100111_00100_11010_01011_010_10_0_1_0010 = .ok (.amoOr 4 26 11 .prism .rel .d)
    ∧ decodeWord 0b100111_00111_00011_10000_011_11_0_0_0011 = .ok (.amoXor 7 3 16 .dev .ar .w)
    ∧ decodeWord 0b100111_01010_01100_10101_100_01_0_1_0100 = .ok (.amoMin 10 12 21 .sys .acq .d)
    ∧ decodeWord 0b100111_01101_10101_11010_000_00_0_0_0101 = .ok (.amoMax 13 21 26 .core .rlx .w)
    ∧ decodeWord 0b100111_10000_11110_11111_001_11_0_1_0110 = .ok (.amoMinZ 16 30 31 .facet .ar .d)
    ∧ decodeWord 0b100111_10011_00111_00100_010_01_0_0_0111 = .ok (.amoMaxZ 19 7 4 .prism .acq .w)
    ∧ decodeWord 0b100111_10110_10000_01001_011_10_0_1_1000 = .ok (.amoXchg 22 16 9 .dev .rel .d)
    ∧ decodeWord 0x9CC743C9 = .ok (.amoCas 6 7 8 .dev .ar .w)
    ∧ decodeWord 0x9C43200A = .ok (.amoFaddF32 2 3 4 .core .rlx)
    ∧ decodeWord 0x9C0954AB = .ok (.amoXadd 0 9 10 .sys .rel) := by
  decide

/-- R44, R54. -/
theorem test_decode_fences_and_control :
    decodeWord 0xA0000040 = .ok (.fence 4 .core)
    ∧ decodeWord 0xA0000081 = .ok (.fence 8 .facet)
    ∧ decodeWord 0xA00000F4 = .ok (.fence 15 .sys)
    ∧ decodeWord 0xA00000C3 = .ok (.fence 12 .dev)
    ∧ decodeWord 0xA0000100 = .ok .fenceX
    ∧ decodeWord 0xF4600010 = .ok (.ctlr 3 16)
    ∧ decodeWord 0xF4890010 = .ok (.ctlrSpace 4 9 16)
    ∧ decodeWord 0xF8400023 = .ok (.ctlw 2 35)
    ∧ decodeWord 0xF8A10008 = .ok (.ctlwSpace 5 1 8) := by
  decide

/-- R46, R47. -/
theorem test_decode_vector_arithmetic :
    decodeWord 0xC0221800 = .ok (.vadd 1 2 3 0 .i8)
    ∧ decodeWord 0xC0410A80 = .ok (.vadd 2 1 1 2 .f16)
    ∧ decodeWord 0xC0842B41 = .ok (.vsub 4 4 5 3 .i32)
    ∧ decodeWord 0b110000_00010_10100_01001_000_00_000010 = .ok (.vmul 2 20 9 0 .i8)
    ∧ decodeWord 0xC0A420C3 = .ok (.vfma 5 4 4 0 .f32)
    ∧ decodeWord 0b110000_01001_10111_10100_001_01_000100 = .ok (.vmin 9 23 20 1 .i32)
    ∧ decodeWord 0b110000_10000_11010_11111_010_10_000101 = .ok (.vmax 16 26 31 2 .f16)
    ∧ decodeWord 0b110000_10111_11101_00000_011_11_000110 = .ok (.vabs 23 29 3 .f32)
    ∧ decodeWord 0b110000_11110_00000_00000_100_00_000111 = .ok (.vneg 30 0 4 .i8)
    ∧ decodeWord 0b110000_00101_00011_00000_101_01_001000 = .ok (.vand 5 3 0 5 .i32)
    ∧ decodeWord 0b110000_01100_00110_01011_110_00_001001 = .ok (.vor 12 6 11 6 .i8)
    ∧ decodeWord 0b110000_10011_01001_10110_111_01_001010 = .ok (.vxor 19 9 22 7 .i32)
    ∧ decodeWord 0b110000_11010_01100_00001_000_00_001011 = .ok (.vsll 26 12 1 0 .i8)
    ∧ decodeWord 0b110000_00001_01111_01100_001_01_001100 = .ok (.vsrl 1 15 12 1 .i32)
    ∧ decodeWord 0xC021104D = .ok (.vsra 1 1 2 0 .i32) := by
  decide

/-- R47. -/
theorem test_decode_vector_functions :
    decodeWord 0xC0C111CE = .ok (.vsel 6 1 2 1 .f32)
    ∧ decodeWord 0b110000_01000_10010_00000_010_10_010000 = .ok (.vexp2 8 18 2 .f16)
    ∧ decodeWord 0b110000_01111_10101_00000_011_11_010001 = .ok (.vlog2 15 21 3 .f32)
    ∧ decodeWord 0xC04300D2 = .ok (.vrcp 2 3 0 .f32)
    ∧ decodeWord 0b110000_10110_11000_00000_100_10_010011 = .ok (.vrsq 22 24 4 .f16)
    ∧ decodeWord 0b110000_11101_11011_00000_101_01_010100 = .ok (.vbc 29 27 5 .i32)
    ∧ decodeWord 0xC0610095 = .ok (.vredAdd 3 1 0 .f16)
    ∧ decodeWord 0b110000_00100_11110_00000_110_10_010110 = .ok (.vredMin 4 30 6 .f16)
    ∧ decodeWord 0b110000_01011_00001_00000_111_11_010111 = .ok (.vredMax 11 1 7 .f32)
    ∧ decodeWord 0xC0A11018 = .ok (.vdot 5 1 2 0 .i8)
    ∧ decodeWord 0xC0C11019 = .ok (.vsqd 6 1 2 0) := by
  decide

/-- R48 to R50. -/
theorem test_decode_vector_moves :
    decodeWord 0xC4611046 = .ok (.vcmp 3 1 2 0 .i32 .ltz)
    ∧ decodeWord 0xC4411884 = .ok (.vcmp 2 1 3 0 .f16 .gt)
    ∧ decodeWord 0xC8830014 = .ok (.vcvt 4 3 0 .f16 .cone8)
    ∧ decodeWord 0xC8220019 = .ok (.vcvt 1 2 0 .f32 .int32)
    ∧ decodeWord 0xCC221C40 = .ok (.vxl 1 2 3 4 .i32)
    ∧ decodeWord 0xCC2208C1 = .ok (.vperm 1 2 1 0 .f32)
    ∧ decodeWord 0xCCE64082 = .ok (.vnzs 7 6 8 0 .f16)
    ∧ decodeWord 0xD04518C0 = .ok (.vgth 2 5 3 0 .f32)
    ∧ decodeWord 0xD0862841 = .ok (.vsct 4 6 5 0 .i32) := by
  decide

/-- R51, R52. -/
theorem test_decode_queues_and_messages :
    decodeWord 0xE00C0000 = .ok (.enq 12 0)
    ∧ decodeWord 0xE0802001 = .ok (.deq 4 4)
    ∧ decodeWord 0xE00A0002 = .ok (.wtok 10)
    ∧ decodeWord 0xE16A0003 = .ok (.tokq 11 10)
    ∧ decodeWord 0xE4050000 = .ok (.mvm 0 5)
    ∧ decodeWord 0xE4640001 = .ok (.send 3 4)
    ∧ decodeWord 0xE4640002 = .ok (.sendh 3 4)
    ∧ decodeWord 0xE4C00003 = .ok (.spawn 6)
    ∧ decodeWord 0xE4084804 = .ok (.jinit 8 9)
    ∧ decodeWord 0xE41F0005 = .ok (.arrive 31)
    ∧ decodeWord 0xE41F0006 = .ok (.arriveRlx 31)
    ∧ decodeWord 0xE8000001 = .ok (.susp 1)
    ∧ decodeWord 0xEC800003 = .ok (.migr 4 3) := by
  decide

/-- R53. -/
theorem test_decode_index :
    decodeWord 0xF14C0000 = .ok (.ixnew 10 12)
    ∧ decodeWord 0xF12A0001 = .ok (.ixdel 9 10)
    ∧ decodeWord 0xF16A1002 = .ok (.stv 11 10 2)
    ∧ decodeWord 0xF2AA3003 = .ok (.ldn 21 10 6)
    ∧ decodeWord 0xF12A0004 = .ok (.ixstat 9 10) := by
  decide

/-! ## Words that the decoder refuses, by name (R38), and terms that are not well-formed -/

theorem test_refuse_reserved_major : decodeWord 0x00000000 = .error .reservedMajor ∧ decodeWord 0xFFFFFFFF = .error .reservedMajor := by
  decide

/-- R41, R42, R47, R51. -/
theorem test_refuse_unassigned :
    decodeWord 0b000001_00001_00010_00011_00000000110 = .error .unassigned
    ∧ decodeWord 0b010011_00000_00000_00000_00000000110 = .error .unassigned
    ∧ decodeWord 0b110000_00001_00010_00011_000_00_000011 = .error .fieldRange
    ∧ decodeWord 0b111000_00000_00000_00000_00000000100 = .error .unassigned := by
  decide

/-- R37: the unused fields of CLZ, LI, VABS, END and FENCE.X. -/
theorem test_refuse_unused_field :
    decodeWord 0b000001_00100_00101_00001_00000110000 = .error .fieldNotZero
    ∧ decodeWord 0b001000_00001_00001_0000000000000001 = .error .fieldNotZero
    ∧ decodeWord 0b110000_00001_00010_00001_000_00_000110 = .error .fieldNotZero
    ∧ decodeWord 0b010011_00001_00000_00000_00000000001 = .error .fieldNotZero
    ∧ decodeWord 0b101000_00001_00000_00000_00100000000 = .error .fieldNotZero := by
  decide

theorem test_refuse_truncated : decode [0x00, 0x00, 0x99] = .error .truncated := by decide

/-- A term outside the ranges of R36 to R54, one for each check of a word. -/
theorem test_ill_formed_words :
    [Instr.codepub 0 4 5, .ctlrSpace 3 0 8, .ctlwSpace 3 0 8, .amoAdd 1 2 3 .facet .rlx .w,
      .amoFaddF32 1 2 3 .sys .rlx, .amoXadd 1 2 3 .dev .rlx, .fence 0 .core, .vfma 1 2 3 0 .i8, .vexp2 1 2 0 .i32, .vand 1 2 3 0 .f16,
      .vdot 1 2 3 0 .i32, .vcmp 0 1 2 0 .i8 .eq, .vcmp 8 1 2 0 .i8 .eq, .vcmp 1 2 3 0 .f16 .ltz, .vcmp 1 2 3 0 .i32 .un,
      .vcvt 1 2 0 .f16 .f16, .vperm 1 2 12 0 .i8, .vperm 1 2 5 0 .f32, .vgth 1 2 3 0 .i8, .vsct 1 2 3 0 .i8, .enq 0 0, .enq 29 0,
      .enq 4 3, .deq 31 4, .deq 0 5, .deq 4 3, .wtok 0, .tokq 4 0, .mvm 8 1, .ixnew 0 4, .ixdel 0 4, .ixstat 0 4, .stv 4 5 31,
      .ldn 4 5 0].all (fun i => !i.wf) = true := by
  decide

/-- A step of an agent that the device does not have, one for each check of a step. -/
theorem test_ill_formed_steps :
    [Instr.cpy 655360, .delivery 655360 0 0 false, .perform 655360 0, .trapEntry 655360, .dispatch 163840, .cancel 2560 0 1, .cancel 0 32 1,
      .retcfg 2560 0, .enteringEnd 2560 0, .exitingEnd 0 16, .walk 8, .walkResult 8 0, .regionLen (some 512) 0 1, .regionLen none 4096 1,
      .claimed none 4096 1, .lqctl 64 0, .launchForward 64, .kill 512, .imageLoad 512 ⟨[], [], []⟩, .patrolScrub (2 ^ 33),
      .svnRaise 256, .unreachable 4096, .routeWrite 4096 []].all (fun i => !i.wf) = true := by
  decide

/-- The turn is of an agent that the device does not have. -/
def noAgent (s : State) : Bool :=
  match step s with
  | .fault .noSuchAgent => true
  | _ => false

/-- A turn of a slot that the device does not have stops by name; so does a step that is not well-formed. -/
theorem test_turn_of_no_agent :
    noAgent { State.reset with schedule := [.issue 655360] } = true
    ∧ noAgent { State.reset with schedule := [.event (.walk 8)] } = true := by
  decide +kernel

/-! ## Scalar instructions -/

def scalars : State :=
  with0 [(1, 7), (2, -7), (3, -1), (4, 0x8000000000000000), (5, 2), (6, 64), (7, 0x4000000000000000), (8, 4), (9, 0x10000), (31, 5)]

theorem witness_RegisterWriteFrame :
    base.here.sup = false ∧ (sup0 []).here.sup = true ∧ (7 : Reg).toNat ≤ 7 ∧ 8 ≤ (8 : Reg).toNat ∧ (3 : Reg) ≠ 0 ∧ (4 : Reg) ≠ 3 ∧ 1 ≠ base.cur := by
  decide +kernel

theorem witness_RegisterOperationsAndCounts : scalars.ready [1, 2] 3 ∧ scalars.ready [31] 0 := by
  unfold State.ready; decide +kernel

theorem witness_ProductsAndQuotients :
    scalars.ready [4, 3] 1 ∧ (scalars.here.s 4).toInt = -(2 ^ 63) ∧ (scalars.here.s 3).toInt = -1 := by
  unfold State.ready; decide +kernel

theorem witness_ImmediateForms : scalars.ready [2] 31 := by unfold State.ready; decide +kernel

/-- The worked values of R122. -/
theorem test_quotients :
    gives (.div 10 2 5) scalars 10 (-3) ∧ gives (.rem 10 2 5) scalars 10 (-1) ∧ gives (.divZ 10 2 5) scalars 10 0x7FFFFFFFFFFFFFFC
    ∧ gives (.remZ 10 2 5) scalars 10 1 ∧ gives (.div 10 4 3) scalars 10 0x8000000000000000 ∧ gives (.rem 10 4 3) scalars 10 0
    ∧ gives (.div 10 1 0) scalars 10 (-1) ∧ gives (.remZ 10 2 0) scalars 10 (-7) := by decide +kernel

/-- The worked values of R121. -/
theorem test_products_and_shifts :
    gives (.mulh 10 7 8) scalars 10 1 ∧ gives (.mulh 10 3 3) scalars 10 0 ∧ gives (.mulhZ 10 3 3) scalars 10 0xFFFFFFFFFFFFFFFE
    ∧ gives (.mul 10 3 2) scalars 10 7 ∧ gives (.sraImm 10 4 63) scalars 10 (-1) ∧ gives (.sll 10 1 6) scalars 10 7
    ∧ gives (.sltZImm 10 3 255) scalars 10 0 ∧ gives (.slt 10 3 1) scalars 10 1 ∧ gives (.clz 10 9) scalars 10 47
    ∧ gives (.popc 10 3) scalars 10 64 := by decide +kernel

/-- Wraps, the extremes by sign, and s0. -/
theorem test_register_corners :
    gives (.add 10 3 5) scalars 10 1 ∧ gives (.sub 1 0 1) scalars 1 (-7) ∧ gives (.min 10 3 5) scalars 10 (-1)
    ∧ gives (.maxZ 10 3 5) scalars 10 (-1) ∧ gives (.andn 10 3 1) scalars 10 (-8) ∧ gives (.add 0 1 1) scalars 0 0
    ∧ gives (.lsi 10 3 0x8000) scalars 10 0xFFFFFFFFFFFF8000 ∧ gives (.andImm 10 2 0xFFF0) scalars 10 (-16) := by decide +kernel

theorem witness_BranchesAndJumps :
    scalars.here.srcPend [2, 3] = false ∧ scalars.here.isPend 31 = false
    ∧ (scalars.ready [9] 9 ∧ (BitVec.ofInt 64 (((scalars.here.s 9).toNat : Int) + (0x7FFC : BitVec 16).toInt)).toNat % 4 = 0)
    ∧ ((BitVec.ofInt 64 (((scalars.here.s 9).toNat : Int) + (0xFFFF : BitVec 16).toInt)).toNat % 4 ≠ 0 ∧ scalars.handles) := by
  unfold State.ready State.handles; decide +kernel

/-- The clauses of BranchesAndJumps for pending registers: a source of a branch, the source of JALR, the link of JAL and JALR. -/
theorem witness_BranchesAndJumps_pending :
    (at0 fun t => { t with pend := [5] }).here.srcPend [5, 1] = true ∧ (at0 fun t => { t with pend := [5] }).here.srcPend [5] = true
    ∧ (at0 fun t => { t with pend := [5] }).here.isPend (5 : Reg).toNat = true ∧ (at0 fun t => { t with pend := [5] }).handles
    ∧ (at0 fun t => { t with pend := [5] }).here.srcPend [0] = false
    ∧ (BitVec.ofInt 64 ((((at0 fun t => { t with pend := [5] }).here.s 0).toNat : Int) + (8 : BitVec 16).toInt)).toNat % 4 = 0 := by
  unfold State.handles; decide +kernel

theorem test_branches :
    (next? (exec (.bltZ 5 3 0xFFFC) scalars) fun t => t.here.pc == 0xFFF0) ∧ (next? (exec (.blt 5 3 0xFFFC) scalars) fun t => t.here.pc == 0x10004)
    ∧ (next? (exec (.jal 23 10) scalars) fun t => t.here.pc == 0x10028 && t.here.s 23 == 0x10004)
    ∧ (next? (exec (.jalr 9 9 16) scalars) fun t => t.here.pc == 0x10010 && t.here.s 9 == 0x10004)
    ∧ traps (.jalr 9 1 0) scalars 6 7 := by decide +kernel

def pending : State := at0 fun t => { t with pend := [5] }

theorem witness_Scoreboard :
    pending.here.srcPend [5, 1] = true ∧ pending.here.srcPend [5] = true ∧ pending.here.isPend (5 : Reg).toNat = true ∧ pending.handles
    ∧ pending.here.srcPend [1] = false ∧ pending.here.srcPend [1, 2] = false := by
  unfold State.handles; decide +kernel

/-- A load tests S[d] before it reads S[a] (R106, R112). -/
theorem test_scoreboard :
    traps (.add 5 1 2) pending 2 5 ∧ traps (.ldD 5 5 0) pending 2 5 ∧ traps (.tagl 5 5) pending 2 5
    ∧ exec (.add 1 5 2) pending = .next pending ∧ exec (.ldD 1 5 0) pending = .next pending := by
  refine ⟨by decide +kernel, by decide +kernel, by decide +kernel, rfl, rfl⟩

/-! ## Control and traps -/

def behindStore : State :=
  at0 fun t => { t with sbuf := [.store 0 0x10000 (some ⟨0x10000, none⟩) [1] .plain false] }
def parked0 : State := at0 fun t => { t with replay := [⟨0, 0x50000, [1], .plain, causePage⟩], dueStore := true }
def rung : State :=
  (sup0 []).setCore 0 { (sup0 []).core 0 with high := [⟨Msg.zero, false⟩] }

theorem witness_SequencingAndFences :
    behindStore.here.replay = [] ∧ (parked0.here.replay ≠ [] ∧ (kindSl 4 || kindSs 4) = true)
    ∧ (rung.here.sup = true ∧ (rung.core rung.myCore).high ≠ [])
    ∧ ((sup0 []).here.sup = true ∧ ¬ (((sup0 []).core (sup0 []).myCore).high ≠ [] ∨ (sup0 []).here.bell = some true)) := by
  decide +kernel

theorem test_waiti_waits :
    (next? (exec .waiti (sup0 [])) fun t => t.here.pc == 0x10000 && t.here.bell == some false)
    ∧ (next? (exec .waiti rung) fun t => t.here.pc == 0x10004) := by decide +kernel

theorem witness_TrapEntry :
    ((base.slot 0).sup = false ∧ (base.core (0 / 4)).tvec ≠ 0)
    ∧ (parked0.working 0 = true ∧ (parked0.slot 0).busy = true ∧ (parked0.slot 0).conv = false
        ∧ (parked0.slot 0).dueTrap (parked0.ctx (parked0.ctxOf 0)).pcount = some (causePage, 0x50000)
        ∧ (parked0.slot 0).sup = false ∧ (parked0.core (0 / 4)).tvec ≠ 0) := by decide +kernel

theorem test_trap_entry :
    next? (exec (.trapEntry 0) parked0) fun t => t.here.sup && t.here.tcause == 4 && t.here.tval == 0x50000
      && t.here.s 1 == 0x0003000100100000 := by decide +kernel

def noHandler : State := base.setCore 0 { base.core 0 with tvec := 0 }

theorem witness_TrapThatKills :
    ((sup0 []).slot 0).sup = true ∧ (noHandler.core (0 / 4)).tvec = 0 ∧ ((sup0 []).ctx ((sup0 []).ctxOf 0)).st = .running
    ∧ (noHandler.ctx (noHandler.ctxOf 0)).st = .running ∧ 0 / 256 ∈ (noHandler.ctx (noHandler.ctxOf 0)).set := by decide +kernel

theorem test_trap_that_kills :
    next? (exec (.trap 7) noHandler) fun t => (t.ctx 0).st == .killed && (t.ctx 0).kcode == 0x0C && (t.facet 0).ctx == none := by
  decide +kernel

def farPages : State :=
  let s := with0 [(1, 0x10001), (2, 0x0100000000000000), (4, 0x10008)]
  s

theorem witness_TrapsAtIssue :
    (base.handles ∧ 0x20 ≤ (0x20 : BitVec 16).toNat ∧ base.here.isPend (3 : Reg).toNat = false ∧ base.here.srcPend [3] = false)
    ∧ (farPages.handles ∧ farPages.here.srcPend [1, 3] = false ∧ farPages.here.ea 1 0 % 2 ≠ 0 ∧ farPages.here.ea 1 0 % 4 ≠ 0
        ∧ farPages.here.ea 1 0 % 8 ≠ 0 ∧ farPages.here.ea 1 0 % 32 ≠ 0)
    ∧ (farPages.here.srcPend [2, 3] = false ∧ farPages.here.ea 2 0 % 8 = 0 ∧ 2 ^ 56 ≤ farPages.here.ea 2 0 ∧ farPages.here.xf = none
        ∧ farPages.here.replay = []) := by
  unfold State.handles; decide +kernel

theorem test_traps_at_issue :
    traps (.trap 255) base 12 255 ∧ traps (.illegalWord 0xFFFFFFFF) base 1 0xFFFFFFFF ∧ traps .eret base 5 0x4C000002
    ∧ traps (.ctlr 3 0x20) base 5 0xF4600020 ∧ traps (.vst 0 4 0) farPages 6 0x10008 ∧ traps (.ldD 3 2 0) farPages 5 0x0100000000000000 := by
  decide +kernel

theorem witness_TrapsAtIssue_lists :
    (0x21 : BitVec 16).toNat ∈ [0x20, 0x21, 0x22, 0x23, 0x30, 0x31]
    ∧ (0x05 : BitVec 16).toNat ∉ [0x00, 0x01, 0x02, 0x03, 0x04, 0x10, 0x20, 0x21, 0x22, 0x23, 0x30, 0x31]
    ∧ farPages.here.fencedLoad farPages.myCore = false ∧ farPages.here.storeStalls farPages.myCore .plain = false := by decide +kernel

def heldMacro (s : State) : State := s.setMac 0 1 { Mac.reset with st := .stationary }
/-- A page whose walk has faulted, watchpoints on loads, stores and fetches, poisoned memory, and a stationary macro 1. -/
def faulted : State := at0 fun t => { regs [(1, 0x50020)] t with xf := some ⟨5, 0x04⟩ }
def watching (kinds : Dword) (va : Dword) : State := at0 fun t => { regs [(1, 0x10028)] t with waddr0 := va, wctl0 := 0xFF00 ||| kinds }
def spoiled : State := { with0 [(1, 0x10028)] with poison := [0x10000] }
def held : State := heldMacro (with0 [(1, 0x40020), (2, 5)])

theorem witness_TrapsAtIssue_accesses :
    let ready (s : State) : Prop := s.handles ∧ s.here.srcPend [1] = false ∧ s.here.isPend (3 : Reg).toNat = false
      ∧ s.here.fencedLoad s.myCore = false ∧ s.here.storeStalls s.myCore .plain = false ∧ s.here.replay = []
    (ready faulted ∧ faulted.here.ea 1 0 % 8 = 0 ∧ faulted.here.xf = some ⟨faulted.here.ea 1 0 / 65536, 0x04⟩)
    ∧ (ready (watching 1 0x10028) ∧ (watching 1 0x10028).look .load true 0x10028 = .ok ⟨0x10028, none⟩
        ∧ (watching 1 0x10028).here.watched 0 0x10028 8 = true)
    ∧ (ready (watching 2 0x10028) ∧ (watching 2 0x10028).xlate 0 0 .store true 0x10028 = .ok ⟨0x10028, none⟩
        ∧ (watching 2 0x10028).stationaryAt 0x10028 = false ∧ (watching 2 0x10028).here.watched 1 0x10028 8 = true)
    ∧ (ready spoiled ∧ spoiled.look .load true 0x10028 = .ok ⟨0x10028, none⟩ ∧ spoiled.here.watched 0 0x10028 8 = false
        ∧ spoiled.here.early = [] ∧ spoiled.here.loadHeld spoiled.myCore 0x10028 0x10028 8 = false
        ∧ spoiled.arrivalAhead spoiled.cur 0x10028 8 = false ∧ spoiled.asleep 0x10028 = false ∧ spoiled.latent = []
        ∧ spoiled.poisoned 0x10028 8 = true)
    ∧ (ready held ∧ held.xlate 0 0 .store true 0x40020 = .ok ⟨2 ^ 49 + 0x10020, none⟩ ∧ held.stationaryAt (2 ^ 49 + 0x10020) = true
        ∧ held.here.srcPend [1, 2, 3] = false ∧ held.here.fencedStore held.myCore = false
        ∧ held.look .amo false 0x40020 = .ok ⟨2 ^ 49 + 0x10020, none⟩ ∧ 0x40020 % 16 = 0)
    ∧ farPages.here.storeStalls farPages.myCore .release = false := by
  unfold State.handles; decide +kernel

/-- Each takes its trap with the address in TVAL (R282). -/
theorem test_access_traps :
    traps (.ldD 3 1 0) faulted 4 0x50020 ∧ traps (.ldBz 3 1 0) (watching 1 0x10028) 14 0x10028
    ∧ traps (.stD 3 1 0) (watching 2 0x10028) 14 0x10028 ∧ traps (.ldaD 3 1) spoiled 7 0x10028
    ∧ traps (.stlW 3 1) held 8 0x40020 ∧ traps (.amoXadd 3 1 2 .dev .rlx) held 8 0x40020 := by decide +kernel

/-- A counter that is no word's address, beyond the first 2^40 bytes, on a page whose walk has faulted, watched, or poisoned. -/
def fetching (pc : Dword) (g : Slot → Slot := id) : State := at0 fun t => g { t with pc := pc }

theorem witness_TrapsAtIssue_fetch :
    let ready (s : State) : Prop := { s with cur := 0 }.handles ∧ { s with cur := 0 }.takeDue 0 = none ∧ (s.slot 0).conv = false
    let look (s : State) (va : Nat) : Look := { s with cur := 0 }.look .fetch true va
    (ready (fetching 0x10002) ∧ ((fetching 0x10002).slot 0).pc.toNat % 4 ≠ 0)
    ∧ (ready (fetching (2 ^ 40)) ∧ 2 ^ 40 ≤ ((fetching (2 ^ 40)).slot 0).pc.toNat ∧ ((fetching (2 ^ 40)).slot 0).xf = none)
    ∧ ready (fetching 0x50000 fun t => { t with xf := some ⟨5, 0x04⟩ })
    ∧ (ready (watching 4 0x10000) ∧ look (watching 4 0x10000) 0x10000 = .ok ⟨0x10000, none⟩
        ∧ ((watching 4 0x10000).slot 0).watched 2 0x10000 4 = true)
    ∧ (ready spoiled ∧ look spoiled 0x10000 = .ok ⟨0x10000, none⟩ ∧ (spoiled.slot 0).watched 2 0x10000 4 = false
        ∧ spoiled.poisoned 0x10000 4 = true) := by
  unfold State.handles; decide +kernel

theorem test_fetch_traps :
    let took (s : State) (code pc : Nat) : Bool :=
      next? (s.attempt 0) fun t => t.here.sup && t.here.tcause == dw code && t.here.tval == dw pc && t.here.epc == dw pc
    took (fetching 0x10002) 6 0x10002 ∧ took (fetching (2 ^ 40)) 5 (2 ^ 40)
    ∧ took (fetching 0x50000 fun t => { t with xf := some ⟨5, 0x04⟩ }) 4 0x50000 ∧ took (watching 4 0x10000) 14 0x10000
    ∧ took spoiled 7 0x10000 := by decide +kernel

/-- A control register number that no register has is ILLEGAL, after the stall on a pending register (R288). -/
theorem test_unassigned_register :
    decodeWord 0xF4600005 = .ok (.ctlr 3 5) ∧ traps (.ctlr 3 5) base 1 0xF4600005 ∧ traps (.ctlr 5 5) pending 2 5
    ∧ exec (.ctlw 5 5) pending = .next pending := by
  refine ⟨by decide +kernel, by decide +kernel, by decide +kernel, rfl⟩

theorem witness_ReturnFromHandler :
    let s := sup0 []
    s.here.sup = true ∧ (∀ n ∈ s.here.pend, n ≤ 32) ∧ s.here.start = false ∧ s.here.replay = [] := by
  decide +kernel

/-- A handler of a task that has not started, with a header; the handler table is at 0x10200, or elsewhere. -/
def unstarted (hdr : Dword) (htab : Dword := 0x10200) (s : State := stored (stored (sup0 []) 0x10208 [0x42]) 0x10210 [0x44]) : State :=
  (s.setCore 0 { s.core 0 with htab := htab }).setHere { s.here with start := true, hdr := hdr }

theorem witness_ReturnFromHandler_start :
    let ok (s : State) : Prop := s.here.sup = true ∧ s.here.pend = [] ∧ s.here.start = true ∧ s.here.replay = []
      ∧ s.here.fencedLoad s.myCore = false ∧ s.here.walkHeld s.myCore = false ∧ (s.core s.myCore).tvec ≠ 0 ∧ s.latent = []
    (ok (unstarted 0x0000400000200000) ∧ hdrCont 0x0000400000200000 = true)
    ∧ (ok (unstarted 2) ∧ hdrCont 2 = false ∧ (unstarted 2).xlateAgain 0 0 .load true 0x10210 = .ok ⟨0x10210, none⟩
        ∧ (unstarted 2).poisoned 0x10210 8 = false ∧ (unstarted 2).rdNat ⟨0x10210, none⟩ 8 = 0x44
        ∧ { unstarted 2 with poison := [0x10200] }.poisoned 0x10210 8 = true
        ∧ (unstarted 1).rdNat ⟨0x10208, none⟩ 8 = 0x42 ∧ (unstarted 3).rdNat ⟨0x10218, none⟩ 8 = 0)
    ∧ (ok (unstarted 0 0x50000) ∧ (unstarted 0 0x50000).xlateAgain 0 0 .load true 0x50000 = .page)
    ∧ (ok (unstarted 0 (2 ^ 56)) ∧ (unstarted 0 (2 ^ 56)).xlateAgain 0 0 .load true (2 ^ 56) = .prot)
    ∧ ok (unstarted 0 0x10204) := by decide +kernel

/-- ERET of a task that has not started starts it (R253): at the entry of its handler, or with the fault of that read, the handler
entered again with EPC 0. -/
theorem test_eret_starts :
    let again (s : State) (code tval : Dword) : Bool := next? (exec .eret s) fun t =>
      t.here.sup && t.here.epc == 0 && t.here.tcause == code && t.here.tval == tval && t.here.start
    (next? (exec .eret (unstarted 2)) fun t => !t.here.sup && t.here.pc == 0x44 && t.here.start)
    ∧ (next? (exec .eret (unstarted 0x0000400000200000)) fun t => !t.here.sup && t.here.pc == 0x10000)
    ∧ again (unstarted 0 0x50000) 4 0x50000 ∧ again (unstarted 1) 6 0x42 ∧ again (unstarted 3) 5 3 ∧ again (unstarted 0 0x10204) 6 0x10204
    ∧ again { unstarted 2 with poison := [0x10200] } 7 0x10210 := by decide +kernel

/-- A handler whose task has one parked store to a page. -/
def replaying (page : Nat) : State :=
  (sup0 []).setHere { (sup0 []).here with
    replay := [⟨3, 0x10000 * page + 0x20, [1], .plain, causePage⟩], dueStore := true
    sbuf := [.store 1 0x10040 (some ⟨0x10040, none⟩) [5] .plain false, .store 5 0x10048 (some ⟨0x10048, none⟩) [6] .plain false] }

theorem witness_ReturnFromHandler_replay :
    let ok (s : State) (r : Parked) : Prop := s.here.sup = true ∧ s.here.pend = [] ∧ s.here.start = false ∧ s.here.replay = [r] ∧ s.latent = []
    (ok (replaying 2) ⟨3, 0x20020, [1], .plain, causePage⟩
      ∧ (replaying 2).xlateAgain 0 0 .store true 0x20020 = .ok ⟨2 ^ 48 + 0x20, none⟩ ∧ (replaying 2).stationaryAt (2 ^ 48 + 0x20) = false)
    ∧ (ok (heldMacro (replaying 4)) ⟨3, 0x40020, [1], .plain, causePage⟩
        ∧ (heldMacro (replaying 4)).xlateAgain 0 0 .store true 0x40020 = .ok ⟨2 ^ 49 + 0x10020, none⟩
        ∧ (heldMacro (replaying 4)).stationaryAt (2 ^ 49 + 0x10020) = true)
    ∧ (ok (replaying 5) ⟨3, 0x50020, [1], .plain, causePage⟩ ∧ (replaying 5).xlateAgain 0 0 .store true 0x50020 = .page)
    ∧ ok (replaying 0x10000000000) ⟨3, 0x100000000000020, [1], .plain, causePage⟩
    ∧ (replaying 0x10000000000).xlateAgain 0 0 .store true 0x100000000000020 = .prot := by decide +kernel

theorem test_replay :
    (next? (exec .eret (replaying 2)) fun t => t.here.replay == [] && t.here.sbuf.map (·.seq) == [1, 3, 5] && !t.here.dueStore)
    ∧ (next? (exec .eret (replaying 5)) fun t => t.here.replay.length == 1 && t.here.dueStore && t.here.pc == 0x10040)
    ∧ (next? (exec .eret (unstarted 2 0x10200 (replaying 5))) fun t => t.here.replay.length == 1 && t.here.pc == 0x10040 && t.here.start) := by
  decide +kernel

def banked : State := at0 fun t => { t with sup := true, epc := 0x10040, bank := t.bank.setIfInBounds 2 9, regs := t.regs.setIfInBounds 3 4 }

theorem test_eret : banked.here.s 3 = 9 ∧ next? (exec .eret banked) fun t => !t.here.sup && t.here.pc == 0x10040 && t.here.s 3 == 4 := by
  decide +kernel

def keyed : State := at0 fun t => { t with keys := [3, 5] }
def joined : State := at0 fun t => { t with hdr := 0x100000, joinRef := 0x20040 }

theorem witness_EndOfTask :
    (base.here.sup = false ∧ base.here.pend = [] ∧ base.here.sbuf.any (·.untranslated) = false ∧ base.here.replay = []
      ∧ hdrJoin base.here.hdr.toNat = false ∧ base.here.keys = [])
    ∧ (hdrJoin keyed.here.hdr.toNat = false ∧ keyed.here.keys ≠ [] ∧ keyed.released .sys)
    ∧ (hdrJoin joined.here.hdr.toNat = true
        ∧ joined.joinCheck joined.myFacet joined.myCtx joined.here.joinRef = .ok ⟨2 ^ 48 + 0x40, none⟩
        ∧ joined.latent = [] ∧ joined.here.walkHeld joined.myCore = false
        ∧ joined.here.endHeld joined.myCore = false ∧ joined.writeHeld joined.cur 0 (2 ^ 48 + 0x40) 8 = false) := by
  unfold State.released; decide +kernel

theorem test_end_of_task :
    (next? (exec .endTask joined) fun t => !t.here.busy && t.arrivals == [⟨0, 2 ^ 48 + 0x40, 0⟩])
    ∧ next? (exec .endTask keyed) fun t => t.keyRels == [⟨0, 3⟩, ⟨0, 5⟩] := by decide +kernel

/-! ## Loads, stores and memory -/

/-- s1 to s7 address a byte, a half, a word, a doubleword and 32 bytes of the HBM page, local memory, and the scratchpad. -/
def places : State :=
  stored (with0 [(1, 0x10021), (2, 0x10022), (3, 0x10024), (4, 0x10028), (5, 0x10040), (6, 0x20010), (7, 0x30100), (9, 2), (10, 5), (11, -3)])
    0x10020 [0x80, 0x81, 0x82, 0xF3, 0x84, 0x85, 0x86, 0x87, 0xFF, 0xFF, 0xFF, 0xFF, 0xFF, 0xFF, 0xFF, 0x7F]

theorem witness_MemoryLaws :
    (⟨0x10000, none⟩ : Place).enc = none ∧ (0x10038 % 64 + 8 ≤ 64) ∧ State.reset.Inv
    ∧ (Memory.wf [(3, 1)] = true ∧ Memory.wf [] = true ∧ memGet [(3, 1)] 3 ≠ memGet [] 3) := by
  unfold State.Inv; decide +kernel

theorem test_write_zero_unlists : (places.wr ⟨0x10020, none⟩ (toBytes 0 16)).mem = [] ∧ places.Inv := by
  unfold State.Inv; decide +kernel

theorem witness_Loads :
    (places.ready [1] 9 ∧ places.ready [4] 4)
    ∧ (places.here.ea 1 0 % 1 = 0 ∧ places.look .load true (places.here.ea 1 0) = .ok ⟨0x10021, none⟩
        ∧ places.here.watched 0 (places.here.ea 1 0) 1 = false ∧ places.readable (places.here.ea 1 0) ⟨0x10021, none⟩ 1)
    ∧ (places.here.ea 2 0 % 2 = 0 ∧ places.look .load true (places.here.ea 2 0) = .ok ⟨0x10022, none⟩
        ∧ places.here.watched 0 (places.here.ea 2 0) 2 = false ∧ places.readable (places.here.ea 2 0) ⟨0x10022, none⟩ 2)
    ∧ (places.here.ea 3 0xFFFC % 4 = 0 ∧ places.look .load true (places.here.ea 3 0xFFFC) = .ok ⟨0x10020, none⟩
        ∧ places.here.watched 0 (places.here.ea 3 0xFFFC) 4 = false ∧ places.readable (places.here.ea 3 0xFFFC) ⟨0x10020, none⟩ 4)
    ∧ ((places.here.s 4).toNat % 8 = 0 ∧ places.look .load true (places.here.s 4).toNat = .ok ⟨0x10028, none⟩
        ∧ places.here.watched 0 (places.here.s 4).toNat 8 = false ∧ places.readable (places.here.s 4).toNat ⟨0x10028, none⟩ 8)
    ∧ (places.here.ea 5 0xFFE0 % 32 = 0 ∧ places.look .load true (places.here.ea 5 0xFFE0) = .ok ⟨0x10020, none⟩
        ∧ places.here.watched 0 (places.here.ea 5 0xFFE0) 32 = false ∧ places.readable (places.here.ea 5 0xFFE0) ⟨0x10020, none⟩ 32) := by
  unfold State.ready State.readable State.sound; decide +kernel

/-- Slot 0 has read the doubleword at 0x10028 ahead of its load. -/
def readAhead : State :=
  at0 fun t => { regs [(4, 0x10028)] t with early := [⟨0x10028, ⟨0x10028, none⟩, [9, 0, 0, 0, 0, 0, 0, 0], [], false, 0, []⟩] }

theorem witness_Loads_ahead :
    readAhead.ready [4] 9 ∧ readAhead.here.ea 4 0 % 8 = 0 ∧ readAhead.look .load true (readAhead.here.ea 4 0) = .ok ⟨0x10028, none⟩
    ∧ readAhead.here.watched 0 (readAhead.here.ea 4 0) 8 = false ∧ readAhead.here.fencedLoad readAhead.myCore = false
    ∧ readAhead.here.early.map (fun e => (e.place, e.data.length)) = [(⟨0x10028, none⟩, 8)] := by
  unfold State.ready; decide +kernel

theorem test_loads :
    gives (.ldB 9 1 0) places 9 0xFFFFFFFFFFFFFF81 ∧ gives (.ldBz 9 1 0) places 9 0x81 ∧ gives (.ldH 9 2 0) places 9 0xFFFFFFFFFFFFF382
    ∧ gives (.ldW 9 3 0xFFFC) places 9 0xFFFFFFFFF3828180 ∧ gives (.ldWz 9 3 0) places 9 0x87868584
    ∧ gives (.ldD 4 4 0) places 4 0x7FFFFFFFFFFFFFFF ∧ gives (.ldaD 4 4) places 4 0x7FFFFFFFFFFFFFFF
    ∧ next? (exec (.vld 1 5 0xFFE0) places) fun t => t.here.vreg 1 == 0x7FFFFFFFFFFFFFFF87868584F3828180 := by decide +kernel

theorem witness_Stores :
    (places.here.srcPend [1, 11] = false ∧ places.here.replay = [])
    ∧ (places.here.ea 1 0 % 1 = 0 ∧ places.xlate places.myFacet places.myCtx .store true (places.here.ea 1 0) = .ok ⟨0x10021, none⟩
        ∧ places.stationaryAt 0x10021 = false ∧ places.here.watched 1 (places.here.ea 1 0) 1 = false)
    ∧ ((places.here.s 6).toNat % 8 = 0
        ∧ places.xlate places.myFacet places.myCtx .store true (places.here.s 6).toNat = .ok ⟨2 ^ 48 + 0x10, none⟩
        ∧ places.stationaryAt (2 ^ 48 + 0x10) = false ∧ places.here.watched 1 (places.here.s 6).toNat 8 = false)
    ∧ ((places.here.s 3).toNat % 4 = 0 ∧ (places.here.s 2).toNat % 2 = 0)
    ∧ (places.here.ea 7 0 % 32 = 0
        ∧ places.xlate places.myFacet places.myCtx .store true (places.here.ea 7 0) = .ok ⟨2 ^ 49 + 0x100, none⟩
        ∧ places.stationaryAt (2 ^ 49 + 0x100) = false ∧ places.here.watched 1 (places.here.ea 7 0) 32 = false) := by
  decide +kernel

/-- A store may leave, plain or as a release; one that awaits translation holds back a release. -/
theorem witness_Stores_stalls :
    places.here.storeStalls places.myCore .plain = false ∧ places.here.storeStalls places.myCore .release = false
    ∧ (at0 fun t => { t with sbuf := [.store 0 0x50000 none [1] .plain false] }).here.sbuf.any (·.untranslated) = true := by
  decide +kernel

theorem test_store_leaves_memory :
    next? (exec (.stH 11 2 2) places) fun t => t.mem == places.mem
      && t.here.sbuf == [.store 0 0x10024 (some ⟨0x10024, none⟩) [0xFD, 0xFF] .plain false] := by decide +kernel

/-- Page 5 is mapped and not cached; s1 and s2 lie in it. -/
def missing : State :=
  let s := mapped
  s.setHere (regs [(1, 0x50020), (2, 0x50028), (3, 7)] s.here)
def crowded : State :=
  missing.setHere { missing.here with sbuf := (List.range 16).map fun k => .store k (0x50100 + 8 * k) none [1] .plain false }
def behindParked : State :=
  missing.setHere { missing.here with replay := [⟨0, 0x50100, [1], .plain, causePage⟩], dueStore := true }
def faulting : State :=
  { missing.setHere { missing.here with sbuf := [.store 0 0x50020 none [7] .plain false] } with
    walkers := [(0, ⟨[⟨0, 5, [0], .fault, false⟩], []⟩)] }

theorem witness_Stores_misses :
    (missing.here.srcPend [1, 3] = false ∧ missing.here.storeStalls missing.myCore .plain = false ∧ missing.here.ea 1 0 % 8 = 0
      ∧ missing.here.replay = [] ∧ missing.xlate 0 0 .store true 0x50020 = .miss ∧ missing.here.awaiting < 16
      ∧ missing.here.watched 1 0x50020 8 = false ∧ missing.here.fencedStore missing.myCore = false
      ∧ missing.here.walkHeld missing.myCore = false ∧ (missing.facet 0).miss.length < 16)
    ∧ (crowded.here.storeStalls crowded.myCore .plain = false ∧ crowded.xlate 0 0 .store true 0x50020 = .miss ∧ 16 ≤ crowded.here.awaiting
        ∧ crowded.here.storeStalls crowded.myCore .release = true)
    ∧ (behindParked.here.storeStalls behindParked.myCore .plain = false ∧ behindParked.here.replay.map (·.va / 65536) = [5]
        ∧ behindParked.here.ea 1 0 / 65536 = 5 ∧ behindParked.here.watched 1 0x50020 8 = false)
    ∧ ((faulting.walker 0).running[0]? = some ⟨0, 5, [0], .fault, false⟩ ∧ (faulting.facet (0 / 256)).ctx = some 0 ∧ 0x50020 / 65536 = 5
        ∧ (faulting.slot 0).sbuf = [.store 0 0x50020 none [7] .plain false] ∧ (faulting.slot 0).replay = []) := by decide +kernel

theorem test_store_misses :
    (next? (exec (.stD 3 1 0) missing) fun t => t.here.sbuf.any (·.untranslated) && (t.facet 0).miss.contains ⟨0, 5⟩ && t.here.pc == 0x10004)
    ∧ exec (.stD 3 1 0) crowded = .next crowded
    ∧ (next? (exec (.stD 3 1 0) behindParked) fun t => t.here.replay.map (·.va) == [0x50100, 0x50020] && t.here.sbuf == [])
    ∧ (next? (exec (.walkResult 0 0) faulting) fun t => t.here.replay.map (·.cause) == [causePage] && t.here.dueStore) := by
  refine ⟨by decide +kernel, by rfl, by decide +kernel, by decide +kernel⟩

def first : SEntry := .store 1 0x10020 (some ⟨0x10020, none⟩) [1, 2] .plain false
def second (k : StoreKind) : SEntry := .store 3 0x10021 (some ⟨0x10021, none⟩) [7] k false
def apartStore : SEntry := .store 3 0x10028 (some ⟨0x10028, none⟩) [7] .plain false
def twoStores (k : StoreKind) : State := at0 fun t => { t with sbuf := [first, second k] }
def fenced (k : BitVec 4) (x : Scope) : State := at0 fun t => { regs [(4, 0x10028)] t with sbuf := [first, .fence 2 k x] }
def fencedStores : State := at0 fun t => { t with sbuf := [first, .fence 2 8 .dev, apartStore] }
def overlapped : State :=
  at0 fun t => { regs [(4, 0x10028)] t with sbuf := [.store 1 0x1002F (some ⟨0x1002F, none⟩) [1] .plain false] }

theorem witness_OrderWithinOneSlot :
    (overlapped.ready [4] 9 ∧ overlapped.here.ea 4 0 % 8 = 0
      ∧ overlapped.look .load true (overlapped.here.ea 4 0) = .ok ⟨0x10028, none⟩
      ∧ overlapped.here.watched 0 (overlapped.here.ea 4 0) 8 = false ∧ overlapped.here.early = []
      ∧ ∃ e ∈ overlapped.here.sbuf, e.overlaps (overlapped.here.ea 4 0) 0x10028 8 = true)
    ∧ ((fenced 4 .dev).ready [4] 9 ∧ (fenced 4 .dev).here.ea 4 0 % 8 = 0 ∧ (4 : BitVec 4).getLsbD 2 = true
        ∧ (fenced 4 .dev).here.sbuf = [first] ++ .fence 2 4 .dev :: []
        ∧ ∃ e ∈ [first], e.within .dev (fenced 4 .dev).myCore = true)
    ∧ (((twoStores .plain).slot 0).sbuf[1]? = some (second .plain)
        ∧ ∃ e ∈ ((twoStores .plain).slot 0).sbuf.take 1, e.overlaps 0x10021 0x10021 [7].length = true)
    ∧ (((twoStores .release).slot 0).sbuf[1]? = some (second .release)
        ∧ ((twoStores .release).slot 0).sbuf.take 1 = [] ++ first :: [] ∧ first.isStore = true ∧ ∀ y ∈ [first], y.seq < 3)
    ∧ ((fencedStores.slot 0).sbuf[2]? = some apartStore ∧ (fencedStores.slot 0).sbuf.take 2 = [first] ++ .fence 2 8 .dev :: []
        ∧ (8 : BitVec 4).getLsbD 3 = true ∧ (∃ e ∈ [first], e.within .dev (0 / 4) = true) ∧ 2 < 3
        ∧ ∀ y ∈ [first], y.seq < 3) := by
  unfold State.ready; decide +kernel

/-- A store to the bytes of lane 2 of a lane load, a gather and an atomic, or before a fence of kind sl or ss. -/
def lanesBehind (l : List SEntry) : State :=
  at0 fun t => { regs [(3, 0x10040), (8, 4), (9, 2)] t with sbuf := l, v := t.v.set 2 0x00000002_00000001_00000000 }
def onLane2 : SEntry := .store 1 0x10048 (some ⟨0x10048, none⟩) [1, 2] .plain false
def fencedLanes (k : BitVec 4) : State := lanesBehind [first, .fence 2 k .dev]

theorem witness_OrderWithinOneSlot_lanes_and_atomics :
    let s := lanesBehind [onLane2]
    (s.here.srcPend [3, 8] = false ∧ (∀ j, j < 8 → (0x10040 + 4 * j) % 4 = 0 ∧ s.look .load true (0x10040 + 4 * j) = .ok ⟨0x10040 + 4 * j, none⟩
        ∧ s.here.watched 0 (0x10040 + 4 * j) 4 = false) ∧ onLane2.overlaps 0x10048 0x10048 4 = true ∧ 2 < 8 ∧ onLane2 ∈ s.here.sbuf)
    ∧ (∀ j, j < 16 → s.look .load true ((0x10040 + j * 4) % 2 ^ 64) = .ok ⟨0x10040 + 4 * j, none⟩)
    ∧ (Fmt.i32 ≠ .i8 ∧ Fmt.i32.lanes = 8 ∧ (∀ j, j < 3 → active (s.here.preg 0) j 32 = true ∧ lane (s.here.vreg 2) j 32 = j))
    ∧ (s.here.srcPend [3, 9] = false ∧ s.here.isPend (7 : Reg).toNat = false ∧ s.look .amo false 0x10040 = .ok ⟨0x10040, none⟩
        ∧ s.stationaryAt 0x10040 = false ∧ s.here.watchedAmo 0x10040 16 = false ∧ onLane2.overlaps 0x10040 0x10040 16 = true)
    ∧ (SEntry.store 1 0x60044 none [1] .plain false).mayOverlap 0x10044 4 = true
    ∧ ((fencedLanes 4).here.sbuf = [] ++ [first] ++ .fence 2 4 .dev :: [] ∧ (4 : BitVec 4).getLsbD 2 = true ∧ (8 : BitVec 4).getLsbD 3 = true
        ∧ first.within .dev (fencedLanes 4).myCore = true) := by decide +kernel

theorem test_lane_order :
    let waits (i : Instr) (s : State) : Bool := next? (exec i s) fun t => t == s
    waits (.vldsW 2 3 8) (lanesBehind [onLane2]) ∧ waits (.vgth 4 3 2 0 .i32) (lanesBehind [onLane2])
    ∧ waits (.amoXadd 7 3 9 .dev .rlx) (lanesBehind [onLane2]) ∧ waits (.vldsH 2 3 8) (fencedLanes 4)
    ∧ waits (.amoAdd 7 3 9 .dev .rlx .w) (fencedLanes 8) := by decide +kernel

theorem test_store_order :
    exec (.perform 0 1) (twoStores .plain) = .next (twoStores .plain)
    ∧ exec (.perform 0 1) (twoStores .release) = .next (twoStores .release)
    ∧ exec (.perform 0 2) fencedStores = .next fencedStores ∧ exec (.ldD 9 4 0) overlapped = .next overlapped := by
  refine ⟨rfl, rfl, rfl, rfl⟩

theorem witness_StorePerforms :
    ((twoStores .plain).slot 0).sbuf[0]? = some first
    ∧ (twoStores .plain).performHeld 0 0 1 0x10020 0x10020 [1, 2].length .plain false = false
    ∧ (twoStores .plain).stationaryAt 0x10020 = false ∧ (twoStores .plain).asleep 0x10020 = false
    ∧ (twoStores .plain).cutOff 0x10020 = false ∧ 0x10020 % 64 + [1, 2].length ≤ 64 := by decide +kernel

theorem test_perform :
    next? (exec (.perform 0 0) (twoStores .plain)) fun t => t.mem == [(0x10020, 1), (0x10021, 2)] && t.here.sbuf == [second .plain] := by decide +kernel

theorem witness_Atomics :
    (places.ready [3, 10] 9 ∧ (places.here.s 3).toNat % 4 = 0 ∧ places.look .amo false (places.here.s 3).toNat = .ok ⟨0x10024, none⟩
      ∧ places.stationaryAt 0x10024 = false ∧ places.here.watchedAmo (places.here.s 3).toNat 4 = false ∧ places.released .dev
      ∧ places.here.amoHeld places.myCore (places.here.s 3).toNat 0x10024 4 = false ∧ places.cutOff 0x10024 = false
      ∧ places.readable (places.here.s 3).toNat ⟨0x10024, none⟩ 4)
    ∧ (places.ready [5, 10] 9 ∧ (places.here.s 5).toNat % 16 = 0 ∧ places.look .amo false (places.here.s 5).toNat = .ok ⟨0x10040, none⟩
        ∧ places.stationaryAt 0x10040 = false ∧ places.here.watchedAmo (places.here.s 5).toNat 16 = false
        ∧ places.here.amoHeld places.myCore (places.here.s 5).toNat 0x10040 16 = false ∧ places.cutOff 0x10040 = false
        ∧ places.readable (places.here.s 5).toNat ⟨0x10040, none⟩ 16) := by
  unfold State.ready State.readable State.sound State.released; decide +kernel

theorem test_atomics :
    (next? (exec (.amoAdd 9 3 10 .dev .rel .w) places) fun t => t.here.s 9 == 0xFFFFFFFF87868584 && t.rdNat ⟨0x10024, none⟩ 8 == 0xFFFFFFFF87868589)
    ∧ (next? (exec (.amoMin 9 3 10 .core .rlx .w) places) fun t => t.rdNat ⟨0x10024, none⟩ 4 == 0x87868584)
    ∧ (next? (exec (.amoMinZ 9 3 10 .core .rlx .w) places) fun t => t.rdNat ⟨0x10024, none⟩ 4 == 5)
    ∧ (next? (exec (.amoXadd 9 5 11 .sys .ar) places) fun t => t.here.s 9 == 0 && t.rdNat ⟨0x10040, none⟩ 16 == 2 ^ 128 - 3) := by
  decide +kernel

/-- The old value 7, exchanged for 9 where 7 is expected. -/
theorem test_cas :
    next? (exec (.amoCas 9 5 10 .core .rlx .d) ((stored (with0 [(5, 0x10040), (9, 7), (10, 9)]) 0x10040 [7]))) fun t =>
      t.here.s 9 == 7 && t.rdNat ⟨0x10040, none⟩ 8 == 9 := by decide +kernel

/-! ## Loads and stores by lanes, the tag table -/

def halves : State := stored (with0 [(3, 0x10040), (7, 0xFFFFFFFFFFFFFFFE), (8, 4)]) 0x10040 [1, 2, 3, 4]
def scattered : State :=
  at0 fun t => { regs [(5, 0x10080)] t with v := (t.v.set 2 0x00000005_00000004_00000003_00000002_00000001).set 3 0x1_00000000_00000000_00000001 }

theorem witness_LaneLoads :
    (halves.here.srcPend [3, 7] = false
      ∧ ∀ i, i < 16 → (0x10040 + i * 0xFFFFFFFFFFFFFFFE) % 2 ^ 64 = ((halves.here.s 3).toNat + i * (halves.here.s 7).toNat) % 2 ^ 64
        ∧ halves.look .load true ((0x10040 + i * 0xFFFFFFFFFFFFFFFE) % 2 ^ 64) = .ok ⟨0x10040 - 2 * i, none⟩
        ∧ (0x10040 + i * 0xFFFFFFFFFFFFFFFE) % 2 ^ 64 % 2 = 0
        ∧ halves.here.watched 0 ((0x10040 + i * 0xFFFFFFFFFFFFFFFE) % 2 ^ 64) 2 = false
        ∧ halves.here.loadHeld halves.myCore (0x10040 - 2 * i) (0x10040 - 2 * i) 2 = false
        ∧ halves.arrivalAhead halves.cur (0x10040 - 2 * i) 2 = false ∧ halves.asleep (0x10040 - 2 * i) = false
        ∧ halves.poisoned (0x10040 - 2 * i) 2 = false ∧ halves.cutOff (0x10040 - 2 * i) = false)
    ∧ halves.latent = []
    ∧ (halves.here.srcPend [3, 8] = false ∧ ∀ i, i < 8 → halves.look .load true (0x10040 + i * 4) = .ok ⟨0x10040 + i * 4, none⟩)
    ∧ (scattered.here.srcPend [5] = false ∧ Fmt.i32 ≠ .i8
        ∧ ∀ i, i < 8 → scattered.look .load false (0x10080 + 4 * lane (scattered.here.vreg 3) i 32)
            = .ok ⟨0x10080 + 4 * lane (scattered.here.vreg 3) i 32, none⟩) := by decide +kernel

theorem test_lane_loads :
    (next? (exec (.vldsH 2 3 7) halves) fun t => lane (t.here.vreg 2) 0 16 == 0x0201 && lane (t.here.vreg 2) 1 16 == 0)
    ∧ (next? (exec (.vldsW 2 3 8) halves) fun t => lane (t.here.vreg 2) 0 32 == 0x04030201 && lane (t.here.vreg 2) 1 32 == 0) := by decide +kernel

theorem witness_Scatter :
    scattered.here.srcPend [5] = false ∧ Fmt.i32 ≠ .i8
    ∧ ∀ i, i < 8 → (let va := 0x10080 + 4 * lane (scattered.here.vreg 3) i 32
        va % 4 = 0 ∧ scattered.look .store false va = .ok ⟨va, none⟩ ∧ scattered.here.watched 1 va 4 = false
        ∧ scattered.writeHeld scattered.cur va va 4 = false ∧ scattered.stationaryAt va = false ∧ scattered.asleep va = false
        ∧ scattered.cutOff va = false) := by decide +kernel

/-- The committed lanes 0 and 3 of the scatter. -/
def committed : State :=
  scattered.setHere { scattered.here with sbuf := [.store 0 0x10084 (some ⟨0x10084, none⟩) [1, 0, 0, 0] .lane false,
    .store 0 0x10084 (some ⟨0x10084, none⟩) [4, 0, 0, 0] .lane false] }

theorem witness_Scatter_lanes :
    scattered.here.fencedStore scattered.myCore = false
    ∧ (committed.slot 0).sbuf[0]? = some (.store scattered.tick 0x10084 (some ⟨0x10084, none⟩)
        (toBytes (lane (scattered.here.vreg 2) 0 32) 4) .lane scattered.here.sup)
    ∧ (committed.slot 0).sbuf[1]? = some (.store scattered.tick 0x10084 (some ⟨0x10084, none⟩)
        (toBytes (lane (scattered.here.vreg 2) 3 32) 4) .lane scattered.here.sup)
    ∧ (∃ e ∈ (committed.slot 0).sbuf[0]?, e.overlaps 0x10084 0x10084 4 = true)
    ∧ (committed.slot 0).replay = [] ∧ committed.arrivalAhead 0 0x10084 4 = false ∧ committed.asleep 0x10084 = false
    ∧ committed.cutOff 0x10084 = false := by decide +kernel

/-- Lanes 0 and 1 of the scatter, on other bytes of one owner. -/
def lanes01 : State :=
  scattered.setHere { scattered.here with sbuf := [.store 0 0x10084 (some ⟨0x10084, none⟩) [1, 0, 0, 0] .lane false,
    .store 0 0x10080 (some ⟨0x10080, none⟩) [2, 0, 0, 0] .lane false] }

theorem witness_Scatter_owner :
    (lanes01.slot 0).sbuf[1]? = some (.store scattered.tick 0x10080 (some ⟨0x10080, none⟩)
        (toBytes (lane (scattered.here.vreg 2) 1 32) 4) .lane scattered.here.sup)
    ∧ (lanes01.slot 0).sbuf[0]? = some (.store scattered.tick 0x10084 (some ⟨0x10084, none⟩)
        (toBytes (lane (scattered.here.vreg 2) 0 32) 4) .lane scattered.here.sup)
    ∧ sameOwner 0x10084 0x10080 = true ∧ (∃ e ∈ (committed.slot 0).sbuf[0]?, e.mayOverlap 0x10084 4 = true) := by decide +kernel

/-- Lanes 0 and 3 write index 1, the other lanes index 0: the lanes of one owner perform in ascending order, also on other
bytes (R170). -/
theorem test_scatter :
    next? (exec (.vsct 2 5 3 0 .i32) scattered) fun t => t.here.sbuf.length == 8 && t.mem == scattered.mem
      && (next? (exec (.perform 0 3) t) fun r => r == t)
      && (next? (exec (.perform 0 1) t) fun r => r == t)
      && (next? (exec (.perform 0 0) t) fun r => r.rdNat ⟨0x10084, none⟩ 4 == 1 && r.here.sbuf.length == 7
        && (next? (exec (.perform 0 0) r) fun q => q.rdNat ⟨0x10080, none⟩ 4 == 2)) := by
  decide +kernel

def tagged : State :=
  let s := with0 [(1, 0x10047), (2, 255), (3, 3), (4, 0x0100000000000000)]
  s.setFacet 0 { s.facet 0 with tags := [(7, tagEntry 0 0x10), (255, 0)] }

theorem witness_TagTable :
    (tagged.here.srcPend [1, 2] = false ∧ tagged.here.replay = [] ∧ (tagged.here.s 1).toNat < 2 ^ 56 ∧ (tagged.here.s 2).toNat ≤ 255
      ∧ tagged.tagForeign 255 = false ∧ (tagged.mac tagged.myFacet (255 / 16)).st = .data ∧ tagged.released .facet ∧ tagged.myCtx < 512)
    ∧ ((tagged.here.s 3).toNat ≤ 255 ∧ tagged.tagForeign 3 = false)
    ∧ (tagged.ready [1] 9 ∧ tagBinds tagged.myCtx (lineOf (tagged.here.s 1).toNat) ((tagged.facet tagged.myFacet).tag 7) = true
        ∧ ∀ j, j < 7 → tagBinds tagged.myCtx (lineOf (tagged.here.s 1).toNat) ((tagged.facet tagged.myFacet).tag j) = false)
    ∧ 2 ^ 56 ≤ (tagged.here.s 4).toNat := by
  unfold State.ready State.released; decide +kernel

theorem test_tags :
    gives (.tagl 9 1) tagged 9 7 ∧ gives (.tagl 9 4) tagged 9 (-1)
    ∧ next? (exec (.tags 1 2) tagged) fun t =>
        tagBinds 0 0x10 ((t.facet 0).tag 255) && !tagBinds 0 0x10 ((t.facet 0).tag 7) := by decide +kernel

def retained (r : Retention) (w : Bool) : State :=
  let s := with0 [(9, 0x40010)]
  s.setMac 0 1 { Mac.reset with ret := r, wake := w }

theorem witness_RetentionOfMacros :
    ((retained .retained false).here.srcPend [9] = false
      ∧ (retained .retained false).look .load true ((retained .retained false).here.s 9).toNat = .ok ⟨2 ^ 49 + 0x10010, none⟩
      ∧ spaceOf (2 ^ 49 + 0x10010) = 2 ∧ (retained .retained false).stationaryAt (2 ^ 49 + 0x10010) = false
      ∧ ((retained .retained false).mac (spadFacet (2 ^ 49 + 0x10010)) (macroOf (2 ^ 49 + 0x10010))).ret = .retained
      ∧ ((retained .awake false).mac (spadFacet (2 ^ 49 + 0x10010)) (macroOf (2 ^ 49 + 0x10010))).ret = .awake)
    ∧ (((retained .awake false).facet 0).idle ≠ 0 ∧ ((retained .awake false).mac 0 1).st = .data)
    ∧ (((retained .entering false).mac 0 1).ret = .entering ∧ ((retained .entering true).mac 0 1).wake = true)
    ∧ (((retained .exiting false).mac 0 1).ret = .exiting ∧ (retained .exiting false).latent = [])
    ∧ (Tbl.get 0 { base with latent := [(64 * 3, 1)] }.latent (64 * 3) = 1 ∧ 2 ≤ Tbl.get 0 { base with latent := [(64 * 3, 2)] }.latent (64 * 3)) := by
  decide +kernel

theorem test_retention :
    (next? (exec (.retx 9) (retained .retained false)) fun t => (t.mac 0 1).ret == .exiting)
    ∧ (next? (exec (.enteringEnd 0 1) (retained .entering true)) fun t => (t.mac 0 1).ret == .exiting)
    ∧ next? (exec (.patrolScrub 3) { base with latent := [(192, 2)] }) fun t => t.poison == [192] && t.latent == [] := by decide +kernel

/-! ## Vector instructions -/

/-- A vector of 16-bit lanes, lane 0 first. -/
def v16 (l : List Nat) : Vec := ofLanes 16 16 fun k => l.getD k 0
/-- A vector of 32-bit lanes, lane 0 first. -/
def v32 (l : List Nat) : Vec := ofLanes 32 8 fun k => l.getD k 0

/-- The rows of the shot-layer example in v1 and its factors in v2 (E74, E75). -/
def rows : Vec :=
  v16 [0x3800, 0x3C00, 0x3E00, 0x4000, 0xB800, 0xBC00, 0x3400, 0x4200, 0xC000, 0x3A00, 0x0000, 0x3D00, 0x4100, 0xB400, 0x4500, 0xC200]
def factors : Vec := v16 (List.replicate 8 0x3800 ++ List.replicate 8 0x3400)
def scaled : Vec :=
  v16 [0x3400, 0x3800, 0x3A00, 0x3C00, 0xB400, 0xB800, 0x3000, 0x3E00, 0xB800, 0x3200, 0x0000, 0x3500, 0x3900, 0xAC00, 0x3D00, 0xBA00]
def relu : Vec :=
  v16 [0x3800, 0x3C00, 0x3E00, 0x4000, 0, 0, 0x3400, 0x4200, 0, 0x3A00, 0, 0x3D00, 0x4100, 0, 0x4500, 0]

/-- Slot 0 with vectors in v1, v2 and so on, and FPCTL. -/
def vecs (l : List Vec) (fpctl : Dword) : State :=
  at0 fun t => { t with v := Vector.ofFn fun i => if i.val = 0 then 0 else l.getD (i.val - 1) 0, fpctl := fpctl }

/-- The instruction writes a vector register and leaves FPCTL so. -/
def givesV (i : Instr) (s : State) (d : Nat) (x : Vec) (fpctl : Dword) : Bool :=
  next? (exec i s) fun t => t.here.vreg d == x && t.here.fpctl == fpctl && t.here.pc == s.here.pc + 4

theorem witness_IntegerLanes : Fmt.i8.isFloat = false ∧ Fmt.i32.isFloat = false := by decide

theorem test_integer_lanes :
    givesV (.vadd 3 1 2 0 .i8) (vecs [0xFF7F01, 0x010101] 0) 3 0x8002 0 ∧ givesV (.vsub 3 1 2 0 .i32) (vecs [0, 1] 0) 3 0xFFFFFFFF 0
    ∧ givesV (.vmin 3 1 2 0 .i8) (vecs [0x80, 0x01] 0) 3 0x80 0 ∧ givesV (.vabs 3 1 0 .i8) (vecs [0x80FF] 0) 3 0x8001 0
    ∧ givesV (.vsra 3 1 2 0 .i8) (vecs [0x80, 0x09] 0) 3 0xC0 0 ∧ givesV (.vsll 3 1 2 0 .i32) (vecs [3, 31] 0) 3 0x80000000 0
    ∧ givesV (.vmul 3 1 2 0 .i8) (vecs [0x10FF, 0x1002] 0) 3 0xFE 0 := by decide +kernel

theorem witness_FloatLanes : Fmt.f16.isFloat = true ∧ Fmt.f32.isFloat = true ∧ (b16 = b16 ∨ b16 = b32) ∧ 0 < 5 := by decide

/-- Patterns of each kind: a NaN, −0, −1, the infinities, a subnormal; values of each kind and the exact special functions. -/
theorem witness_FloatLanes_patterns :
    (0 < 3 ∧ b16.isNaN 0x7E00 ∧ ¬ b16.isNaN 0x8000 ∧ ¬ b16.isNaN 0x3C00 ∧ 0x7E00 < 2 * b16.signBit
      ∧ b16.key (b16.seen false 0xBC00) < b16.key (b16.seen false 0x3C00)
      ∧ (b16.key (b16.seen true 0x8001) = b16.key (b16.seen true 1) ∧ b16.signBit ≤ b16.seen true 0x8001)
      ∧ ¬ (b16.key 0x3C00 < b16.key 0xBC00 ∨ b16.key 0x3C00 = b16.key 0xBC00 ∧ b16.signBit ≤ 0x3C00))
    ∧ (b16.decode false 0x7D00 = .nan true ∧ b16.decode false 0x7C00 = .inf false ∧ b16.decode false 0xFC00 = .inf true
        ∧ b16.decode false 0x8000 = .fin true 0 (-24) ∧ b16.decode false 0x4400 = .fin false (2 ^ 10) (-8)
        ∧ b16.decode false 0xBC00 = .fin true (2 ^ 10) (-10))
    ∧ 2 ^ 10 * 2 ^ (-8 : Int).toNat = 4 * 2 ^ (- -8 : Int).toNat ∧ (Val.inf true).mul (.inf false) = .inf true := by
  unfold BinFmt.isNaN; decide +kernel

/-- E76 and E83 of the shot-layer example, and a rounded sum, an overflow and an invalid sum. -/
theorem test_float_lanes :
    givesV (.vmul 3 1 2 0 .f16) (vecs [rows, factors] 0) 3 scaled 0 ∧ givesV (.vmax 6 1 5 0 .f16) (vecs [rows] 0) 6 relu 0
    ∧ givesV (.vadd 3 1 2 0 .f32) (vecs [0x3F800000, 0x33000000] 0) 3 0x3F800000 0x1000
    ∧ givesV (.vadd 3 1 2 0 .f32) (vecs [0x7F7FFFFF, 0x7F7FFFFF] 0) 3 0x7F800000 0x1400
    ∧ givesV (.vsub 3 1 2 0 .f32) (vecs [0x7F800000, 0x7F800000] 0) 3 0x7FC00000 0x100 := by decide +kernel

/-- 2 cubed is 8 and the logarithm of 8 is 3; the reciprocal of 4, the reciprocal root of 4. -/
theorem test_special_functions :
    givesV (.vexp2 3 1 0 .f32) (vecs [v32 (List.replicate 8 0x40400000)] 0) 3 (v32 (List.replicate 8 0x41000000)) 0
    ∧ givesV (.vlog2 3 1 0 .f32) (vecs [v32 (List.replicate 8 0x41000000)] 0) 3 (v32 (List.replicate 8 0x40400000)) 0
    ∧ givesV (.vrcp 3 1 0 .f16) (vecs [v16 (List.replicate 16 0x4400)] 0) 3 (v16 (List.replicate 16 0x3400)) 0
    ∧ givesV (.vrsq 3 1 0 .f16) (vecs [v16 (List.replicate 16 0x4400)] 0) 3 (v16 (List.replicate 16 0x3800)) 0 := by decide +kernel

theorem witness_LaneMovesAndCompares :
    base.here.srcPend [3] = false ∧ permAssigned 11 .i8 = true ∧ permAssigned 4 .f32 = true ∧ base.here.isPend (8 : Reg).toNat = false := by
  decide

/-- VNZS of the ReLU of the shot-layer example. -/
theorem test_vnzs :
    next? (exec (.vnzs 7 6 8 0 .f16) (vecs [0, 0, 0, 0, 0, relu] 0)) fun t =>
      t.here.vreg 7 == v16 [0, 1, 2, 3, 6, 7, 9, 11, 12, 14] && t.here.s 8 == 10 := by decide +kernel

/-- A lookup past the last lane gives zero; a compare writes every bit of its predicate; an inactive lane of VXL stays. -/
theorem test_lane_moves :
    givesV (.vxl 3 1 2 0 .i32) (vecs [v32 [10, 11, 12], v32 [2, 8, 0]] 0) 3 (v32 [12, 0, 10, 10, 10, 10, 10, 10]) 0
    ∧ (next? (exec (.vcmp 3 1 2 0 .i32 .ltz) (vecs [v32 [1, 0xFFFFFFFF], v32 [2, 1]] 0)) fun t => t.here.preg 3 == 0xF)
    ∧ (next? (exec (.vcmp 3 1 2 0 .i32 .lt) (vecs [v32 [1, 0xFFFFFFFF], v32 [2, 1]] 0)) fun t => t.here.preg 3 == 0xFF)
    ∧ (next? (exec (.vxl 3 1 2 1 .i32) (vecs [v32 [10, 11], v32 [1], v32 [7, 7]] 0)) fun t => t.here.vreg 3 == v32 [7, 7]) := by
  decide +kernel

theorem witness_LaneConversion :
    NFmt.f16 ≠ .cone8 ∧ NFmt.f32 ≠ .int32 ∧ (NFmt.int8 = .int8 ∨ NFmt.int8 = .int32) ∧ (NFmt.cone6 = .cone8 ∨ NFmt.cone6 = .cone6) ∧ 0 < 5 := by decide

/-- The regimes of the two CONE formats have codes: e and f within their fields. -/
theorem witness_LaneConversion_values :
    (1 < 2 ^ 1 ∧ 15 < 2 ^ 4 ∧ (0x40, (0 : Int), 1, 4) ∈ [(0x20, (-2 : Int), 1, 4), (0x40, 0, 1, 4)] ∧ coneUnits 7 1 (0x40 + 1 * 2 ^ 4 + 15) = (2 ^ 4 + 15) * 2 ^ 8 * 2)
    ∧ (0 < 2 ^ 0 ∧ 7 < 2 ^ 3 ∧ coneUnits 5 0 (0x10 + 7) = (2 ^ 3 + 7) * 2 ^ 9)
    ∧ 0 < 3 ∧ apart 5 (coneUnits 5 0 1) = 256 - 5 := by decide +kernel

/-- E77 of the shot-layer example, and worked conversions from binary32 of R143: 5.3, 100, 112, 10,000. -/
theorem test_conversions :
    givesV (.vcvt 4 3 0 .f16 .cone8) (vecs [0, 0, scaled] 0) 4 0xB844903424001CB04818B0A040383020 0
    ∧ givesV (.vcvt 4 1 0 .f32 .cone8) (vecs [v32 [0x40A9999A, 0x42C80000, 0x42E00000, 0x461C4000]] 0) 4 0x7F7A7963 0x1400
    ∧ givesV (.vcvt 4 1 0 .f32 .cone8) (vecs [v32 [0x40A9999A, 0xC2E00000, 0xB7FBA882, 0x80000000]] 2) 4 0x0081FA62 0x1002 := by
  decide +kernel

theorem witness_Reductions :
    Fmt.i8.isFloat = false ∧ Fmt.f16.isFloat = true ∧ base.here.isPend (3 : Reg).toNat = false
    ∧ (∀ k, k < 16 → active (base.here.preg 1) k 16 = false) := by decide +kernel

/-- Lanes of either kind under one mask: an active lane and a hole. -/
theorem witness_Reductions_tree :
    (vecs [v16 [0x3C00, 0x4000]] 0).here.isPend (9 : Reg).toNat = false
    ∧ (let quiet : Fl := ⟨false, false, false, false, false⟩
       treeOf (fun x y => (x + y, quiet)) 2 (fun k => if k = 2 then none else some (k, quiet)) = some (4, quiet)
        ∧ treeOf (fun x y => (x + y, quiet)) 1 (fun _ => none) = none)
    ∧ active ((vecs [] 0).here.preg 0) 3 16 = true := by decide +kernel

/-- The flags of a reduction: a signalling NaN that reaches the root alone sets NV; a product beyond binary16's range of the binary32
sum sets nothing; the clamp of an integer sum sets OF (R138, R154, R162). -/
theorem test_reduction_flags :
    (next? (exec (.vredMax 9 1 0 .f16) (vecs [v16 (0x7C01 :: List.replicate 15 0x3C00)] 0)) fun t => t.here.fpctl == 0x100)
    ∧ (next? (exec (.vdot 9 1 2 0 .f16) (vecs [v16 [0x7BFF], v16 [0x7BFF]] 0)) fun t => t.here.fpctl == 0)
    ∧ (next? (exec (.vredAdd 9 1 0 .i32) (vecs [v32 [0x7FFFFFFF, 1]] 8)) fun t => t.here.fpctl == 0x408) := by decide +kernel

/-- E85 of the shot-layer example; sums that wrap or, under ISAT, clamp; the extremes of no lane. -/
theorem test_reductions :
    gives (.vredMax 9 6 0 .f16) (vecs [0, 0, 0, 0, 0, relu] 0) 9 0x4500
    ∧ gives (.vredAdd 9 1 0 .i32) (vecs [v32 [0x7FFFFFFF, 1]] 0) 9 0xFFFFFFFF80000000
    ∧ gives (.vredAdd 9 1 0 .i32) (vecs [v32 [0x7FFFFFFF, 1]] 8) 9 0x7FFFFFFF
    ∧ gives (.vredMin 9 1 1 .i8) (vecs [] 0) 9 127 ∧ gives (.vredMax 9 1 1 .f32) (vecs [] 0) 9 0xFF800000
    ∧ gives (.vdot 9 1 2 0 .i8) (vecs [0xFF02, 0x0303] 0) 9 3 ∧ gives (.vsqd 9 1 2 0) (vecs [0xFF02, 0x0303] 0) 9 17 := by decide +kernel

/-! ## Queues, messages, joins -/

/-- A tile command word in s8 to s11: opcode 1 and a token. -/
def cmdWord (opc tok : Nat) : State := with0 [(8, 3), (11, dw (opc * 2 ^ 56 + tok * 2 ^ 51))]

theorem witness_Enqueue :
    ((cmdWord 1 31).here.srcPend [8, 8 + 1, 8 + 2, 8 + 3] = false ∧ (2 : Reg).toNat ≤ 2 ∧ (cmdWord 1 31).here.hold = false
      ∧ wToken ((cmdWord 1 31).here.tile 8) ≠ 0 ∧ (cmdWord 1 31).here.isPend (wToken ((cmdWord 1 31).here.tile 8)) = false
      ∧ (cmdWord 1 31).here.queueFull 2 = false ∧ (cmdWord 1 31).here.replay = []
      ∧ (cmdWord 1 31).stageOverrun 2 ((cmdWord 1 31).here.tile 8) = false
      ∧ (cmdWord 1 31).released (scopeCode (wScope ((cmdWord 1 31).here.tile 8))) ∧ fenceXHeld (cmdWord 1 31).here.sbuf false = false)
    ∧ (wToken ((cmdWord 1 0).here.tile 8) = 0 ∧ (cmdWord 1 0).handles)
    ∧ (let s := (cmdWord 1 5).setHere { (cmdWord 1 5).here with pend := [5] }
       s.here.srcPend [8, 8 + 1, 8 + 2, 8 + 3] = false ∧ wToken (s.here.tile 8) ≠ 0 ∧ s.here.isPend (wToken (s.here.tile 8)) = true) := by
  unfold State.released State.handles; decide +kernel

/-- An STGA of s8 to s11 that names barrier 3, whose OVERRUN is the context's. -/
def overran : State :=
  let s := cmdWord 5 31
  s.setFacet 0 ((s.facet 0).setBar 3 ⟨false, 0, true, some 0, 0, 0, 0⟩)
/-- A handler of a slot whose SSQ is held, with a command word in s8 to s11, and with a bypassed command before it. -/
def bypassing (l : List Cmd) : State :=
  let s := cmdWord 0x20 31
  s.setHere { s.here with sup := true, hold := true, bypass := l }

theorem witness_Enqueue_overrun_and_bypass :
    (let s := overran
     let w := s.here.tile 8
     s.here.srcPend [8, 8 + 1, 8 + 2, 8 + 3] = false ∧ wOpc w = 0x05 ∧ wf w 4 0 = 3 ∧ ((s.facet s.myFacet).bar 3).overrun = true
      ∧ ((s.facet s.myFacet).bar 3).owner = some s.myCtx ∧ wToken w ≠ 0 ∧ s.here.isPend (wToken w) = false
      ∧ s.here.queueFull 0 = false ∧ s.here.replay = [] ∧ s.handles)
    ∧ ((2 : Reg).toNat = 2 ∧ (bypassing []).here.hold = true ∧ (bypassing []).here.sup = true ∧ (bypassing []).here.queueFull 2 = false
        ∧ (bypassing [Slot.reset.capture 2 0]).here.queueFull 2 = true ∧ (bypassing [Slot.reset.capture 2 0]).here.bypass ≠ []) := by
  unfold State.handles; decide +kernel

/-- The same command word behind a store that its release waits for: its barrier is examined once (R96). -/
def stageWaits (seen set : Bool) : State :=
  let s := with0 [(8, 3), (11, dw (5 * 2 ^ 56 + 31 * 2 ^ 51 + 3 * 2 ^ 48))]
  let s1 := s.setHere { s.here with sbuf := [first], examined := seen }
  s1.setFacet 0 ((s1.facet 0).setBar 3 ⟨false, 0, set, some 0, 0, 0, 0⟩)

theorem witness_Enqueue_waits :
    let ok (s : State) : Prop := s.here.srcPend [8, 8 + 1, 8 + 2, 8 + 3] = false ∧ wToken (s.here.tile 8) ≠ 0
      ∧ s.here.isPend (wToken (s.here.tile 8)) = false ∧ s.here.queueFull 0 = false ∧ s.here.replay = []
      ∧ wOpc (s.here.tile 8) = 0x05
    ok (stageWaits false false) ∧ ok (stageWaits true true) ∧ (stageWaits true true).here.examined = true
    ∧ ¬ (stageWaits false false).released (scopeCode (wScope ((stageWaits false false).here.tile 8))) := by
  unfold State.released; decide +kernel

theorem test_enq_waits :
    (next? (exec (.enq 8 0) (stageWaits false false)) fun t => t.here.examined && t.here.cpq == [] && t.here.pc == 0x10000)
    ∧ (next? (exec (.enq 8 0) (stageWaits true true)) fun t => !t.here.sup && ((t.facet 0).bar 3).overrun)
    ∧ traps (.enq 8 0) (stageWaits false true) 10 3 := by decide +kernel

/-- The trap clears OVERRUN and pushes nothing (R96); the bypassed command goes past the held ones (R199). -/
theorem test_enq_overrun_and_bypass :
    traps (.enq 8 0) overran 10 3
    ∧ (next? (exec (.enq 8 0) overran) fun t => t.here.cpq == [] && !((t.facet 0).bar 3).overrun && t.here.pend == [])
    ∧ (next? (exec (.enq 8 2) (bypassing [])) fun t => t.here.ssq == [] && t.here.bypass.length == 1) := by decide +kernel

theorem test_enq :
    (next? (exec (.enq 8 0) (cmdWord 1 31)) fun t => t.here.pend == [31] && t.here.cpq.length == 1 && t.here.pc == 0x10004)
    ∧ traps (.enq 8 1) (cmdWord 1 0) 1 0xE0080800 := by decide +kernel

def results : State := at0 fun t => { t with ixo := [⟨1, 2, 0⟩], sso := [7], pend := [20] }

theorem witness_DequeueAndTokens :
    ((4 : Reg).toNat = 4 ∧ 1 ≤ (30 : Reg).toNat ∧ (30 : Reg).toNat ≤ 30 ∧ results.here.isPend 30 = false ∧ results.here.isPend 31 = false
      ∧ results.here.ixo = [⟨1, 2, 0⟩])
    ∧ ((5 : Reg).toNat = 5 ∧ results.here.isPend 1 = false ∧ results.here.sso = [7] ∧ base.here.isPend 1 = false ∧ base.here.sso = [])
    ∧ (base.here.isPend 30 = false ∧ base.here.isPend (30 + 1) = false ∧ base.here.ixo = [])
    ∧ (results.here.isPend 3 = false ∧ results.here.isPend 20 = true) := by decide +kernel

theorem witness_DequeueAndTokens_clobber :
    (results.handles ∧ results.here.isPend (20 : Reg).toNat = true)
    ∧ ((4 : Reg).toNat = 4 ∧ results.here.isPend (19 : Reg).toNat = false ∧ results.here.isPend ((19 : Reg).toNat + 1) = true) := by
  unfold State.handles; decide +kernel

/-- Slot 0 has read 8 bytes ahead, for which token register 12 stands, in turn 3; a record of the release of turn 5, or of turn 2. -/
def ahead (pend : List Nat) (rel : Nat := 5) : State :=
  at0 fun t => { t with early := [⟨0x10028, ⟨0x10028, none⟩, [9, 0, 0, 0, 0, 0, 0, 0], [], false, 3, [12]⟩], pend := pend, ixo := [⟨1, 2, rel⟩] }

/-- WTOK of the register drops what its delivery has changed, that of another does not, and none while it is pending (R87, R99);
a record drops what was read before its release (R217). -/
theorem test_acquire :
    (let kept (i : Instr) (s : State) : Nat := (s.readSources i).here.early.length
     kept (.wtok 12) (ahead []) = 0 ∧ kept (.add 3 1 12) (ahead []) = 0 ∧ kept (.wtok 13) (ahead []) = 1 ∧ kept (.wtok 12) (ahead [12]) = 1)
    ∧ (next? (exec (.deq 4 4) (ahead [])) fun t => t.here.early == []) ∧ (next? (exec (.deq 4 4) (ahead [] 2)) fun t => t.here.early.length == 1)
    ∧ (next? (exec (.add 12 1 2) (ahead [])) fun t => t.here.early.map (·.behind) == [[]]) := by decide +kernel

/-- The lower register comes first, and nothing is popped (R98). -/
theorem test_deq_clobber :
    traps (.deq 20 4) results 2 20 ∧ traps (.deq 19 4) results 2 20 ∧ traps (.tokq 20 3) results 2 20
    ∧ (next? (exec (.deq 19 4) results) fun t => t.here.ixo.length == 1) := by decide +kernel

theorem test_deq :
    (next? (exec (.deq 30 4) results) fun t => t.here.s 30 == 1 && t.here.s 31 == 2 && t.here.ixo == [])
    ∧ gives (.deq 1 5) results 1 7 ∧ gives (.tokq 3 20) results 3 1 ∧ gives (.tokq 3 21) results 3 0 := by decide +kernel

theorem test_wtok_waits : exec (.wtok 20) results = .next results := by rfl

/-- A message to core 1 of the own facet, by name, in s4; s5 names queue 3. -/
def sender (allow : Nat) : State :=
  at0 fun t => { regs [(4, 0x8000000000000001), (5, 0x9000000000000003)] t with m := t.m.set 1 9, allow := allow }
def deep (n : Nat) : State :=
  let s := sender 32
  s.setCore 0 { s.core 0 with deque := List.replicate (min n 32) ⟨Msg.zero, false⟩, dqRing := List.replicate (n - 32) ⟨Msg.zero, false⟩ }

theorem witness_MessagesAndRecords :
    ((sender 32).ready [4] 3 ∧ (sender 32).here.message.bad = false ∧ (sender 32).resolve ((sender 32).here.s 4).toNat true = .ok (.core 1)
      ∧ 0 < (sender 32).here.allow ∧ (sender 32).released (destScope (sender 32).myCore (.core 1)) ∧ (sender 0).here.allow = 0)
    ∧ ((sender 0).ready [5] 31 ∧ (sender 0).here.message.bad = false ∧ (sender 0).resolve ((sender 0).here.s 5).toNat true = .ok (.queue 3))
    ∧ ((sender 32).here.srcPend [4] = false)
    ∧ ((deep 0).here.isPend (3 : Reg).toNat = false ∧ hdrPri (deep 0).here.message.hdr.toNat = false
        ∧ hdrCont (deep 0).here.message.hdr.toNat = false ∧ ((deep 0).core (deep 0).myCore).dqFull = false ∧ (deep 0).released .dev)
    ∧ (((deep 96).core (deep 96).myCore).dqFull = true ∧ ((deep 95).core (deep 95).myCore).dqFull = false ∧ (deep 96).handles) := by
  unfold State.ready State.released State.handles; decide +kernel

theorem test_send :
    (next? (exec (.sendh 3 4) (sender 1)) fun t => t.here.allow == 0 && t.here.s 3 == 0
      && t.msgs == [⟨some 0, none, some 0, true, ⟨⟨0x40000, (Vector.replicate 7 0).set 0 9⟩, false⟩, .core 1, none, false⟩])
    ∧ gives (.send 3 5) (sender 0) 3 1 ∧ gives (.spawn 3) (deep 96) 3 1 ∧ traps (.spawn 0) (deep 96) 11 96
    ∧ next? (exec (.mvm 7 4) (sender 0)) fun t => t.here.m[7] == 0x8000000000000001 := by decide +kernel

/-- s8 names a join record at byte 0x40 of the own local memory with scope DEV, s9 its count. -/
def joins : State := with0 [(8, 0x20043), (9, 2), (10, 0x24040)]

theorem witness_JoinRecords :
    (joins.here.srcPend [8, 9] = false ∧ (joins.here.s 8).toNat % 8 ≤ 4 ∧ (joins.here.s 9).toNat < 2 ^ 32
      ∧ joins.look .store true ((joins.here.s 8).toNat / 8 * 8) = .ok ⟨2 ^ 48 + 0x40, none⟩ ∧ spaceOf (2 ^ 48 + 0x40) = 1
      ∧ localCore (2 ^ 48 + 0x40) = joins.myCore ∧ (2 ^ 48 + 0x40) % 16384 + 72 ≤ 16384
      ∧ joins.here.watched 1 ((joins.here.s 8).toNat / 8 * 8) 8 = false
      ∧ joins.writeHeld joins.cur ((joins.here.s 8).toNat / 8 * 8) (2 ^ 48 + 0x40) 8 = false)
    ∧ (joins.here.srcPend [10] = false ∧ (joins.here.s 10).toNat % 8 ≤ 4
        ∧ joins.look .store false ((joins.here.s 10).toNat / 8 * 8) = .ok ⟨2 ^ 48 + 0x4040, none⟩ ∧ spaceOf (2 ^ 48 + 0x4040) = 1
        ∧ joins.here.sbuf.any (·.mayOverlap (2 ^ 48 + 0x4040) 8) = false ∧ joins.here.replay = []
        ∧ joins.released (scopeCode ((joins.here.s 10).toNat % 8))) := by
  unfold State.released; decide +kernel

theorem test_jinit :
    (next? (exec (.jinit 8 9) joins) fun t => t.rdNat ⟨2 ^ 48 + 0x40, none⟩ 8 == 0x300000002 && t.here.pendJoin == some 0x20040)
    ∧ (next? (exec (.arriveRlx 10) joins) fun t => t.arrivals == [⟨0, 2 ^ 48 + 0x4040, 0⟩])
    ∧ traps (.jinit 10 9) joins 5 0x24040 := by decide +kernel

theorem witness_ContinuationsOfTasks :
    ((sender 1).here.sup = false ∧ (sender 1).here.conv = false ∧ (sender 1).here.pend = [] ∧ (sender 1).here.sbuf.any (·.untranslated) = false
      ∧ (sender 1).here.keys = [] ∧ (BitVec.ofInt 64 (((sender 1).here.pc.toNat : Int) + 4 * (1 : BitVec 21).toInt)).toNat < 2 ^ 34
      ∧ (sender 1).released .sys ∧ (sender 1).here.pendJoin = none ∧ ((sender 1).core (sender 1).myCore).dqFull = false
      ∧ 0 < (sender 1).here.allow ∧ (sender 1).resolve ((sender 1).here.s 4).toNat false = .ok (.core 1))
    ∧ (keyed.here.sup = false ∧ keyed.here.conv = false ∧ keyed.here.pend = [] ∧ keyed.here.sbuf.any (·.untranslated) = false
        ∧ keyed.here.keys ≠ [] ∧ keyed.handles)
    ∧ (0x3FFFFFFFC < 2 ^ 34 ∧ 0x3FFFFFFFC % 4 = 0) := by
  unfold State.released State.handles; decide +kernel

theorem test_susp_and_migr :
    (next? (exec (.susp 1) (sender 1)) fun t => !t.here.busy && (t.core 0).deque.map (·.msg.hdr) == [0x0000400100200000])
    ∧ (next? (exec (.migr 4 3) (sender 1)) fun t => t.msgs.map (·.dest) == [.core 1] && !t.here.busy)
    ∧ traps (.susp 1) keyed 3 0 := by decide +kernel

/-- A task that is about to suspend into its join record, whose count is `n`. -/
def joining (n : Byte) : State :=
  let s := stored base (2 ^ 48 + 0x40) [n]
  s.setHere { s.here with pendJoin := some 0x20040 }

theorem witness_ContinuationsOfTasks_records :
    let ok (s : State) : Prop := s.here.sup = false ∧ s.here.conv = false ∧ s.here.pend = [] ∧ s.here.sbuf = [] ∧ s.here.keys = []
      ∧ s.released .sys ∧ s.here.pendJoin = some 0x20040 ∧ s.clean
      ∧ s.xlateAgain s.myFacet s.myCtx .store true 0x20040 = .ok ⟨2 ^ 48 + 0x40, none⟩
    (ok (joining 2) ∧ joinCount ((joining 2).joinWord (2 ^ 48 + 0x40)) ≠ 0)
    ∧ (ok (joining 0) ∧ joinCount ((joining 0).joinWord (2 ^ 48 + 0x40)) = 0 ∧ ((joining 0).ctx 0).st = .running
        ∧ coreIn ((joining 0).ctx 0).set 0 = true ∧ ((joining 0).core 0).ring false = [] ∧ ((joining 0).core 0).box false = [])
    ∧ spaceOf (2 ^ 48 + 0x40) = 1 ∧ localCore (2 ^ 48 + 0x40) = base.myCore ∧ devOf (2 ^ 48 + 0x40) = 0 := by
  unfold State.released State.clean; decide +kernel

def converting : State := at0 fun t => { t with conv := true, epc := 0x10040, keys := [3] }

theorem witness_ContinuationsOfTasks_supervisor :
    ((sup0 []).here.sup = true ∧ (sup0 []).here.conv = false ∧ (sup0 []).here.start = false ∧ (sup0 []).here.replay = [] ∧ (1 : BitVec 21) ≠ 0)
    ∧ (at0 fun t => { t with sup := true, start := true }).here.start = true
    ∧ (converting.here.conv = true ∧ converting.here.hold = false ∧ converting.here.pend = [] ∧ converting.here.sbuf = []
        ∧ converting.here.epc.toNat < 2 ^ 34 ∧ converting.released .sys ∧ converting.here.pendJoin = none
        ∧ (converting.core converting.myCore).dqFull = false) := by
  unfold State.released; decide +kernel

theorem test_suspensions :
    (next? (exec (.susp 1) (joining 2)) fun t => !t.here.busy && t.joinWord (2 ^ 48 + 0x40) == 2 ^ 35 + 2 && (t.core 0).deque == [])
    ∧ (next? (exec (.susp 1) (joining 0)) fun t => !t.here.busy && (t.core 0).low.length == 1)
    ∧ (next? (exec (.susp 0) (sup0 [])) fun t => t.here.conv && !t.here.sup)
    ∧ (next? (exec (.susp 1) (sup0 [])) fun t => (t.ctx 0).kcode == 1)
    ∧ (next? (exec (.susp 0) converting) fun t => !t.here.busy && t.keyRels == [⟨0, 3⟩] && (t.core 0).deque.length == 1) := by decide +kernel

/-! ## Index instructions at issue, control registers -/

def requester : State := with0 [(4, 0x20100), (5, 0x10040), (6, 9), (9, 0x10080), (7, 64)]

theorem witness_RequestsWithTokens :
    ((10 : Reg) ≠ 0 ∧ requester.indexHeld 10 = false ∧ requester.here.srcPend [9] = false)
    ∧ ((requester.here.s 5).toNat % 8 = 0 ∧ ∀ k, k < 4 →
        requester.look .load true ((requester.here.s 5).toNat + 8 * k) = .ok ⟨0x10040 + 8 * k, none⟩
        ∧ requester.here.watched 0 ((requester.here.s 5).toNat + 8 * k) 8 = false
        ∧ requester.here.loadHeld requester.myCore ((requester.here.s 5).toNat + 8 * k) (0x10040 + 8 * k) 8 = false
        ∧ requester.arrivalAhead requester.cur (0x10040 + 8 * k) 8 = false ∧ requester.asleep (0x10040 + 8 * k) = false
        ∧ requester.poisoned (0x10040 + 8 * k) 8 = false)
    ∧ (requester.here.srcPend [9, 5, 5 + 1] = false ∧ (requester.here.s 5).toNat % 4 = 0
        ∧ requester.look .load true (requester.here.s 5).toNat = .ok ⟨0x10040, none⟩)
    ∧ (requester.latent = [] ∧ requester.ready [5, 7] 10 ∧ requester.here.replay = []) := by
  unfold State.ready; decide +kernel

theorem witness_RequestsWithTokens_codepub :
    requester.here.codeHeld requester.myCore requester.tick SEntry.untranslated = false := by decide +kernel

theorem test_requests :
    (next? (exec (.ldn 21 9 5) requester) fun t => t.here.pend == [21] && t.here.ixq.map (·.pv) == [some ⟨0x10040, none⟩]
      && t.here.ixq.map (·.z) == [9])
    ∧ (next? (exec (.codepub 10 5 7) requester) fun t => t.codeReqs == [⟨0, 0, 10, 0, 0x10040, 64, false⟩] && t.here.pend == [10]) := by
  decide +kernel

def flags : State := at0 fun t => { regs [(2, 0xFFFFFFFFFFFFF10A)] t with fpctl := 0x1F05 }
/-- A handler with the address of RETCFG of its facet in s8. -/
def handler : State := sup0 [(8, 0x0003000100000880), (9, 0x0003000000000000), (10, 3)]

theorem witness_ControlForms :
    (flags.here.isPend (3 : Reg).toNat = false ∧ flags.here.srcPend [2] = false ∧ flags.here.s (2 : Reg).toNat = 0xFFFFFFFFFFFFF10A)
    ∧ (handler.here.sup = true ∧ (handler.core handler.myCore).lowRing = [] ∧ (handler.core handler.myCore).highRing = [])
    ∧ (handler.here.ea 8 0 % 8 = 0 ∧ handler.creg (handler.here.ea 8 0) = some (.retcfg 0) ∧ handler.here.srcPend [8, 10] = false
        ∧ handler.here.isPend (10 : Reg).toNat = false ∧ handler.mayRead (.sup handler.myCtx handler.cur) (.retcfg 0) = true
        ∧ handler.mayWrite (.sup handler.myCtx handler.cur) (.retcfg 0) (handler.here.s 10) = true ∧ handler.released .dev
        ∧ (handler.cwrite (.sup handler.myCtx handler.cur) (.retcfg 0) (handler.here.s 10)).here.busy = true)
    ∧ (handler.here.ea 9 0 % 8 = 0 ∧ handler.creg (handler.here.ea 9 0) = some .xinv
        ∧ handler.mayRead (.sup handler.myCtx handler.cur) .xinv = false) := by
  unfold State.released; decide +kernel

theorem test_control_registers :
    (next? (exec (.ctlw 2 0) flags) fun t => t.here.fpctl == 0x0E0A) ∧ gives (.ctlr 3 0) flags 3 0x1F05
    ∧ gives (.ctlr 10 0x20) handler 10 0x10100 ∧ gives (.ctlrSpace 10 8 0) handler 10 0x00100000
    ∧ (next? (exec (.ctlwSpace 10 8 0) handler) fun t => (t.facet 0).idle == 3)
    ∧ (next? (exec (.ctlrSpace 10 9 0) handler) fun t => (t.ctx 0).st == .killed && (t.ctx 0).kcode == 5) := by decide +kernel

/-- A handler that addresses XSTAT, which it may not write, and one that addresses RETCFG with S[10] pending. -/
def forbidden : State := handler.setHere { (regs [(8, 0x0003000000000008)] handler.here) with pend := [10] }
def waiting10 : State := handler.setHere { handler.here with pend := [10] }

theorem witness_ControlForms_checks :
    handler.myCtx < 512
    ∧ (forbidden.here.sup = true ∧ forbidden.here.ea 8 0 % 8 = 0 ∧ forbidden.creg (forbidden.here.ea 8 0) = some .xstat
        ∧ forbidden.here.srcPend [8] = false
        ∧ forbidden.mayWrite (.sup forbidden.myCtx forbidden.cur) .xstat (BitVec.ofNat 64 forbidden.myCtx) = false)
    ∧ (waiting10.here.srcPend [8] = false ∧ waiting10.here.srcPend [10] = true
        ∧ waiting10.mayWrite (.sup waiting10.myCtx waiting10.cur) (.retcfg 0) (BitVec.ofNat 64 waiting10.myCtx) = true) := by decide +kernel

/-- Registers at the bounds of the map, who writes, and the states that a write asks for. -/
theorem witness_ControlForms_map :
    (63 < 64 ∧ 39 < 40 ∧ 511 < 512 ∧ 31 < 32 ∧ 4095 < 4096 ∧ 2559 < numFacets ∧ 0x7F8 < 0x800)
    ∧ (spaceOf (3 * 2 ^ 48 + 8) = 3 ∧ devOf (3 * 2 ^ 48 + 8) = 0 ∧ devOf (5 * 2 ^ 52 + 3 * 2 ^ 48) = { base with devId := 5 }.devId
        ∧ spaceOf 0x10000 ≠ 3 ∧ devOf (7 * 2 ^ 52 + 3 * 2 ^ 48) ≠ 0 ∧ devOf (7 * 2 ^ 52 + 3 * 2 ^ 48) ≠ base.devId)
    ∧ ((base.ctx 0).st = .running ∧ (base.ctx 5).st ≠ .running ∧ (base.queue 1).valid = false
        ∧ ((base.setQueue 1 { base.queue 1 with valid := true }).queue 1).valid = true)
    ∧ (let s := base.setRegion 3 ⟨0x10000, 65536, 3, true, 0, 5⟩
       (s.region 3).claimed = true ∧ some 0 = some (s.region 3).owner ∧ some 7 ≠ some (s.region 3).owner)
    ∧ (0x8000000000000000 : Dword).getLsbD 63 = true ∧ (1 : Dword).getLsbD 63 = false := by decide +kernel

/-- The registers at the ends of their arrays, and the offsets behind them (R294). -/
theorem test_control_map :
    base.creg (3 * 2 ^ 48 + 0x10008 + 512 * 63 + 8 * 39) = some (.lqmask 63 39) ∧ base.creg (3 * 2 ^ 48 + 0x18000) = none
    ∧ base.creg (3 * 2 ^ 48 + 0x200000 + 32 * 4095 + 24) = some (.region 4095 3) ∧ base.creg (3 * 2 ^ 48 + 0x500210) = none
    ∧ base.creg (3 * 2 ^ 48 + 0x100000000 + 0x400000 * 2559 + 0x1208) = some (.logEntry (.facet 2559) 31 1)
    ∧ base.creg (3 * 2 ^ 48 + 0x100000000 + 0x400000 * 2559 + 0x1FF860) = some (.faultWord (256 * 2559 + 255) 4) := by decide +kernel

/-- The address is checked before the source register is waited for (R289). -/
theorem test_control_write_order :
    (next? (exec (.ctlwSpace 10 8 0) forbidden) fun t => (t.ctx 0).st == .killed && (t.ctx 0).kcode == 5)
    ∧ exec (.ctlwSpace 10 8 0) waiting10 = .next waiting10 := by
  refine ⟨by decide +kernel, rfl⟩

/-! ## The copy engine -/

/-- A command as ENQ pushes it: opcode, token and operand bits, with MXCFG. -/
def cmd (opc tok ops : Nat) (mxcfg : Dword := 0) : Cmd :=
  { Slot.reset.capture 0 (BitVec.ofNat 256 (opc * 2 ^ 248 + tok * 2 ^ 243 + ops)) with mxcfg := mxcfg }

/-- Slot 0 with a command at the head of a queue, its token pending. -/
def queued (w : Which) (c : Cmd) (s : State := base) : State := s.setHere (({ s.here with pend := [c.tok] } : Slot).setQueue w [c])

def dying (hdr ref : Dword) : State :=
  (sup0 []).setHere { (sup0 []).here with
    hdr := hdr, joinRef := ref, replay := [⟨0, 0x50000, [1], .plain, causePage⟩], keys := [3], hold := true
    ssq := [cmd 0x20 9 0], pend := [9] }

theorem witness_EndOfTask_supervisor :
    let ok (s : State) : Prop := s.here.sup = true ∧ s.here.discard.pend = [] ∧ s.here.mxq = [] ∧ s.codeReqs = []
      ∧ s.here.discard.endHeld s.myCore = false ∧ s.latent = []
    (ok (dying 0 0) ∧ hdrJoin (dying 0 0).here.hdr.toNat = false)
    ∧ (ok (dying 0x100000 0x20040) ∧ hdrJoin (dying 0x100000 0x20040).here.hdr.toNat = true
        ∧ (dying 0x100000 0x20040).joinCheck 0 0 0x20040 = .ok ⟨2 ^ 48 + 0x40, none⟩)
    ∧ (ok (dying 0x100000 0x30000) ∧ (dying 0x100000 0x30000).joinCheck 0 0 0x30000 = .trap causeProt 0x30000)
    ∧ joined.here.sbuf.any (·.mayOverlap (2 ^ 48 + 0x40) 8) = false := by decide +kernel

theorem test_end_at_supervisor :
    (next? (exec .endTask (dying 0x100000 0x20040)) fun t => !t.here.busy && t.here.replay == [] && t.arrivals.length == 1
      && t.keyRels == [⟨0, 3⟩])
    ∧ (next? (exec .endTask (dying 0x100000 0x30000)) fun t => t.arrivals == []
      && bits ((t.facet 0).log.entry 0).1.toNat 55 48 == 12) := by decide +kernel

/-- A copy of `rows` rows of `n` bytes from 0x10000 to 0x20000. -/
def copyOf (rows n : Nat) : Cmd := cmd 1 9 (rows * 2 ^ 208 + 64 * 2 ^ 160 + 64 * 2 ^ 184 + n * 2 ^ 128 + 0x20000 * 2 ^ 64 + 0x10000)
/-- A copy of 16 bytes from the region of slot 3 under generation 5. -/
def fromRegion : Cmd := cmd 1 9 (2 ^ 239 + 16 * 2 ^ 128 + 0x20000 * 2 ^ 64 + (2 ^ 48 + 3 * 2 ^ 20 + 5))
def region3 (gen len : Nat) : State := (queued .cp fromRegion).setRegion 3 ⟨0x10000, len, 3, true, 0, gen⟩
def stage (count : Nat) : Cmd := cmd 5 9 (count * 2 ^ 64 + 31)

theorem witness_CopyChecks :
    ((queued .cp (copyOf 1 16)).engineAt 0 .cp (copyOf 1 16) [] ∧ (copyOf 1 16).phase = .queued ∧ (copyOf 1 16).out = []
      ∧ wOpc (copyOf 1 16).word = 1 ∧ (queued .cp (copyOf 1 16)).copyCheck (copyOf 1 16) = none ∧ (copyOf 1 16).total ≠ 0
      ∧ (queued .cp (copyOf 1 0)).copyCheck (copyOf 1 0) = none ∧ (copyOf 1 0).total = 0)
    ∧ (5 ≤ wScope (cmd 1 9 (5 * 2 ^ 240)).word ∧ wScope (copyOf 2 65).word < 5 ∧ copyReserved (copyOf 2 65).word = false
        ∧ copyLimit (copyOf 2 65).word = true)
    ∧ ((region3 6 16).engineAt 0 .cp fromRegion [] ∧ ¬ (5 ≤ wScope fromRegion.word ∨ copyReserved fromRegion.word = true)
        ∧ copyLimit fromRegion.word = false ∧ copyHandle fromRegion.word = some (2 ^ 48 + 3 * 2 ^ 20 + 5) ∧ hDevice (2 ^ 48 + 3 * 2 ^ 20 + 5) = 0
        ∧ (region3 6 16).staleRegion (2 ^ 48 + 3 * 2 ^ 20 + 5) = true ∧ (region3 5 15).staleRegion (2 ^ 48 + 3 * 2 ^ 20 + 5) = false
        ∧ ((region3 5 15).region (hSlot (2 ^ 48 + 3 * 2 ^ 20 + 5))).len < cHoff fromRegion.word + cCount fromRegion.word)
    ∧ (wOpc (stage 1).word = 5 ∧ copyReserved (stage 1).word = false ∧ wScope (stage 1).word < 5 ∧ wf (stage 0).word 95 64 = 0
        ∧ wf (stage 1).word 95 64 ≠ 0 ∧ wf (stage 1).word 4 0 = 31) := by
  unfold State.engineAt; decide +kernel

/-- A command of no opcode, and a copy out of a region that grants no reads. -/
def unassigned : Cmd := cmd 0 9 0
def unreadable : State := (queued .cp fromRegion).setRegion 3 ⟨0x10000, 16, 2, true, 0, 5⟩

theorem witness_CopyChecks_opcode_and_direction :
    ((queued .cp unassigned).engineAt 0 .cp unassigned [] ∧ unassigned.phase = .queued ∧ unassigned.out = [] ∧ wOpc unassigned.word = 0)
    ∧ (unreadable.engineAt 0 .cp fromRegion [] ∧ wOpc fromRegion.word = 1 ∧ cSH fromRegion.word = true
        ∧ unreadable.staleRegion (2 ^ 48 + 3 * 2 ^ 20 + 5) = false
        ∧ (unreadable.region (hSlot (2 ^ 48 + 3 * 2 ^ 20 + 5))).perm % 2 = 0) := by
  unfold State.engineAt; decide +kernel

/-- Words of every copy opcode: with a handle or none, reserved bits, limits. -/
theorem witness_CopyChecks_words :
    let w (opc ops : Nat) : Tile := BitVec.ofNat 256 (opc * 2 ^ 248 + ops)
    (wOpc (w 1 (2 ^ 239)) = 1 ∧ copyReserved (w 1 (2 ^ 239)) = false ∧ copyReserved (w 1 (2 ^ 224)) = true
      ∧ copyLimit (w 1 (2 ^ 239 + 2 ^ 48)) = false ∧ copyLimit (w 1 (2 ^ 239 + 2 ^ 49)) = true)
    ∧ (wOpc (w 4 (2 ^ 238)) = 4 ∧ copyReserved (w 4 (2 ^ 184)) = true ∧ copyReserved (w 4 (2 ^ 238 + 2 ^ 112)) = false
        ∧ copyHandle (w 4 (2 ^ 238 + 2 ^ 112)) = some (2 ^ 48))
    ∧ (wOpc (w 2 0) = 2 ∧ wOpc (w 3 0) = 3 ∧ copyLimit (w 2 (2 ^ 128)) = true ∧ copyReserved (w 3 (2 ^ 238)) = true)
    ∧ (wOpc (w 5 0) = 5 ∧ copyReserved (w 5 (2 ^ 96)) = true ∧ copyReserved (w 5 (2 ^ 95 + 31)) = false) := by decide +kernel

/-- The status of a command that has answered into its token register. -/
def answers (i : Instr) (s : State) (tok : Nat) (st : Int) : Bool :=
  next? (exec i s) fun t => (t.slot 0).s tok == BitVec.ofInt 64 st && !(t.slot 0).isPend tok

theorem test_copy_checks :
    answers (.cpy 0) (queued .cp unassigned) 9 (-1) ∧ answers (.cpy 0) unreadable 9 (-4)
    ∧ answers (.cpy 0) (queued .cp (cmd 1 9 (5 * 2 ^ 240))) 9 (-1) ∧ answers (.cpy 0) (queued .cp (copyOf 2 65)) 9 (-8)
    ∧ answers (.cpy 0) (region3 6 16) 9 (-5) ∧ answers (.cpy 0) (region3 5 15) 9 (-4) ∧ answers (.cpy 0) (queued .cp (copyOf 1 0)) 9 0
    ∧ answers (.stga 0) (queued .cp (stage 0)) 9 0
    ∧ next? (exec (.stga 0) (queued .cp (stage 7))) fun t => ((t.facet 0).bar 31).armed && ((t.facet 0).bar 31).count == 7
        && (t.slot 0).isPend 9 && (t.slot 0).cpq == [] := by decide +kernel

/-- A copy from a region of device 9, to which no route leads. -/
def fromFar : Cmd := cmd 1 9 (2 ^ 239 + 16 * 2 ^ 128 + 0x20000 * 2 ^ 64 + (9 * 2 ^ 52 + 2 ^ 48 + 3 * 2 ^ 20 + 5))
def farCopy : State := { queued .cp fromFar with peers := [9] }

theorem witness_CopyChecks_routes :
    (farCopy.engineAt 0 .cp fromFar [] ∧ fromFar.phase = .queued ∧ fromFar.out = [] ∧ wOpc fromFar.word = 1 ∧ farCopy.handleWaits fromFar = true)
    ∧ (region3 5 16).handleHere (2 ^ 48 + 3 * 2 ^ 20 + 5) = true ∧ (queued .cp (copyOf 1 16)).handleWaits (copyOf 1 16) = false := by
  unfold State.engineAt; decide +kernel

def going (c : Cmd) : Cmd := { c with phase := .started }
def source : State := stored base 0x10000 [1, 2, 3, 4, 5, 6, 7, 8]
/-- Two elements of 2 bytes by the indexes at 0x10040. -/
def gather (opc : Nat) : Cmd := cmd opc 9 (2 * 2 ^ 216 + 2 * 2 ^ 192 + 0x10040 * 2 ^ 128 + 0x20000 * 2 ^ 64 + 0x10000)
def gathered : State := stored source 0x10040 [1, 0, 0, 0]

theorem witness_CopyMoves :
    (let c := going (copyOf 2 16)
     let s := queued .cp c source
     s.engineAt 0 .cp c [] ∧ c.phase = .started ∧ c.poisoned = false ∧ c.ending = 0 ∧ c.pos < c.total ∧ c.todo = []
      ∧ s.remoteHandle c.word = none ∧ s.revokedAt c = false ∧ c.atBoundary = false ∧ s.writable 0 0 0x20000 ⟨2 ^ 48, none⟩
      ∧ s.reads 0 0 0x10000 16 (rdBytes source.mem 0x10000 16))
    ∧ (let c := going (gather 2)
       let s := queued .cp c gathered
       s.engineAt 0 .cp c [] ∧ c.poisoned = false ∧ c.ending = 0 ∧ c.rpos < chunkEnd c ∧ s.reads 0 0 (gIdx c.word + 4 * 0) 4 [1, 0, 0, 0]
        ∧ s.reads 0 0 (cSrc c.word + 1 * gElen c.word) 2 [3, 4])
    ∧ (let c := { going (gather 3) with rpos := 4, todo := [(0x20002, [1, 2], [])] }
       let s := queued .cp c gathered
       s.engineAt 0 .cp c [] ∧ wOpc c.word = 3 ∧ chunkEnd c ≤ c.rpos ∧ s.writable 0 0 0x20002 ⟨2 ^ 48 + 2, none⟩) := by
  unfold State.engineAt State.writable State.reads; decide +kernel

theorem test_copy_moves :
    (next? (exec (.cpy 0) (queued .cp (going (copyOf 2 16)) source)) fun t =>
      (t.slot 0).cpq.map (fun c => (c.pos, c.out.map (·.data))) == [(16, [[1, 2, 3, 4, 5, 6, 7, 8, 0, 0, 0, 0, 0, 0, 0, 0]])])
    ∧ (next? (exec (.cpyg 0) (queued .cp (going (gather 2)) gathered)) fun t =>
      (t.slot 0).cpq.map (·.todo) == [[(0x20000, [3, 4], [])]]) := by decide +kernel

/-- The last delivery of a finished copy, counted by a barrier or not. -/
def lastDeliv (ops : Nat) : Cmd :=
  { cmd 1 9 ops with phase := .finished, status := 2, out := [⟨0x20000, 0, ⟨2 ^ 48, none⟩, [5, 6], [], 0⟩] }
def counted (n : Nat) : State :=
  let s := queued .cp (lastDeliv (2 ^ 237 + 31 * 2 ^ 232))
  s.setFacet 0 ((s.facet 0).setBar 31 ⟨true, n, false, some 0, 4, 7, n⟩)

theorem witness_DeliveryPerforms :
    (((queued .cp (lastDeliv 0)).slot 0).queue .cp = [lastDeliv 0] ∧ (lastDeliv 0).out = [⟨0x20000, 0, ⟨2 ^ 48, none⟩, [5, 6], [], 0⟩]
      ∧ (queued .cp (lastDeliv 0)).revokedAhead (lastDeliv 0) 0 = false ∧ (queued .cp (lastDeliv 0)).cutOff (2 ^ 48) = false ∧ (queued .cp (lastDeliv 0)).stationaryAt (2 ^ 48) = false
      ∧ (queued .cp (lastDeliv 0)).asleep (2 ^ 48) = false ∧ (lastDeliv 0).barrier = none ∧ (lastDeliv 0).phase = .finished)
    ∧ (((counted 2).slot 0).queue .cp = [lastDeliv (2 ^ 237 + 31 * 2 ^ 232)] ∧ (lastDeliv (2 ^ 237 + 31 * 2 ^ 232)).barrier = some 31
        ∧ (((counted 2).facet (0 / 256)).bar 31).armed = true ∧ (((counted 2).facet (0 / 256)).bar 31).owner = some ((counted 2).ctxOf 0)
        ∧ [5, 6].length = (((counted 2).facet (0 / 256)).bar 31).count ∧ [5, 6].length < (((counted 3).facet (0 / 256)).bar 31).count
        ∧ (((counted 2).facet (0 / 256)).bar 31).slot ≠ 0 ∧ (((counted 1).facet (0 / 256)).bar 31).count < [5, 6].length
        ∧ (((queued .cp (lastDeliv (2 ^ 237 + 31 * 2 ^ 232))).facet (0 / 256)).bar 31).armed = false
        ∧ (((queued .cp (lastDeliv (2 ^ 237 + 31 * 2 ^ 232))).facet (0 / 256)).bar 31).owner = none) := by decide +kernel

/-- Two entries, the second with two deliveries to HBM granules of one copy, the first not complete. -/
def second2 : Cmd :=
  { cmd 1 10 0 with
    phase := .finished, status := 4, pos := 4
    out := [⟨0x20000, 0, ⟨2 ^ 48 + 0x100, none⟩, [1, 2], [], 0⟩, ⟨0x20002, 0, ⟨2 ^ 48 + 0x102, none⟩, [3, 4], [], 2⟩] }
def twoEntries (s : State := base) (c : Cmd := second2) : State :=
  s.setHere { s.here with pend := [9, 10], cpq := [lastDeliv 0, c] }
/-- Its first delivery goes to a stationary macro, behind an erased key slot, or to a device that is out of reach; or the
command is a CPYS, or its region is stale. -/
def redirected (p : Place) : Cmd := { second2 with out := [⟨0x20000, 0, p, [1, 2], [], 0⟩, ⟨0x20002, 0, ⟨2 ^ 48 + 0x102, none⟩, [3, 4], [], 2⟩] }
def cpysEntry : Cmd := { second2 with word := (cmd 3 10 0).word }
def staleEntry : Cmd := { second2 with word := fromRegion.word }

theorem witness_DeliveryPerforms_any :
    let at_ (s : State) (c : Cmd) (k : Nat) (d : Deliv) : Prop := ((s.slot 0).queue .cp)[1]? = some c ∧ c.out[k]? = some d
    let holds (s : State) (c : Cmd) (x : Deliv) : Prop :=
      s.keyLost x.place = false ∧ (devOf x.place.pa ≠ 0 ∧ c.laterDone x = true
        ∨ s.cutOff x.place.pa = false ∧ s.stationaryAt x.place.pa = false)
    let d0 : Deliv := ⟨0x20000, 0, ⟨2 ^ 48 + 0x100, none⟩, [1, 2], [], 0⟩
    let d1 : Deliv := ⟨0x20002, 0, ⟨2 ^ 48 + 0x102, none⟩, [3, 4], [], 2⟩
    let macro_ : Place := ⟨2 ^ 49 + 0x10000, none⟩
    let lost : Place := ⟨0x10000, some 7⟩
    let far : Place := ⟨9 * 2 ^ 52 + 0x10000, none⟩
    let far9 : State := { base with peers := [9], unreachable := [9] }
    (at_ (twoEntries) second2 1 d1 ∧ second2.mustWait 1 d1 = false ∧ holds twoEntries second2 d0 ∧ holds twoEntries second2 d1
      ∧ twoEntries.revokedAhead second2 2 = false ∧ twoEntries.asleep (2 ^ 48 + 0x102) = false ∧ second2.barrier = none)
    ∧ (at_ (twoEntries base cpysEntry) cpysEntry 1 d1 ∧ cpysEntry.mustWait 1 d1 = true)
    ∧ (at_ (heldMacro (twoEntries base (redirected macro_))) (redirected macro_) 0 { d0 with place := macro_ }
        ∧ ¬ holds (heldMacro (twoEntries base (redirected macro_))) (redirected macro_) { d0 with place := macro_ })
    ∧ (at_ (twoEntries base (redirected lost)) (redirected lost) 0 { d0 with place := lost }
        ∧ (twoEntries base (redirected lost)).keyLost lost = true)
    ∧ (at_ (twoEntries far9 (redirected far)) (redirected far) 0 { d0 with place := far }
        ∧ (twoEntries far9 (redirected far)).cutOff far.pa = true ∧ (redirected far).laterDone { d0 with place := far } = false
        ∧ (twoEntries far9 (redirected far)).keyLost far = false
        ∧ ({ redirected far with out := [{ d0 with place := far }] } : Cmd).laterDone { d0 with place := far } = true)
    ∧ (at_ (twoEntries base staleEntry) staleEntry 0 d0 ∧ (twoEntries base staleEntry).revokedAhead staleEntry 0 = true) := by
  decide +kernel

/-- A later entry's last delivery leaves its token pending behind the first entry; a stationary macro ends the command with the
bytes before it, and nothing behind it is written (R86, R88, R110, R333). -/
theorem test_delivery_any :
    (next? (exec (.delivery 0 1 1 false) twoEntries) fun t => rdBytes t.mem (2 ^ 48 + 0x102) 2 == [3, 4] && t.here.pend == [9, 10]
      && t.here.cpq.map (·.out.length) == [1, 1])
    ∧ (next? (exec (.delivery 0 1 0 false) (heldMacro (twoEntries base (redirected ⟨2 ^ 49 + 0x10000, none⟩)))) fun t =>
      t.here.cpq.map (·.status) == [2, -4] && t.here.cpq.map (·.out.length) == [1, 0] && t.mem == base.mem) := by decide +kernel

/-- Slot 0 has read the bytes of the delivery ahead; the barrier that counts it was armed by slot 0 itself, under register 7. -/
def aheadOfDelivery (owner : Nat) : State :=
  let s := counted 3
  let s1 := s.setHere { s.here with early := [⟨0x20000, ⟨2 ^ 48, none⟩, [0, 0], [], false, 0, []⟩] }
  s1.setFacet 0 ((s1.facet 0).setBar 31 ⟨true, 3, false, some owner, 0, 7, 3⟩)

theorem witness_DeliveryPerforms_marks :
    let y (n : Nat) : Barrier := ((aheadOfDelivery n).facet (0 / 256)).bar 31
    (y 0).armed = true ∧ (y 0).owner = some ((aheadOfDelivery 0).ctxOf 0) ∧ (y 0).slot = 0 ∧ (y 9).owner ≠ some ((aheadOfDelivery 9).ctxOf 0)
    ∧ (aheadOfDelivery 0).here.early.map (·.meets (2 ^ 48) 2) = [true] := by decide +kernel

/-- The early load stays; the copy's token, and that of a barrier which counts the delivery, stand for its bytes (R87, R94). -/
theorem test_marks :
    (next? (exec (.delivery 0 0 0 false) (aheadOfDelivery 0)) fun t => t.here.early.map (·.behind) == [[7, 9]])
    ∧ (next? (exec (.delivery 0 0 0 false) (aheadOfDelivery 9)) fun t => t.here.early.map (·.behind) == [[9]]) := by decide +kernel

theorem test_delivery :
    answers (.delivery 0 0 0 false) (queued .cp (lastDeliv 0)) 9 2
    ∧ (next? (exec (.delivery 0 0 0 false) (counted 2)) fun t => (t.slot 4).s 7 == 2 && !((t.facet 0).bar 31).armed
        && t.mem == [(2 ^ 48, 5), (2 ^ 48 + 1, 6)])
    ∧ (next? (exec (.delivery 0 0 0 false) (counted 3)) fun t => ((t.facet 0).bar 31).count == 1)
    ∧ (next? (exec (.delivery 0 0 0 false) (counted 1)) fun t => (t.slot 4).s 7 == 1 && ((t.facet 0).bar 31).overrun
        && !((t.facet 0).bar 31).armed) := by decide +kernel

/-! ## The matrix unit -/

/-- A TLW of one INT8 weight at 0x10000 into macro 1. -/
def tlw : Cmd := cmd 0x10 10 (1 * 2 ^ 170 + 1 * 2 ^ 161 + 1 * 2 ^ 152 + 0x40000 * 2 ^ 64 + 0x10000)
def begun : Cmd := { tlw with phase := .started, pos := 2 }
/-- Macro 1 stationary for a context, with one accumulator element. -/
def stationary (owner : Nat) (w : Which → State) : State :=
  (w .mx).setMac 0 1 { Mac.reset with st := .stationary, owner := owner, kst := 1, acc := [(256 * 3 + 2, ⟨-5, false⟩)], anchor := [(3, 1)] }
def trel : Cmd := cmd 0x11 11 0x40000
def tacz : Cmd := cmd 0x14 11 (1 * 2 ^ 236 + 2 * 2 ^ 232 + 1 * 2 ^ 228 + 0x3FC * 2 ^ 218)
def loadSrc : State := (queued .mx begun (stored base 0x10000 [0xFE])).setMac 0 1 { Mac.reset with st := .loading }

theorem witness_MatrixTiles :
    ((queued .mx tlw).engineAt 0 .mx tlw [] ∧ tlw.out = [] ∧ wScope tlw.word ≤ 4 ∧ wOpc tlw.word = 0x10 ∧ tlw.phase = .queued
      ∧ (queued .mx tlw).macroHeld 0 0 1 = false ∧ (queued .mx tlw).inboundTo 0 1 = false ∧ tlwCheck tlw = none ∧ (queued .mx tlw).macroAt (0 / 256) 0 (tMaddr tlw.word) = (some 1, .none)
      ∧ ((queued .mx tlw).mac (0 / 256) 1).st = .data ∧ tlw.loads ≠ some 1
      ∧ ((stationary 0 (queued · tlw)).mac (0 / 256) 1).st = .stationary)
    ∧ (loadSrc.engineAt 0 .mx begun [] ∧ begun.out = [] ∧ begun.phase = .started ∧ tlwCheck begun = none ∧ begun.loads = some 1
        ∧ (loadSrc.mac (0 / 256) 1).ret = .awake
        ∧ loadSrc.fetchList (0 / 256) 0 (((List.range (tKld begun.word)).map fun k => (tSrc begun.word + k * tPitch begun.word, 1 * tNcol begun.word))
            ++ scaleRange begun.scb.toNat (tNcol begun.word * 1)) = ⟨loadSrc, [[0xFE]], false, .none⟩)
    ∧ ((stationary 0 (queued · trel)).macroHeld 0 0 1 = false ∧ (stationary 0 (queued · tacz)).macroHeld 0 0 1 = false ∧ wOpc trel.word = 0x11 ∧ wf trel.word 239 64 = 0 ∧ (stationary 0 (queued · trel)).macroAt (0 / 256) 0 (wf trel.word 63 0) = (some 1, .none)
        ∧ ((stationary 0 (queued · trel)).mac (0 / 256) 1).owner = 0 ∧ ((stationary 4 (queued · trel)).mac (0 / 256) 1).owner ≠ 0)
    ∧ (wOpc tacz.word = 0x14 ∧ wf tacz.word 217 0 = 0 ∧ aRow tacz.word + aMn tacz.word ≤ 15 ∧ 1 = aMb tacz.word) := by
  unfold State.engineAt; decide +kernel

theorem test_matrix_tiles :
    answers (.tlw 0) (stationary 0 (queued · tlw)) 10 (-11) ∧ answers (.trel 0) (stationary 4 (queued · trel)) 11 (-4)
    ∧ answers (.trel 0) (queued .mx trel) 11 (-2)
    ∧ (next? (exec (.tacz 0) (stationary 0 (queued · tacz))) fun t => (t.mac 0 1).accAt 3 2 == ⟨0, false⟩ && (t.mac 0 1).anchorAt 2 == -4) := by
  decide +kernel

theorem test_tlw_completes :
    answers (.tlw 0) loadSrc 10 1 ∧ (next? (exec (.tlw 0) loadSrc) fun t => weightAt t.mem 0 1 0 0 0 == 0xFE && (t.mac 0 1).st == .stationary) := by
  decide +kernel

/-- A TACS of slot 1 that has begun on macro 1. -/
def holding (s : State) : State :=
  s.setSlot 1 { s.slot 1 with mxq := [{ cmd 0x15 12 (1 * 2 ^ 236) with phase := .started }] }
/-- A TLW that was saved in the middle of its load of macro 1, and resumed; one names no macro, the other an illegal tile. -/
def resumed (c : Cmd) : State := (queued .mx c).setMac 0 1 { Mac.reset with st := .loading, resm := true, owner := 0 }
def astray : Cmd := { cmd 0x10 10 (1 * 2 ^ 170 + 1 * 2 ^ 161 + 1 * 2 ^ 152 + 0x10000 * 2 ^ 64 + 0x10000) with pos := 2 }
def shapeless : Cmd := { cmd 0x10 10 (0x40000 * 2 ^ 64 + 0x10000) with pos := 2 }

theorem witness_MatrixTiles_held :
    (holding (queued .mx tlw)).macroHeld 0 0 1 = true ∧ (holding (queued .mx trel)).macroHeld 0 0 1 = true
    ∧ (holding (queued .mx tacz)).macroHeld 0 0 1 = true ∧ (holding (queued .mx tlw)).engineAt 0 .mx tlw []
    ∧ (holding (queued .mx tlw)).macroAt 0 0 (tMaddr tlw.word) = (some 1, .none)
    ∧ tlw.loads = none := by
  unfold State.engineAt; decide +kernel

theorem witness_MatrixTiles_resumed :
    ((resumed astray).engineAt 0 .mx astray [] ∧ wOpc astray.word = 0x10 ∧ astray.phase = .queued ∧ tlwCheck astray = none
      ∧ (resumed astray).macroAt 0 0 (tMaddr astray.word) = (none, .none)
      ∧ ((resumed astray).mac 0 1).st = .loading ∧ ((resumed astray).mac 0 1).resm = true ∧ ((resumed astray).mac 0 1).owner = 0)
    ∧ ((resumed shapeless).engineAt 0 .mx shapeless [] ∧ wOpc shapeless.word = 0x10 ∧ tlwCheck shapeless ≠ none)
    ∧ ((stationary 4 (queued · tacz)).mac 0 1).owner ≠ 0 := by
  unfold State.engineAt; decide +kernel

theorem test_matrix_waits :
    (next? (exec (.trel 0) (holding (queued .mx trel))) fun t => t.here.mxq == [{ trel with start := some t.tick }] && t.facets == (queued .mx trel).facets)
    ∧ answers (.tacz 0) (stationary 4 (queued · tacz)) 11 (-4)
    ∧ (next? (exec (.tlw 0) (resumed astray)) fun t => (t.mac 0 1).st == .data && (t.slot 0).s 10 == -4) := by
  decide +kernel

/-- TACZ of slot 0 behind a TACZ of slot 1 that has started and waits; the TREL that has started itself. -/
def queuedBehind : State :=
  let s := stationary 0 (queued · tacz)
  s.setSlot 1 { s.slot 1 with mxq := [{ tacz with start := some 1 }] }
def keptFrom (c : Cmd) : State := (queued .mx c).setMac 0 1 { Mac.reset with st := .loading, resm := true, owner := 0 }

theorem witness_MatrixTiles_waits :
    (queuedBehind.engineAt 0 .mx tacz [] ∧ queuedBehind.macroHeld 0 0 1 = true ∧ tacz.start = none ∧ tacz.phase = .queued
      ∧ ((queuedBehind.slot 1).mxq[0]? = some { tacz with start := some 1 }) ∧ (queuedBehind.mac 0 1).st = .stationary)
    ∧ ((keptFrom trel).engineAt 0 .mx trel [] ∧ (keptFrom trel).macroAt 0 0 (wf trel.word 63 0) = (some 1, .none)
        ∧ ((keptFrom trel).mac 0 1).st = .loading ∧ ((keptFrom trel).mac 0 1).resm = true ∧ ((keptFrom trel).mac 0 1).owner = 0)
    ∧ (queued .mx tlw).macroAt 0 0 (tMaddr tlw.word) = (some 1, .none)
    ∧ ((holding (queued .mx { trel with start := some 4 })).engineAt 0 .mx { trel with start := some 4 } []
        ∧ (holding (queued .mx { trel with start := some 4 })).macroHeld 0 0 1 = true) := by
  unfold State.engineAt; decide +kernel

/-- A command that waits for its macro has its place in the start order; before that, a pre-empted load of its context holds it
back (R173). -/
theorem test_start_order :
    (next? (exec (.tacz 0) queuedBehind) fun t => t.here.mxq == [{ tacz with start := some t.tick }])
    ∧ (next? (exec (.trel 0) (keptFrom trel)) fun t => t == keptFrom trel)
    ∧ (next? (exec (.tacz 0) (stationary 0 (queued · { tacz with start := some 1 }))) fun t => t.here.mxq == []) := by decide +kernel

/-- Element (3, 2) of macro 1 to 0x10000 as INT32. -/
def tacs : Cmd := cmd 0x15 12 (1 * 2 ^ 236 + 3 * 2 ^ 232 + 2 * 2 ^ 220 + 0x10000) (2 * 2 ^ 6)
/-- Two INT8 elements of x at 0x10000 and of y at 0x10008, the sum as INT32 to 0x10010. -/
def tdot : Cmd := cmd 0x16 13 (2 * 2 ^ 220 + 0x10010 * 2 ^ 128 + 0x10008 * 2 ^ 64 + 0x10000) (2 * 2 ^ 6)
def dots : State := queued .mx tdot (stored base 0x10000 [3, 0xFF, 0, 0, 0, 0, 0, 0, 2, 4])
def sending : Cmd := { tacs with phase := .started, todo := [(0x10000, [1, 2, 3, 4], [])], status := 4 }

theorem witness_MatrixResults :
    ((stationary 0 (queued · tacs)).engineAt 0 .mx tacs [] ∧ tacs.out = [] ∧ wScope tacs.word ≤ 4 ∧ wOpc tacs.word = 0x15 ∧ tacs.phase = .queued
      ∧ wf tacs.word 211 88 = 0 ∧ mxO tacs.mxcfg ≤ 4 ∧ aRow tacs.word + aMn tacs.word ≤ 15 ∧ sC0 tacs.word + sNcm tacs.word ≤ 255
      ∧ aMn tacs.word = 0 ∧ (stationary 0 (queued · tacs)).macroHeld 0 0 (aMb tacs.word) = false ∧ ((stationary 0 (queued · tacs)).mac (0 / 256) (aMb tacs.word)).st = .stationary
      ∧ ((stationary 0 (queued · tacs)).mac (0 / 256) (aMb tacs.word)).owner = 0)
    ∧ (dots.engineAt 0 .mx tdot [] ∧ wOpc tdot.word = 0x16 ∧ tdot.phase = .queued ∧ tdotCheck tdot = none
        ∧ dots.fetchList (0 / 256) 0 (tdotRanges tdot) = ⟨dots, [[3], [2], [0xFF], [4]], false, .none⟩)
    ∧ ((queued .mx sending).engineAt 0 .mx sending [] ∧ sending.todo = [(0x10000, [1, 2, 3, 4], [])]
        ∧ (queued .mx sending).writable 0 0 0x10000 ⟨0x10000, none⟩) := by
  unfold State.engineAt State.writable; decide +kernel

/-- A TDOT behind a TACS that has started and waits for its macro. -/
def passing : State := dots.setHere { dots.here with mxq := [{ tacs with start := some 1 }, tdot] }

theorem witness_MatrixResults_passing :
    let c : Cmd := { tacs with start := some 1 }
    passing.engineAt 0 .mx c [tdot] ∧ c.phase = .queued ∧ c.start ≠ none ∧ c.wait = none ∧ wOpc c.word ≠ 0x16 ∧ tdot.out = []
    ∧ passing.fetchList (0 / 256) 0 (tdotRanges tdot) = ⟨passing, [[3], [2], [0xFF], [4]], false, .none⟩ := by
  unfold State.engineAt; decide +kernel

/-- A TDOT waits for no other command (R173). -/
theorem test_tdot_passes :
    next? (exec (.tdot 0) passing) fun t => t.here.mxq.map (·.todo) == [[], [(0x10010, [2, 0, 0, 0], [])]] := by decide +kernel

/-- −5 at anchor 1 is −10; 3·2 − 1·4 is 2. -/
theorem test_matrix_results :
    (next? (exec (.tacs 0) (stationary 0 (queued · tacs))) fun t => (t.slot 0).mxq.map (·.todo) == [[(0x10000, [0xF6, 0xFF, 0xFF, 0xFF], [])]])
    ∧ (next? (exec (.tdot 0) dots) fun t => (t.slot 0).mxq.map (·.todo) == [[(0x10010, [2, 0, 0, 0], [])]]) := by decide +kernel

/-- A TMM of row 0 of macro 1 with the one INT8 element of v4, or of the scratchpad. -/
def tmm : Cmd := { cmd 0x12 22 (1 * 2 ^ 184 + 1 * 2 ^ 169 + 4) with vcap := (Vector.replicate 8 0).set 0 0xFD }
def tmmb : Cmd := cmd 0x13 22 (1 * 2 ^ 224 + 1 * 2 ^ 184 + 0x10080 * 2 ^ 64 + 0x30000)
def product (c : Cmd) : State :=
  stored ((queued .mx c).setMac 0 1 { Mac.reset with st := .stationary, owner := 0, kst := 1, acc := [(0, ⟨2, false⟩)] })
    (2 ^ 49 + 0x10000) [7, 1]

theorem witness_MatrixProduct :
    ((product tmm).engineAt 0 .mx tmm [] ∧ tmm.out = [] ∧ tmm.phase = .queued ∧ (product tmm).clean
      ∧ (product tmm).mmCheck (0 / 256) 0 tmm = none ∧ (∀ m ∈ mmGroup tmm.word, (product tmm).macroHeld 0 0 m = false) ∧ wOpc tmm.word = 0x12 ∧ pAsrc tmm.word = true ∧ tmm.sca = 0)
    ∧ ((product tmmb).engineAt 0 .mx tmmb [] ∧ tmmb.phase = .queued ∧ (product tmmb).clean ∧ (product tmmb).mmCheck (0 / 256) 0 tmmb = none
        ∧ (∀ m ∈ mmGroup tmmb.word, (product tmmb).macroHeld 0 0 m = false) ∧ wOpc tmmb.word = 0x13 ∧ (product tmmb).reads 0 0 (pBit tmmb.word) (2 * pNb tmmb.word) [0, 0]
        ∧ tableOf [0, 0] (pNb tmmb.word) = [(0, 0)] ∧ 0 < ceilDiv ((pGn tmmb.word + 1) * ((product tmmb).mac (0 / 256) (pMb tmmb.word)).kst) 32
        ∧ pAsrc tmmb.word = false ∧ (product tmmb).reads 0 0 (mmAddr tmmb.word 1 1 0 0) 1 (toBytes 0 1)
        ∧ (product tmmb).outsideSpad (0 / 256) 0 (mmAddr tmmb.word 1 1 0 0) = false) := by
  unfold State.engineAt State.clean State.reads; decide +kernel

/-- 2 + (−3)·7 is −19 in column 0, −3 in column 1. -/
theorem test_tmm :
    next? (exec (.tmm 0) (product tmm)) fun t => (t.mac 0 1).accAt 0 0 == ⟨-19, false⟩ && (t.mac 0 1).accAt 0 1 == ⟨-3, false⟩
      && (t.slot 0).s 22 == 0 := by decide +kernel

/-! ## The stream unit -/

/-- A stream command of length code 0 on registers 1 and 2 into 3, and streams there with the given masks. -/
def stream (opc ops : Nat) : Cmd := cmd opc 6 ops
def streams (c : Cmd) (ma mb : BitVec 16) : State :=
  let s := queued .ss c
  let x := s.facet 0
  s.setFacet 0 { x with sregs := [(1, ⟨0xFF, true, 0, ma⟩), (2, ⟨0x0F, true, 0, mb⟩)], gens := [(4, 1)] }
def sand (c : Nat) : Cmd := stream 0x22 (c * 2 ^ 237 + 3 * 2 ^ 232 + 1 * 2 ^ 228 + 2 * 2 ^ 224)

theorem witness_StreamCommands :
    ((streams (sand 0) 1 2).working 0 = true ∧ ((streams (sand 0) 1 2).slot 0).bypass = [] ∧ ((streams (sand 0) 1 2).slot 0).hold = false
      ∧ ((streams (sand 0) 1 2).slot 0).ssq = [sand 0] ∧ ((streams (sand 0) 1 2).slot 0).sso.length < 8 ∧ wOpc (sand 0).word = 0x22
      ∧ stReserved (sand 0) = false ∧ ((streams (sand 0) 1 2).facet 0).sOwner = none ∧ ((streams (sand 0) 1 2).facet 0).streamLimit (sand 0) = false
      ∧ ((streams (sand 0) 1 2).facet 0).correlated (sand 0) = false ∧ ((streams (sand 0) 1 1).facet 0).correlated (sand 0) = true)
    ∧ (stReserved (stream 0x25 (2 ^ 224)) = true ∧ ((streams (stream 0x25 0) 0 0).facet 0).streamLimit (stream 0x25 0) = true)
    ∧ (let x : Facet := { (streams (sand 0) 1 2).facet 0 with sOwner := some 9 }
       ¬ (x.sOwner = none ∨ x.sOwner = some 0)) := by decide +kernel

theorem test_streams :
    (next? (exec (.sand 0) (streams (sand 0) 1 2)) fun t => (t.slot 0).s 6 == 4 && (t.facet 0).sreg 3 == ⟨0x0F, true, 0, 3⟩)
    ∧ answers (.sand 0) (streams (sand 0) 1 1) 6 (-12) ∧ answers (.snot 0) (streams (stream 0x25 0) 0 0) 6 (-8)
    ∧ (next? (exec (.snot 0) (streams (stream 0x25 (3 * 2 ^ 232 + 1 * 2 ^ 228)) 1 2)) fun t => (t.slot 0).s 6 == 56)
    ∧ (next? (exec (.scnt 0) (streams (stream 0x27 (1 * 2 ^ 228)) 1 2)) fun t => (t.slot 0).sso == [8]) := by decide +kernel

/-! ## The proximity index -/

/-- A request of slot 0 for a function: IXNEW with a parameter block, IXDEL, STV, LDN, IXSTAT. -/
def req (i : Instr) (a : Dword) (z : Dword := 0) (blk : Vector Dword 4 := Vector.replicate 4 0) : IxReq :=
  ixReq i a (some ⟨0x10100, none⟩) 0x10100 z blk 0 12
def asked (r : IxReq) (s : State := mapped) : State := s.setHere { s.here with ixq := [r], pend := [12] }
/-- NW 1, HOME 0, WB 2, metric 0, M 2, D 4, CAP 2, the areas at pages 5 and 6. -/
def block : Vector Dword 4 := #v[0x0100000200020004, 2, 0x50000, 0x60000]
def create (b : Vector Dword 4) : IxReq := req (.ixnew 12 1) 0 0 b
def handle : Dword := 0x0002000000300007
/-- Slot 3 of the index table in use by context 0. -/
def indexed (count : Nat) (r : IxReq) : State :=
  let s := asked r
  s.setIndex 3 ⟨7, true, 0, 1, 0, 2, 0, 2, 4, 2, [⟨0x500000, none⟩], [⟨0x510000, none⟩], count, [], [], false, []⟩
def ixdel : IxReq := req (.ixdel 12 1) handle
def ixstat : IxReq := req (.ixstat 12 1) handle
def stv : IxReq := req (.stv 12 1 2) handle 99
def ldn : IxReq := req (.ldn 12 1 2) handle 0x0000000000020001
def walked : IxReq := { ldn with phase := .walking, snap := 1, vis := 1, cands := [⟨5, 0, true⟩] }
def pushing : IxReq := { ldn with phase := .pushing, recs := [⟨1, 2, 0⟩] }

theorem witness_IndexUnits :
    ((asked (create block)).requestAt 0 0 (create block) ∧ (create block).phase = .queued ∧ (create block).fn = 0 ∧ blkBad block = false
      ∧ (asked (create block)).areaPages (0 / 256) 0 (pbSbase block) ((storageSize block + 65535) / 65536) = ([⟨0x500000, none⟩], none)
      ∧ (asked (create block)).areaPages (0 / 256) 0 (pbWbase block) ((workSize block + 65535) / 65536) = ([⟨0x510000, none⟩], none)
      ∧ (asked (create block)).freeIndex = some 0 ∧ blkBad (block.set 1 0) = true)
    ∧ ((indexed 0 ixdel).requestAt 0 0 ixdel ∧ ixdel.fn = 1 ∧ (indexed 0 ixdel).indexCheck 0 ixdel.a.toNat = none
        ∧ (asked ixdel).indexCheck 0 ixdel.a.toNat = some 5)
    ∧ ((indexed 1 ixstat).requestAt 0 0 ixstat ∧ ixstat.fn = 4 ∧ (indexed 1 ixstat).indexCheck 0 ixstat.a.toNat = none) := by
  unfold State.requestAt; decide +kernel

theorem witness_IndexUnits_inserts_and_walks :
    ((indexed 0 stv).requestAt 0 0 stv ∧ (indexed 0 stv).clean ∧ stv.fn = 2 ∧ (indexed 0 stv).indexCheck 0 stv.a.toNat = none
        ∧ stv.y.toNat % 65536 + ((indexed 0 stv).index 3).d ≤ 65536 ∧ ((indexed 0 stv).index 3).ins = false ∧ ((indexed 0 stv).index 3).holds = []
        ∧ ((indexed 0 stv).index 3).count ≠ ((indexed 0 stv).index 3).cap ∧ (indexed 0 stv).asleep 0x10100 = false
        ∧ ((indexed 0 stv).index 3).rs = 64 ∧ ((indexed 0 stv).rdLong 18 ⟨0x10100, none⟩ 4).length = 4
        ∧ ((indexed 2 stv).index 3).count = ((indexed 2 stv).index 3).cap)
    ∧ ((indexed 1 ldn).requestAt 0 0 ldn ∧ ldn.fn = 3 ∧ ldn.phase = .queued ∧ ldnBad ((indexed 1 ldn).index 3) ldn = false
        ∧ 0 < ((indexed 1 ldn).index 3).nw ∧ 0 ∉ ((indexed 1 ldn).index 3).walks)
    ∧ ((indexed 1 walked).requestAt 0 0 walked ∧ walked.phase = .walking ∧ ∀ e ∈ walked.cands, e.exp = true)
    ∧ ((indexed 1 pushing).requestAt 0 0 pushing ∧ pushing.phase = .pushing ∧ ((indexed 1 pushing).slot 0).ixo.length < 8
        ∧ ldnK pushing.z ≤ pushing.push + 1) := by
  unfold State.requestAt State.clean; decide +kernel

/-- An insert that has begun, with a write left or with none; an insert of slot 1 queued behind the deletion by slot 0. -/
def inserting (l : List (Nat × List Byte)) : IxReq := { stv with phase := .inserting, writes := l }
def rivalInsert : State := (indexed 0 ixdel).setSlot 1 { (indexed 0 ixdel).slot 1 with ixq := [stv], pend := [12] }

theorem witness_IndexUnits_phases :
    ((indexed 0 (inserting [(0, [1])])).requestAt 0 0 (inserting [(0, [1])]) ∧ (indexed 0 (inserting [(0, [1])])).clean
      ∧ (inserting [(0, [1])]).phase = .inserting ∧ 0 % 64 + [(1 : Byte)].length ≤ 64
      ∧ (areaPlace ((indexed 0 stv).index 3).storage 0).enc = none ∧ (indexed 0 (inserting [])).requestAt 0 0 (inserting []))
    ∧ (rivalInsert.requestAt 0 0 ixdel ∧ ixdel.phase = .queued ∧ rivalInsert.indexCheck 0 ixdel.a.toNat = none
        ∧ (rivalInsert.index (ixSlot ixdel.a.toNat)).ins = false ∧ (rivalInsert.facet (1 / 256)).ctx = some 0
        ∧ (rivalInsert.slot 1).ixq = [stv] ∧ stv.a = ixdel.a ∧ stv.fn = 2 ∧ stv.phase = .queued
        ∧ ∀ q ∈ dropAt (rivalInsert.slot 0).ixq 0, rivalInsert.sameHandle ixdel q = false)
    ∧ ((asked (create block)).latent = [] ∧ ¬ ((indexed 1 stv).index 3).count = 0) := by
  unfold State.requestAt State.clean; decide +kernel

/-- A walk at snapshot 2 with node 0 to expand, whose list X, of stamp `x`, names node 1, and whose list Y has stamp `y`. -/
def growing (snap nr : Nat) : IxReq := { ldn with phase := .walking, snap := snap, nr := nr, vis := 1, query := [1, 0, 0, 0], cands := [⟨5, 0, false⟩] }
def graph (r : IxReq) (x y : Nat) : State :=
  stored (indexed 2 r) 0x50000C (toBytes x 4 ++ toBytes 1 4 ++ toBytes 1 4 ++ toBytes 0 4 ++ toBytes y 4)

theorem witness_IndexUnits_searches :
    let ok (s : State) (r : IxReq) : Prop := s.requestAt 0 0 r ∧ s.clean ∧ r.fn = 3 ∧ r.phase = .walking ∧ r.cands = [] ++ ⟨5, 0, false⟩ :: []
    let node (s : State) : Node := s.node (s.index 3) 0
    (ok (graph (growing 2 0) 1 0) (growing 2 0) ∧ (node (graph (growing 2 0) 1 0)).stampX = 1 ∧ (node (graph (growing 2 0) 1 0)).stampY = 0
      ∧ (node (graph (growing 2 0) 1 0)).idsX = [1] ∧ 1 < (growing 2 0).snap
      ∧ (graph (growing 2 0) 1 0).visited ((graph (growing 2 0) 1 0).index 3) 0 1 = false
      ∧ (((graph (growing 2 0) 1 0).index 3).bitPlace 0 1) = ⟨0x510000, none⟩
      ∧ ∀ o, o < 64 → areaPlace ((graph (growing 2 0) 1 0).index 3).storage (1 * 64 + o) = ⟨0x500040 + o, none⟩)
    ∧ (ok (indexed 2 (growing 2 0)) (growing 2 0) ∧ (node (indexed 2 (growing 2 0))).idsY = [] ∧ (node (indexed 2 (growing 2 0))).stampY ≤ 2
        ∧ ¬ ((node (indexed 2 (growing 2 0))).stampY < (node (indexed 2 (growing 2 0))).stampX) ∧ ¬ 2 < (node (indexed 2 (growing 2 0))).stampY)
    ∧ (ok (graph (growing 1 14) 2 3) (growing 1 14) ∧ ¬ (node (graph (growing 1 14) 2 3)).stampX ≤ 1 ∧ ¬ (node (graph (growing 1 14) 2 3)).stampY ≤ 1
        ∧ 15 ≤ (growing 1 14).nr + 1 ∧ ok (graph (growing 1 0) 2 3) (growing 1 0) ∧ (growing 1 0).nr + 1 < 15)
    ∧ ([(1 : Byte), 2, 3, 4].length = ((indexed 0 stv).index 3).d ∧ [0].length ≤ ((indexed 0 stv).index 3).m) := by
  unfold State.requestAt State.clean; decide +kernel

/-- The unvisited neighbour joins the window with its distance; two newer lists make the walk start again; the second vector's
record names node 0, whose previous list receives it (R213 to R215). -/
theorem test_searches :
    (next? (exec (.acceptance 0 0) (graph (growing 2 0) 1 0)) fun t => t.here.ixq.map (·.cands) == [[⟨1, 1, false⟩, ⟨5, 0, true⟩]]
      && t.here.ixq.map (·.vis) == [2] && t.visited (t.index 3) 0 1)
    ∧ (next? (exec (.acceptance 0 0) (graph (growing 1 14) 2 3)) fun t => t.here.ixq.map (·.nr) == [15] && (t.index 3).holds == [0]
      && t.here.ixq.map (·.snap) == [2])
    ∧ (next? (exec (.insert 0 0) (indexed 1 stv)) fun t => t.here.ixq.map (fun r => r.writes.map (·.1)) == [[64, 12]]
      && t.here.ixq.map (fun r => (r.writes.getD 1 (0, [])).2) == [toBytes 2 4 ++ toBytes 1 4 ++ toBytes 1 4 ++ toBytes 0 4]) := by
  decide +kernel

/-- A commit keeps the turn of its release, a record has that of its identity, and the token of the answer stands for the latest
(R217). -/
def lastPush : IxReq := { pushing with rel := 5 }
theorem witness_IndexUnits_releases :
    ((indexed 1 lastPush).requestAt 0 0 lastPush ∧ lastPush.phase = .pushing ∧ ldnK lastPush.z ≤ lastPush.push + 1 ∧ lastPush.fn = 3)
    ∧ ((indexed 1 stv).index 3).count = 1 ∧ ((indexed 1 stv).rdLong 18 ⟨0x10100, none⟩ 4).length = ((indexed 1 stv).index 3).d := by
  unfold State.requestAt; decide +kernel

theorem test_releases :
    (next? (exec (.insert 0 0) (indexed 0 { inserting [] with rel := 5 })) fun t => (t.index 3).rels == [(0, 5)] && (t.index 3).count == 1)
    ∧ (let s := indexed 1 walked
       next? (exec (.acceptance 0 0) (s.setIndex 3 { s.index 3 with rels := [(0, 5)] })) fun t => t.here.ixq.map (·.rel) == [5]
        && t.here.ixq.map (fun r => r.recs.map (·.rel)) == [[5]])
    ∧ (let s := indexed 1 lastPush
       next? (exec (.ixoPush 0 0) (s.setHere { s.here with early := [⟨0, ⟨0x10028, none⟩, [0], [], false, 3, []⟩] })) fun t =>
        t.here.early.map (·.behind) == [[12]]) := by decide +kernel

/-- A deletion ends a queued insert of another slot with −6 (R210). -/
theorem test_index_delete :
    next? (exec (.indexDelete 0 0) rivalInsert) fun t => (t.slot 1).s 12 == -6 && (t.slot 1).ixq == [] && (t.slot 0).s 12 == 0 := by
  decide +kernel

/-- A new index's handle is of kind 2, slot 0, generation 1 (R78, R203); COUNT is 1; the first identity is 0. -/
theorem test_index_units :
    answers (.indexCreate 0 0) (asked (create block)) 12 0x0002000000000001
    ∧ answers (.indexCreate 0 0) (asked (create (block.set 1 0))) 12 (-8) ∧ answers (.indexDelete 0 0) (asked ixdel) 12 (-5)
    ∧ answers (.indexStatus 0 0) (indexed 1 ixstat) 12 1
    ∧ answers (.insert 0 0) (indexed 2 stv) 12 (-13)
    ∧ (next? (exec (.ixoPush 0 0) (indexed 1 pushing)) fun t => (t.slot 0).ixo == [⟨1, 2, 0⟩] && (t.slot 0).ixq == []) := by decide +kernel

/-- An insert that has begun holds the index, and its commit answers the identity. -/
theorem test_insert :
    (next? (exec (.insert 0 0) (indexed 0 stv)) fun t => (t.slot 0).ixq.map (·.phase) == [.inserting] && (t.index 3).ins
      && (next? (exec (.insert 0 0) t) fun r => (r.slot 0).ixq.map (·.writes.length) == [0] && r.mem != t.mem
        && (next? (exec (.insert 0 0) r) fun q => (q.slot 0).s 12 == 0 && (q.index 3).count == 1 && !(q.index 3).ins))) := by
  decide +kernel

theorem test_walk_answers :
    next? (exec (.acceptance 0 0) (indexed 1 walked)) fun t => (t.slot 0).ixq.map (fun r => r.recs.map (·.lo)) == [[5]]
      && (t.slot 0).ixq.map (·.phase) == [.pushing] := by decide +kernel

/-! ## Walks, invalidations, code publication -/

def walk (result : Walked) : Walk := ⟨0, 5, [0], result, false⟩
/-- Slot 0 waits for page 5, whose walk is queued or running. -/
def waiting (running queued : List Walk) : State :=
  let s := mapped
  let s1 := s.setHere { s.here with wait := some 5 }
  (s1.setFacet 0 { s1.facet 0 with miss := [⟨0, 5⟩] }).setWalker 0 ⟨running, queued⟩
def invalid : Dword := 0x50000
def published (n : Nat) : State :=
  let s := mapped
  { s.setHere { s.here with pend := [10] } with codeReqs := [⟨0, 0, 10, 0, 0x70040, n, false⟩] }

theorem witness_WalksAndInvalidations :
    (((waiting [] [walk .fault]).walker 0).queued = [walk .fault] ∧ ((waiting [] [walk .fault]).walker 0).running.length < 64)
    ∧ (((waiting [walk (.leaf false 0x500062)] []).walker 0).running[0]? = some (walk (.leaf false 0x500062))
        ∧ (walk (.leaf false 0x500062)).facets = [0] ∧ (walk .fault).drop = false ∧ (waiting [walk (.leaf false 0x500062)] []).xinv = []
        ∧ 0x50008 / 65536 = 5 ∧ ((waiting [walk (.leaf false 0x500062)] []).facet 0).tlb.length < 512
        ∧ ((waiting [walk (.leaf false 0x500062)] []).facet 0).lookup 0 0x50008 = none
        ∧ ∀ o ∈ ((waiting [walk (.leaf false 0x500062)] []).facet 0).tlb, ¬ (o.ctx = 0 ∧ o.big = false ∧ o.page = 5))
    ∧ (((waiting [walk .fault] []).walker 0).running[0]? = some (walk .fault) ∧ (waiting [walk .fault] []).ctxOf 0 = 0
        ∧ ((waiting [walk .fault] []).facet 0).ctx = some 0 ∧ ((waiting [walk .fault] []).slot 0).wait = some 5)
    ∧ ({ base with xinv := [invalid] }.xinv = [invalid] ∧ { base with xinv := [invalid] }.xinvWaits invalid = false)
    ∧ ((published 64).codeReqs[0]? = some ⟨0, 0, 10, 0, 0x70040, 64, false⟩ ∧ ((published 64).ctx 0).st = .running
        ∧ (published 64).latent = [] ∧ ((published 64).slot 0).codeHeld (0 / 4) 0 (fun _ => true) = false ∧ (waiting [] [walk .fault]).latent = []
        ∧ (published 64).codePieces (0 / 256) 0 (pagePieces 0x70040 64) = ([(0x520040, 64)], none)) := by decide +kernel

theorem test_walks :
    (next? (exec (.walk 0) (waiting [] [walk .fault])) fun t => (t.walker 0).running == [walk (.leaf false 0x500062)])
    ∧ (next? (exec (.walkResult 0 0) (waiting [walk .fault] [])) fun t => (t.slot 0).xf == some ⟨5, 4⟩)
    ∧ (next? (exec (.xinv 0x8000) base) fun t => t.cread .xstat == 1)
    ∧ (next? (exec .invalidationDone { base with xinv := [0x8000] }) fun t => (t.facet 0).tlb == [] && t.cread .xstat == 0)
    ∧ answers (.codepubRequest 0) (published 64) 10 64 := by decide +kernel

/-! ## Control registers with effects of their own -/

def described (claimed : Bool) (owner len : Nat) : State := base.setRegion 4095 ⟨0, len, 0, claimed, owner, 0xFFFFF⟩

theorem witness_RegionDescriptors :
    (((described true 5 0).region 4095).claimed = true ∧ ((described true 5 0).region 4095).owner = 5 ∧ ((described true 5 0).region 4095).len = 0)
    ∧ (hSlot 0x00010000FFFFFFFF = 4095 ∧ hGen 0x00010000FFFFFFFF = ((described true 5 0).region 4095).gen)
    ∧ ¬ (((described false 5 0).region 4095).claimed = true ∧ ((described false 5 0).region 4095).owner = 5)
    ∧ (bits (0x405 : Dword).toNat 8 0 = 5 ∧ ((described false 0 0).region 4095).claimed = false ∧ bits (0x404 : Dword).toNat 8 0 ≠ 5) := by
  decide

theorem test_regions :
    (next? (exec (.regionLen (some 5) 4095 9) (described true 5 0)) fun t => t.region 4095 == ⟨0, 9, 0, true, 5, 1⟩)
    ∧ (next? (exec (.claimed (some 5) 4095 0x405) (described false 0 0)) fun t => t.region 4095 == ⟨0, 0, 1, true, 5, 0xFFFFF⟩)
    ∧ (next? (exec (.claimed (some 5) 4095 0x805) (described true 5 9)) fun t => t.region 4095 == { (described true 5 9).region 4095 with perm := 2 })
    ∧ exec (.regionLen (some 6) 4095 0) (described true 5 9) = .next (described true 5 9) := by
  refine ⟨by decide +kernel, by decide +kernel, by decide +kernel, rfl⟩

def killedCtx : State := base.setCtx 0 { base.ctx 0 with st := .killed }
/-- Barrier 31 armed for 8 bytes, 3 of them counted. -/
def armed : State := base.setFacet 0 ((base.facet 0).setBar 31 ⟨true, 5, false, some 0, 2, 7, 8⟩)

theorem witness_ControlWrites :
    ((31 < 32) ∧ (1 : Dword).getLsbD 0 = true ∧ ((armed.facet 0).bar 31).armed = true)
    ∧ ((0x4000000000000000 : Dword).getLsbD 62 = true ∧ base.streamsQuiet 0 = true)
    ∧ ((base.ctx 0).st = .running ∧ 0 / 256 ∈ (base.ctx 0).set ∧ (killedCtx.ctx 0).st = .killed
      ∧ killedCtx.keyedDeliv 0 = none ∧ killedCtx.keyedPiece 0 = none) := by decide +kernel

/-- A facet's log with 32 valid entries, of which the first is of address 8; another with a free entry; the error handler of
context 0 is core 1. -/
def logged (n : Nat) : State :=
  let l : ErrLog := { ErrLog.empty with next := n % 32, entries := (List.range n).map fun i => (i, logWord 0 (some 0) 1, dw (8 + 8 * i)) }
  (base.setCtx 0 { base.ctx 0 with errh := dw (2 ^ 63 + 2 ^ 18 + 5) }).setLog (.facet 0) l

theorem witness_ControlWrites_no_effect_and_logs :
    ((0 : Dword).getLsbD 0 = false ∧ ((base.facet 0).bar 3).armed = false ∧ (0 : Dword).getLsbD 62 = false
      ∧ (streams (sand 0) 1 2).streamsQuiet 0 = false ∧ (killedCtx.ctx 0).st ≠ .running
      ∧ (base.ctx 5).st = .free ∧ (base.ctx 0).st ≠ .killed)
    ∧ (4 < 256 ∧ 1 < 2 ^ 32 ∧ (∃ i, i < 32 ∧ ((logged 32).log (.facet 0)).valid i = true ∧ (((logged 32).log (.facet 0)).entry i).2.toNat = 8
        ∧ (((logged 32).log (.facet 0)).entry i).1.toNat / 2 ^ 48 % 256 ≠ 11))
    ∧ (∀ i, i < 32 → (((logged 32).log (.facet 0)).entry i).2.toNat ≠ 0x10000 ∧ ((logged 32).log (.facet 0)).valid i = true)
    ∧ ((∀ i, i < 32 → (((logged 1).log (.facet 0)).entry i).2.toNat ≠ 0x10000) ∧ ((logged 1).log (.facet 0)).valid 1 = false
        ∧ coreIn ((logged 1).facetSet 0) 1 = true) := by decide +kernel

/-- A repeat counts, a new event takes the next entry and is reported, one too many is lost (R303). -/
theorem test_logs :
    (((logged 32).logEvent (.facet 0) 4 (some 0) 1 8 true).log (.facet 0)).entry 0 = (logWord 0 (some 0) 2, 8)
    ∧ (((logged 1).logEvent (.facet 0) 4 (some 0) 1 0x10000 true).log (.facet 0)).entry 1 = (logWord 4 (some 0) 1, 0x10000)
    ∧ ((logged 1).logEvent (.facet 0) 4 (some 0) 1 0x10000 true).msgs.map (·.dest) = [.core 1]
    ∧ (((logged 32).logEvent (.facet 0) 4 (some 0) 1 0x10000 true).log (.facet 0)).lost = 1 := by decide +kernel

theorem test_control_writes :
    (next? (exec (.cancel 0 31 1) armed) fun t => (t.slot 2).s 7 == BitVec.ofInt 64 (-(10 + 256 * 3)))
    ∧ (next? (exec (.retcfg 0 0x100000005) base) fun t => (t.facet 0).idle == 5)
    ∧ (next? (exec (.rel 0 0x4000000000000000) (streams (sand 0) 1 2)) fun t => (t.facet 0).sregs.length == 2)
    ∧ (next? (exec (.rel 0 0x4000000000000000) (at0 fun t => { t with hold := true, faultWord := 7 })) fun t =>
      !t.here.hold && t.here.faultWord == 0)
    ∧ (next? (exec (.preempt 0) base) fun t => (t.ctx 0).halt)
    ∧ (next? (exec (.kill 0) base) fun t => (t.ctx 0).st == .killed && !(t.slot 0).busy)
    ∧ (next? (exec (.free 0) killedCtx) fun t => (t.ctx 0).st == .free) := by decide +kernel

/-! ## Launches, arrivals, dispatch -/

def launch : Packet := Packet.own none false ⟨Msg.zero, false⟩ (.queue 63)
/-- Queue 63 with facet 0 selected. -/
def queue63 (valid : Bool) (cursor : Nat) (held : List LaunchMsg) (msgs : List Packet) : State :=
  { base.setQueue 63 ⟨valid, false, cursor, true, 0, [(0, 1)], held⟩ with msgs := msgs }

theorem witness_LaunchQueues :
    (((queue63 false 0 [] []).queue 63).valid = false ∧ (0x8000000000010000 : Dword).getLsbD 63 = true)
    ∧ (((queue63 true 0 [] []).queue 63).valid = true ∧ (0 : Dword).getLsbD 63 = false)
    ∧ ((queue63 true 0 [] [launch]).msgs[0]? = some launch ∧ launch.dest = .queue 63 ∧ Packet.behind (queue63 true 0 [] [launch]).msgs 0 launch = false
        ∧ ((queue63 true 0 [] [launch]).queue 63).facets ≠ [] ∧ ((queue63 true 0 [] [launch]).queue 63).held.length < 64)
    ∧ launch.frozen = false ∧ { launch with frozen := true }.frozen = true
    ∧ (((queue63 true 63 [⟨Msg.zero, none⟩] []).queue 63).held = [⟨Msg.zero, none⟩] ∧ coreIn ((queue63 true 63 [] []).ctx 0).set 63 = true
        ∧ ((queue63 true 63 [] []).core 63).ring true = [] ∧ (((queue63 true 63 [] []).core 63).box true).length < boxDepth true) := by
  decide +kernel

/-- An image holds a launch for queue 63 and one for queue 2, which are not bound. -/
def unsentLaunches : State := { queue63 false 9 [] [] with unsent := [(63, Msg.zero), (2, Msg.zero)] }

theorem witness_LaunchQueues_unsent :
    (unsentLaunches.queue 63).valid = false ∧ (0x8000000000000005 : Dword).getLsbD 63 = true
    ∧ (unsentLaunches.unsent.filter fun y => y.1 = 63) = [(63, Msg.zero)] := by decide +kernel

/-- They are sent when their queue is bound (R321). -/
theorem test_unsent :
    next? (exec (.lqctl 63 0x8000000000000005) unsentLaunches) fun t => t.msgs == [launch] && t.unsent == [(2, Msg.zero)] := by decide +kernel

theorem test_launch :
    (next? (exec (.lqctl 63 0x8000000000000005) (queue63 false 9 [] [])) fun t => (t.queue 63).valid && (t.queue 63).ctx == 5 && (t.ctx 5).st == .switchedOut)
    ∧ (next? (exec (.launchForward 63) (queue63 true 63 [⟨Msg.zero, none⟩] [])) fun t => (t.core 63).high.length == 1 && (t.queue 63).cursor == 0)
    ∧ (next? (exec (.launch 0) (queue63 true 0 [] [{ launch with frozen := true }])) fun t => (t.queue 63).held == [] && t.msgs == []
        && (t.devLog.entry 0).1.toNat / 2 ^ 48 % 256 == 10) := by
  decide +kernel

def packet (d : Dest) : Packet := ⟨some 4, none, some 0, true, ⟨Msg.zero, false⟩, d, none, false⟩
def arriving (d : Dest) : State := { (base.setSlot 4 { base.slot 4 with allow := 3 }) with msgs := [packet d], peers := [9] }

/-- A route to device 9. -/
def routed (s : State) : State := { s with routes := [(9, [1])] }

theorem witness_MessageArrivals :
    ((arriving (.core 63)).msgs[0]? = some (packet (.core 63)) ∧ Packet.behind (arriving (.core 63)).msgs 0 (packet (.core 63)) = false
      ∧ (packet (.core 63)).ctx = some 0 ∧ ((arriving (.core 63)).ctx 0).st = .running ∧ coreIn ((arriving (.core 63)).ctx 0).set 63 = true
      ∧ ((arriving (.core 63)).core 63).ring true = [] ∧ (((arriving (.core 63)).core 63).box true).length < boxDepth true
      ∧ ((arriving (.core 63)).facet (4 / 256)).ctx = some 0)
    ∧ ((arriving (.unit 255)).unitChoice 0 255 ≠ [])
    ∧ (9 ∉ (arriving (.far 9 0)).unreachable ∧ (arriving (.far 9 0)).unrouted 9 = true
        ∧ (routed (arriving (.far 9 0))).unrouted 9 = false ∧ 9 ∈ { arriving (.far 9 0) with unreachable := [9] }.unreachable) := by
  decide +kernel

/-- Device 9 accepts the message that slot 4 has sent there. -/
def accepting : State := { arriving (.core 63) with owed := [packet (.far 9 0)], schedule := [.accepted 0] }

theorem witness_MessageArrivals_accepted :
    accepting.owed[0]? = some (packet (.far 9 0)) ∧ (packet (.far 9 0)).ctx = some 0 ∧ accepting.power = .up
    ∧ accepting.schedule = .accepted 0 :: [] ∧ (packet (.far 9 0)).src = some 4 ∧ (accepting.facet (4 / 256)).ctx = some 0 := by decide +kernel

theorem test_accepted : next? (step accepting) fun t => t.owed == [] && (t.slot 4).allow == 4 := by decide +kernel

theorem test_arrivals :
    (next? (exec (.messageArrival 0) (arriving (.core 63))) fun t => (t.core 63).high.length == 1 && (t.slot 4).allow == 4 && t.msgs == [])
    ∧ (next? (exec (.messageArrival 0) (arriving (.unit 255))) fun t => t.msgs.map (·.dest) == [.core 0] && t.pointed 0 255 == 1)
    ∧ (next? (exec (.messageArrival 0) (routed (arriving (.far 9 0)))) fun t => t.fabricOut.length == 1 && t.owed == [packet (.far 9 0)]
        && (t.slot 4).allow == 3 && ((t.acceptedFar 0).slot 4).allow == 4)
    ∧ (next? (exec (.messageArrival 0) (arriving (.far 9 0))) fun t => t == arriving (.far 9 0)) := by decide +kernel

/-- Core 1, whose slots are free; a message for handler 1, or a continuation, with arguments. -/
def mail (hdr : Nat) : Held := ⟨⟨dw hdr, #v[1, 2, 3, 4, 5, 6, 0]⟩, false⟩
def tabled (high low deque : List Held) : State :=
  let s := stored base 0x10208 (toBytes 0x10040 8)
  s.setCore 1 { s.core 1 with high := high, low := low, deque := deque, htab := 0x10200 }
def granted : Held := { mail 0x10001 with grant := true }

theorem witness_Dispatching :
    ((tabled [mail 1] [] []).working (4 * 1) = true ∧ (tabled [mail 1] [] []).ctxOf (4 * 1) = 0
      ∧ ((tabled [mail 1] [] []).slot (4 * 1 + 3)).busy = false ∧ ((tabled [mail 1] [] []).core 1).high = [mail 1]
      ∧ ((tabled [mail 1] [] []).core 1).highRing = [] ∧ (mail 1).msg.keyList = [] ∧ hdrCont (mail 1).msg.hdr.toNat = false
      ∧ (tabled [mail 1] [] []).xlateAgain (1 / 64) 0 .load true (((tabled [mail 1] [] []).core 1).htab + BitVec.ofNat 64 (8 * hdrHandler 1)).toNat
          = .ok ⟨0x10208, none⟩
      ∧ (tabled [mail 1] [] []).latent = [] ∧ (tabled [mail 1] [] []).poisoned 0x10208 8 = false
      ∧ (tabled [mail 1] [] []).rdNat ⟨0x10208, none⟩ 8 = 0x10040)
    ∧ (((tabled [] [mail 0x10001] []).core 1).low = [mail 0x10001] ∧ ((tabled [] [] [mail 2, mail 0x10001]).core 1).deque = [mail 2] ++ [mail 0x10001])
    ∧ ((mail 0x10001).msg.keyList ≠ [] ∧ (mail 0x10001).grant = false ∧ granted.grant = true)
    ∧ (hdrCont (mail 0x0000400000200000).msg.hdr.toNat = true)
    ∧ (((tabled [] [mail 1] []).slot (4 * 1 + 0)).busy = false ∧ (∀ n, n < 0 → ((tabled [] [mail 1] []).slot (4 * 1 + n)).busy = true)
        ∧ ((tabled [] [mail 1] []).core 1).high = [] ∧ ((tabled [] [mail 1] []).core 1).low = [mail 1] ∧ ((tabled [] [mail 1] []).core 1).lowRing = [])
    ∧ (((tabled [] [] [mail 2, mail 1]).core 1).deque = [mail 2] ++ [mail 1] ∧ ((tabled [] [] [mail 2, mail 1]).core 1).dqRing = []) := by
  decide +kernel

theorem test_dispatch :
    (next? (exec (.dispatch 1) (tabled [mail 1] [mail 2] [])) fun t => (t.slot 7).busy && (t.slot 7).pc == 0x10040 && (t.slot 7).s 26 == 2 && (t.core 1).low.length == 1)
    ∧ (next? (exec (.dispatch 1) (tabled [] [] [mail 2, mail 0x0000400000200000])) fun t => (t.slot 4).pc == 0x10000 && (t.core 1).deque == [mail 2])
    ∧ (next? (exec (.dispatch 1) (tabled [mail 0x10001] [] [])) fun t => t.keyReqs.map (·.todo) == [[0]] && !(t.slot 7).busy)
    ∧ (next? (exec (.dispatch 1) (tabled [] [] [mail 2, mail 0x10001])) fun t => t.keyReqs.map (·.todo) == [[0]] && (t.core 1).deque == [mail 2]
        && !(t.slot 4).busy) := by decide +kernel

/-! ## Steals, keys, joins -/

/-- A range record from 10 to 21 with grain 1 (bit 19, bits 31:24), joined or not. -/
def range (join : Nat) : Held := ⟨⟨dw (1 * 2 ^ 24 + 2 ^ 19 + join * 2 ^ 20 + 5), #v[10, 21, 0, 0, 0, 0, 0x20040]⟩, false⟩
def victim (deque : List Held) : State := base.setCore 0 { base.core 0 with thieves := [63], deque := deque }
def thief (reply : Option (Option Held)) : State :=
  base.setCore 63 { base.core 63 with gen := 1, stealing := some 0, reply := reply, nextWait := 4096 }

theorem witness_Steals :
    (let s := base.setCore 63 { base.core 63 with gen := 1 }
     s.working (4 * 63) = true ∧ s.mayRequest 63 (s.ctx (s.ctxOf (4 * 63))).set = true)
    ∧ ((victim [range 0]).working (4 * 0) = true ∧ ((victim [range 0]).core 0).thieves = [63] ∧ 63 ≠ 0 ∧ ((victim [range 0]).core 0).dqRing = []
        ∧ ((victim [range 0]).core 0).deque = [range 0] ∧ hdrRange (range 0).msg.hdr.toNat = true
        ∧ ((range 0).msg.arg 1).toNat < ((range 0).msg.arg 2).toNat ∧ hdrGrain (range 0).msg.hdr.toNat < 63
        ∧ 2 ^ hdrGrain (range 0).msg.hdr.toNat ≤ (((range 0).msg.arg 2).toNat - ((range 0).msg.arg 1).toNat) / 2
        ∧ hdrJoin (range 0).msg.hdr.toNat = false)
    ∧ (hdrJoin (range 1).msg.hdr.toNat = true ∧ (victim [range 1]).latent = [] ∧ (victim [range 1]).joinCheck (0 / 64) ((victim [range 1]).ctxOf (4 * 0)) (range 1).msg.joinRef = .ok ⟨2 ^ 48 + 0x40, none⟩)
    ∧ ((victim []).core 0).deque = [] ∧ (mail 1).msg.splitAt = none
    ∧ (((thief (some (some (mail 1)))).core 63).reply = some (some (mail 1)) ∧ ((thief (some (some (mail 1)))).core 63).deque.length < 32)
    ∧ ((thief (some none)).core 63).reply = some none := by decide +kernel

theorem test_steals :
    (next? (exec (.steal 0) (victim [range 0])) fun t => (t.core 63).reply.map (fun r => r.map fun x => x.msg.args.toList.take 2) == some (some [15, 21])
      && (t.core 0).deque.map (fun x => x.msg.args.toList.take 2) == [[10, 15]])
    ∧ (next? (exec (.stealReply 63) (thief (some none))) fun t => (t.core 63).backoff == 4096 && (t.core 63).nextWait == 4096)
    ∧ (next? (exec (.stealReply 63) (thief (some (some (mail 1))))) fun t => (t.core 63).deque == [mail 1] && (t.core 63).nextWait == 64)
    ∧ (next? (exec (.stealWaitExpiry 63) (base.setCore 63 { base.core 63 with backoff := 64 })) fun t => (t.core 63).backoff == 0)
    ∧ (next? (exec (.stealRequest 63) (base.setCore 63 { base.core 63 with gen := 1 })) fun t => (t.core 63).gen == 0x80200003 && (t.core 63).stealing.isSome) := by
  decide +kernel

/-- A record with keys 3 and 5 at the home of key 3; its entries. -/
def wants (todo : List Nat) : KeyReq := ⟨2, 0, mail 0x20001, [], todo⟩
def keyAt (l : List KeyEntry) (reqs : List KeyReq) (rels : List KeyRel) : State :=
  { base.setFacet (keyHome 0 3) { base.facet (keyHome 0 3) with keys := l } with keyReqs := reqs, keyRels := rels }

theorem witness_KeysAndJoinCounts :
    ((keyAt [] [wants [3]] []).keyReqs[0]? = some (wants [3]) ∧ (wants [3]).todo = 3 :: []
      ∧ (((keyAt [] [wants [3]] []).facet (keyHome 0 3)).keys.findIdx? fun e => e.ctx = 0 && e.key = 3) = none
      ∧ ((keyAt [] [wants [3]] []).facet (keyHome 0 3)).keys.length < 512
      ∧ 512 ≤ ((keyAt (List.replicate 512 ⟨1, 9, some 0, []⟩) [wants [3]] []).facet (keyHome 0 3)).keys.length
      ∧ (((keyAt (List.replicate 512 ⟨1, 9, some 0, []⟩) [wants [3]] []).facet (keyHome 0 3)).keys.findIdx? fun e => e.ctx = 0 && e.key = 3) = none)
    ∧ ((((keyAt [⟨0, 3, some 7, []⟩] [wants [3]] []).facet (keyHome 0 3)).keys.findIdx? fun e => e.ctx = 0 && e.key = 3) = some 0
        ∧ ((keyAt [⟨0, 3, some 7, []⟩] [wants [3]] []).facet (keyHome 0 3)).keys[0]? = some ⟨0, 3, some 7, []⟩)
    ∧ ((keyAt [⟨0, 3, some 7, [wants [3]]⟩] [] [⟨0, 3⟩]).keyRels[0]? = some ⟨0, 3⟩
        ∧ ((keyAt [⟨0, 3, some 7, [wants [3]]⟩] [] [⟨0, 3⟩]).facet (keyHome 0 3)).keys[0]? = some ⟨0, 3, some 7, [wants [3]]⟩)
    ∧ (let s : State := { stored base (2 ^ 48 + 0x40) [1, 0, 0, 0, 8] with arrivals := [⟨0, 2 ^ 48 + 0x40, 0⟩], incrs := [⟨0, 2 ^ 48 + 0x80, 63, mail 1⟩] }
       s.arrivals[0]? = some ⟨0, 2 ^ 48 + 0x40, 0⟩ ∧ ((s.arrivals.take 0).any fun e => e.src = 0 && e.pa = 2 ^ 48 + 0x40) = false
        ∧ joinCount (s.joinWord (2 ^ 48 + 0x40)) = 1 ∧ joinParked (s.joinWord (2 ^ 48 + 0x40)) = true ∧ devOf (2 ^ 48 + 0x40) = 0
        ∧ (s.ctx 0).st = .running ∧ coreIn (s.ctx 0).set (localCore (2 ^ 48 + 0x40)) = true
        ∧ (s.core (localCore (2 ^ 48 + 0x40))).ring (hdrPri (s.parkedMsg (2 ^ 48 + 0x40)).hdr.toNat) = []
        ∧ s.incrs[0]? = some ⟨0, 2 ^ 48 + 0x80, 63, mail 1⟩ ∧ joinCount (s.joinWord (2 ^ 48 + 0x80)) < 2 ^ 32 - 1
        ∧ s.arrivalWaits 0 ⟨0, 2 ^ 48 + 0x40, 0⟩ = false ∧ s.cutOff (2 ^ 48 + 0x40) = false ∧ s.unrouted 0 = false ∧ s.latent = []
        ∧ s.arrivalWaits 0 ⟨0, 2 ^ 48 + 0x80, 0⟩ = true
        ∧ { s with unreachable := [9] }.cutOff (9 * 2 ^ 52 + 2 ^ 48) = true
        ∧ { s with unreachable := [9] }.arrivalWaits 0 ⟨0, 9 * 2 ^ 52 + 2 ^ 48, 0⟩ = false)
    ∧ (joinCount (base.joinWord (2 ^ 48 + 0x40)) = 0 ∧ 2 ≤ joinCount ((stored base (2 ^ 48 + 0x40) [2]).joinWord (2 ^ 48 + 0x40))) := by
  decide +kernel

theorem test_keys :
    (next? (exec (.keyRequest 0) (keyAt [] [wants [3, 5]] [])) fun t => t.keyReqs == [{ wants [5] with got := [3] }])
    ∧ (next? (exec (.keyRequest 0) (keyAt [] [wants [3]] [])) fun t => t.msgs.map (fun p => (p.dest, p.held.grant)) == [(.core 2, true)])
    ∧ (next? (exec (.keyRelease 0) (keyAt [⟨0, 3, some 7, []⟩] [] [⟨0, 3⟩])) fun t => (t.facet (keyHome 0 3)).keys == []) := by decide +kernel

theorem test_joins :
    let s (w : List Byte) : State := { stored base (2 ^ 48 + 0x40) w with arrivals := [⟨0, 2 ^ 48 + 0x40, 0⟩] }
    let i (w : List Byte) : State := { s w with incrs := [⟨0, 2 ^ 48 + 0x40, 63, mail 1⟩] }
    (next? (exec (.joinArrival 0) (s [1, 0, 0, 0, 8])) fun t => t.joinWord (2 ^ 48 + 0x40) == 0 && (t.core 0).low.length == 1)
    ∧ (next? (exec (.joinArrival 0) (s [0])) fun t => t.joinWord (2 ^ 48 + 0x40) == 2 ^ 36)
    ∧ (next? (exec (.joinArrival 0) (i [2])) fun t => t.joinWord (2 ^ 48 + 0x40) == 2 && t.arrivals.length == 1)
    ∧ (next? (exec (.increment 0) (i [2])) fun t => t.joinWord (2 ^ 48 + 0x40) == 3 && (t.core 63).reply == some (some (mail 1))) := by decide +kernel

/-! ## Contexts -/

/-- Context 5 waits for facet 0, which context 0 holds. -/
def rivals : State :=
  let s := base.setCtx 5 { base.ctx 5 with
    st := .switchedOut, fresh := true, keptCores := [(0, { Core.reset with low := [mail 1] })] }
  (s.setCtx 0 { s.ctx 0 with slice := 1 }).setQueue 1 ⟨true, false, 0, false, 5, [(0, 1)], []⟩
def halted : State := base.setCtx 0 { base.ctx 0 with halt := true }
def alone : State :=
  let s := State.reset.setCtx 5 { Ctx.reset with st := .switchedOut, fresh := true, tvec := 7 }
  { s.setQueue 1 ⟨true, false, 0, false, 5, [(0, 1)], []⟩ with keySlots := [(5, some ⟨1, 2⟩)] }
/-- Context 5 has been saved with work, and no page table maps its save area. -/
def unmapped : State :=
  alone.setCtx 5 { alone.ctx 5 with fresh := false, set := [0], keptCores := [(0, { Core.reset with low := [mail 1] })] }
def haltedEmpty : State :=
  State.reset.setCtx 5 { Ctx.reset with st := .running, halt := true }

theorem witness_SwitchingContexts :
    ((rivals.ctx 0).st = .running ∧ (rivals.ctx 0).halt = false ∧ (rivals.ctx 0).slice ≠ 0
      ∧ ((after 0).find? fun d => rivals.eligible d && overlaps (rivals.facetSet d) (rivals.ctx 0).set) = some 5)
    ∧ ((halted.ctx 0).st = .running ∧ (halted.ctx 0).halt = true ∧ (halted.settle 0).saveAll 0 = none ∧ ((halted.settle 0).ctx 0).st = .running)
    ∧ ((haltedEmpty.ctx 5).st = .running ∧ (haltedEmpty.ctx 5).halt = true ∧ ((haltedEmpty.settle 5).saveAll 5).isSome = true)
    ∧ (alone.placeable 5 = true ∧ (alone.ctx 5).fresh = true ∧ (alone.ctx 5).keptCores = [])
    ∧ (unmapped.placeable 5 = true ∧ unmapped.placeAll 5 (unmapped.placeSet 5) = none)
    ∧ { alone with keySlots := [] }.keySlot 5 = none := by decide +kernel

/-- A facet that another context has left with a stationary macro and a tag entry (R332). -/
def leftBehind : State :=
  let s := heldMacro (stored alone (2 ^ 49 + 0x10000) [7])
  s.setFacet 0 { s.facet 0 with tags := [(7, tagEntry 9 0x10)] }

theorem witness_SwitchingContexts_fresh :
    (alone.placeSet 5 = [0] ∧ ∀ f m, f ∈ alone.placeSet 5 → m < 16 → (alone.mac f m).st = .data)
    ∧ (leftBehind.placeable 5 = true ∧ leftBehind.inboundSet (leftBehind.placeSet 5) = false ∧ (∀ f, f ∈ leftBehind.placeSet 5 → f < numFacets)
        ∧ (leftBehind.mac 0 1).st = .stationary) := by
  have h : alone.placeSet 5 = [0] := by decide +kernel
  refine ⟨⟨h, ?_⟩, by decide +kernel⟩
  simp only [h, List.mem_singleton]
  rintro f m rfl hm
  revert m; decide +kernel

/-- It starts empty (R332). -/
theorem test_fresh_facet :
    next? (exec (.placement 5) leftBehind) fun t => (t.mac 0 1).st == .data && (t.facet 0).tags == [] && t.mem == [] := by decide +kernel

/-- Context 6 was chosen for facet 0 by an earlier expiry and is not placed yet. -/
def promisedOther : State :=
  (rivals.setCtx 6 { rivals.ctx 5 with chosen := true }).setQueue 2 ⟨true, false, 0, false, 6, [(0, 1)], []⟩

theorem witness_SwitchingContexts_promised :
    (∀ e y, (e, y) ∈ rivals.ctxs → e ≠ 5 → y.chosen = true → rivals.eligible e = true → overlaps (rivals.facetSet e) (rivals.facetSet 5) = false)
    ∧ ((after 0).find? fun d => promisedOther.eligible d && overlaps (promisedOther.facetSet d) (promisedOther.ctx 0).set) = some 5
    ∧ promisedOther.promised 5 = true := by
  refine ⟨?_, by decide +kernel, by decide +kernel⟩
  have h : rivals.ctxs.all (fun e => !e.2.chosen) = true := by decide +kernel
  intro e y hy _ hc
  have := List.all_eq_true.1 h _ hy
  simp [hc] at this

/-- The expiry waits until the context chosen before is placed (log 22). -/
theorem test_promised : next? (exec (.sliceExpiry 0) promisedOther) fun t => t == promisedOther := by decide +kernel

theorem test_contexts :
    (next? (exec (.sliceExpiry 0) rivals) fun t => (t.ctx 0).halt && (t.ctx 5).chosen)
    ∧ (next? (exec (.switchOut 0) halted) fun t => (t.ctx 0).st == .killed && (t.ctx 0).kcode == 0xFF)
    ∧ (next? (exec (.placement 5) alone) fun t => (t.ctx 5).st == .running && (t.facet 0).ctx == some 5 && (t.core 3).tvec == 7
        && (t.core 3).gen == 0x80140003)
    ∧ (next? (exec (.placement 5) unmapped) fun t => (t.ctx 5).st == .killed && (t.ctx 5).kcode == 0xFF) := by decide +kernel

/-- An arrival of context 0 waits for a route to device 9. -/
def waitsForRoute : State := { halted with arrivals := [⟨0, 9 * 2 ^ 52 + 2 ^ 48 + 0x40, 0⟩] }
/-- A message has reached a context that was never placed on facet 0, and whose save area no page table maps. -/
def keptAlone : State := unmapped.setCtx 5 { unmapped.ctx 5 with set := [] }
/-- A store of slot 300 is on its way to a macro of facet 0. -/
def inboundAlone : State := keptAlone.setSlot 300 { Slot.reset with sbuf := [.store 0 0 (some ⟨2 ^ 49, none⟩) [1] .plain false] }
/-- Context 0, whose save area has the record of slot 0 in two pages of HBM: s1 = 7, the counter 0x10040, a task. -/
def recorded : State :=
  let put (s : State) (a x : Nat) : State := stored s a (toBytes x 8)
  let s := put (put (put mapped 0x200060 0x300001) 0x400000 0x600062) 0x400008 0x610062
  let s1 := put (put (put s 0x600008 7) 0x600108 0x10040) 0x600110 2
  s1.setCtx 0 { s1.ctx 0 with fresh := false, set := [0], saveb := 0, pnote := true }

theorem witness_SwitchingContexts_restores :
    waitsForRoute.stranded 0 = true ∧ halted.stranded 0 = false ∧ haltedEmpty.stranded 5 = false
    ∧ alone.inboundSet (alone.placeSet 5) = false ∧ unmapped.inboundSet (unmapped.placeSet 5) = false
    ∧ inboundAlone.inboundSet (inboundAlone.placeSet 5) = true
    ∧ (keptAlone.placeable 5 = true ∧ keptAlone.inboundSet (keptAlone.placeSet 5) = false ∧ keptAlone.latent = []
        ∧ (keptAlone.placeAll 5 (keptAlone.placeSet 5)).isSome = true)
    ∧ ((recorded.ctx 0).restores (0 / 256) = true ∧ recorded.clean
        ∧ recorded.spanPlaces (0 / 256) 0 .load (recorded.slotRec 0 0) 0x14000 = some [⟨0x600000, none⟩, ⟨0x610000, none⟩]
        ∧ recorded.asleep 0x600000 = false ∧ recorded.asleep 0x610000 = false) := by
  unfold State.clean; decide +kernel

theorem test_restores :
    ((recorded.placeSlot 0 0).any fun t => (t.slot 0).phys 1 == 7 && (t.slot 0).pc == 0x10040 && (t.slot 0).busy && (t.slot 0).duePreempt)
    ∧ (next? (exec (.placement 5) keptAlone) fun t => (t.ctx 5).st == .running && (t.core 0).low.length == 1)
    ∧ (next? (exec (.placement 5) inboundAlone) fun t => (t.ctx 5).st == .switchedOut)
    ∧ (next? (exec (.switchOut 0) waitsForRoute) fun t => (t.ctx 0).st == .running) := by decide +kernel

/-! ## Power, fabric, management -/

/-- Device 9 is an adapter that may carry context 0; the region's end lies across a granule of memory. -/
def region0 (perm : Nat) : State :=
  (mapped { base with operators := [[1]], session := true, admission := [(9, [0])] }).setRegion 0 ⟨0x50000, 80, perm, true, 0, 9⟩
def bulkHandle : Dword := 0x0001000000000009
/-- A request of adapter 9 for 8 bytes about a granule of memory, with what it writes. -/
def bulk (wr : Bool) : BulkReq :=
  { BulkReq.new 9 0 wr bulkHandle 60 8 (if wr then [1, 2, 3, 4, 5, 6, 7, 8] else []) [] with base := 0x50000, owner := 0 }
def moving (wr : Bool) : State := { region0 3 with bulks := [bulk wr] }
/-- The request after its granule was opened: two deliveries stand out. -/
def open8 (wr : Bool) : State := (moving wr).stepBulk 0 0
/-- A request whose region was revoked when it had moved 256 bytes. -/
def cutBulk : BulkReq := { bulk false with off := 0, len := 512, pos := 256 }
def cut : State := { region0 3 with bulks := [cutBulk], regions := [] }
def placeAt (i : Nat) : Place := ⟨0x50003C + i, none⟩

theorem witness_ApexAndFabric :
    (base.adapter 9 = false ∧ (region0 3).adapter 9 = true ∧ (region0 3).staleRegion bulkHandle.toNat = false
      ∧ (Tbl.get [] (region0 3).admission 9).contains 0 = true
      ∧ ¬ (Tbl.get [] { region0 3 with admission := [(9, [])] }.admission 9).contains 0 = true)
    ∧ ((region0 3).bulkCheck false bulkHandle.toNat 60 8 = none ∧ (region0 3).bulkCheck true bulkHandle.toNat 60 8 = none
      ∧ (region0 3).bulkCheck true bulkHandle.toNat 60 0 = none)
    ∧ ((moving false).bulks[0]? = some (bulk false) ∧ (bulk false).out = [] ∧ (bulk false).ending = 0 ∧ (bulk false).pos < (bulk false).len
        ∧ ¬ (((bulk false).off + (bulk false).pos) % 256 = 0 ∧ (moving false).staleRegion bulkHandle.toNat = true)
        ∧ (∀ wr, ∀ i, i < 8 →
            (moving wr).xlateNow 0 0 (if wr then .store else .load) (0x50000 + 60 + i) = some (placeAt i)
            ∧ (moving wr).cutOff (placeAt i).pa = false ∧ (wr = true → (moving wr).stationaryAt (placeAt i).pa = false)))
    ∧ (∀ wr, (open8 wr).bulks.map (·.out) = [[⟨0, 4, placeAt 0⟩, ⟨4, 4, placeAt 4⟩]] ∧ (open8 wr).clean
        ∧ (open8 wr).cutOff 0x500040 = false ∧ (open8 wr).asleep 0x500040 = false)
    ∧ (cut.bulks[0]? = some cutBulk ∧ cutBulk.out = [] ∧ (0 + 256) % 256 = 0 ∧ cut.staleRegion cutBulk.handle.toNat = true)
    ∧ ((region0 1).bulkCheck true bulkHandle.toNat 60 4 = some 4 ∧ (region0 3).bulkCheck false (bulkHandle + 1).toNat 60 4 = some 5
        ∧ (region0 3).bulkCheck false bulkHandle.toNat 77 4 = some 4) := by
  unfold State.clean; decide +kernel

/-- A message of slot 4 on the fabric to device 9; a device for which nothing waits. -/
def carried : State := { arriving (.core 63) with msgs := [], owed := [packet (.far 9 0)], fabricOut := [packet (.far 9 0)] }

theorem witness_ApexAndFabric_unreachable :
    carried.trafficFor 9 = true ∧ carried.owed = [packet (.far 9 0)] ∧ (packet (.far 9 0)).toward 9 = true
    ∧ (arriving (.far 9 0)).trafficFor 9 = true ∧ (arriving (.far 9 0)).owed = [] ∧ State.reset.trafficFor 9 = false := by decide +kernel

/-- The declaration discards it with KIND 8 and returns its unit (R318). -/
theorem test_unreachable :
    (next? (exec (.unreachable 9) carried) fun t => t.unreachable == [9] && t.owed == [] && t.fabricOut == [] && (t.slot 4).allow == 4
      && (t.devLog.entry 0).1.toNat / 2 ^ 48 % 256 == 8)
    ∧ (next? (exec (.unreachable 9) State.reset) fun t => t == State.reset) := by decide +kernel

/-- A handle of another kind; a request that meets PAGE, of an adapter and of a peer; a granule revoked before it moved. -/
def onPage5 (s : State) : State := { s with bulks := [{ bulk false with base := 0x80000 }] }
def peerCopy : State := { onPage5 (region0 3) with peers := [9] }
def revoked8 : State := { open8 false with regions := [], bulks := (open8 false).bulks.map fun b => { b with off := 0 } }

theorem witness_ApexAndFabric_bulk :
    (let h : Dword := 0x0002000000000009
     (region0 3).staleRegion h.toNat = false ∧ bits h.toNat 51 48 ≠ 1 ∧ bits bulkHandle.toNat 51 48 = 1
      ∧ (region0 3).handleHere bulkHandle.toNat = true ∧ ¬ (77 + 4 ≤ ((region0 3).region 0).len)
      ∧ 60 + 8 ≤ ((region0 3).region 0).len ∧ ((region0 3).region 0).perm.testBit 1 = true)
    ∧ (let s := onPage5 (region0 3)
       let b : BulkReq := { bulk false with base := 0x80000 }
       s.bulks[0]? = some b ∧ b.out = [] ∧ b.fault = none ∧ s.latent = [] ∧ s.xlateNow 0 0 .load (0x80000 + 60) = none
        ∧ s.faultsAt 0 (0x80000 + 60) = true ∧ s.peers.contains 9 = false ∧ peerCopy.peers.contains 9 = true)
    ∧ (revoked8.bulks.map (·.out.length) = [2] ∧ revoked8.bulks.map (fun b => revoked8.bulkRevoked b 0) = [true])
    ∧ (∀ wr, (open8 wr).bulks.map (fun b => (open8 wr).bulkRevoked b 4) = [false] ∧ (open8 wr).keyLost (placeAt 4) = false
        ∧ (open8 wr).stationaryAt (placeAt 4).pa = false) := by decide +kernel

/-- Another kind is −8 (R90); PAGE parks a peer's copy, whose slot learns of it, until it walks again; a granule that was
revoked before a byte of it moved ends with −6 at its start (R75, R81). -/
theorem test_bulk_faults :
    (next? (exec (.adapterBulk 9 false 0x0002000000000009 60 8 []) (region0 3)) fun t => t.bulkOut == [⟨9, 0, -8, [], []⟩])
    ∧ ((onPage5 (region0 3)).stepBulk 0 0).bulkOut = [⟨9, 0, -4, [], []⟩]
    ∧ ((peerCopy.stepBulk 0 0).peerOut = [⟨9, 0, dw causePage, toBytes (0x80000 + 60) 8, []⟩]
        ∧ (peerCopy.stepBulk 0 0).bulks.map (·.fault) = [some (0x80000 + 60)]
        ∧ ((peerCopy.stepBulk 0 0).againBulk 9 0 true).bulks.map (·.fault) = [none]
        ∧ ((peerCopy.stepBulk 0 0).againBulk 9 0 false).bulks = [])
    ∧ (revoked8.stepBulk 0 1).bulkOut = [⟨9, 0, -6, [], []⟩] := by decide +kernel

theorem witness_ApexAndFabric_sound : ∀ wr, (moving wr).sound := by unfold State.sound; decide +kernel

theorem test_fabric :
    (next? (exec (.adapterBulk 9 true bulkHandle 60 0 [1, 2, 3, 4, 5, 6, 7, 8]) (region0 3)) fun t => t == moving true)
    ∧ (next? (exec (.adapterBulk 9 false bulkHandle 77 4 []) (region0 3)) fun t => t.bulkOut == [⟨9, 0, -4, [], []⟩])
    ∧ (next? (exec (.adapterBulk 9 false bulkHandle 60 4 []) { region0 3 with peers := [9] }) fun t => bits (t.devLog.entry 0).1.toNat 55 48 == 8)
    ∧ (next? (exec (.unreachable 9) base) fun t => t.unreachable == [9])
    ∧ (next? (exec (.routeWrite 9 [1]) { base with unreachable := [9] }) fun t => t.unreachable == [])
    ∧ (next? (exec .trip (stored (stored base 0x10000 [1]) (2 ^ 48) [2])) fun t => t.mem == [(0x10000, 1)] && t.slots == [] && t.power == .reset) := by
  decide +kernel

/-- The deliveries of a granule perform in any order, and the last one brings the answer (R87, R320). −6 with 256 bytes moved
is −(6 + 256·256) (R88). -/
theorem test_bulk :
    (let t := (open8 true).stepBulk 0 1
     rdBytes t.mem 0x500038 16 = [0, 0, 0, 0, 0, 0, 0, 0, 5, 6, 7, 8, 0, 0, 0, 0] ∧ t.bulkOut = []
     ∧ (t.stepBulk 0 0).bulkOut = [⟨9, 0, 8, [], []⟩] ∧ rdBytes (t.stepBulk 0 0).mem 0x50003C 8 = [1, 2, 3, 4, 5, 6, 7, 8])
    ∧ (((stored (open8 false) 0x50003C [1, 2, 3, 4, 5, 6, 7, 8]).stepBulk 0 1).stepBulk 0 0).bulkOut = [⟨9, 0, 8, [1, 2, 3, 4, 5, 6, 7, 8], []⟩]
    ∧ (cut.stepBulk 0 0).bulkOut = [⟨9, 0, -65542, [], []⟩] ∧ (cut.stepBulk 0 0).bulks = [] := by decide +kernel

/-- What a peer's traffic of context 0 does: device 9 reads, adds, delivers and arrives; device 8 may not. -/
def peered : State := { stored base 0x10020 [7] with peers := [8, 9], admission := [(9, [0])] }
def scattering (s : State) : State :=
  (s.fromPeer ⟨9, 3, 0, 0x10028, false, .hold 1 [2]⟩).fromPeer ⟨9, 3, 0, 0x10028, false, .hold 0 [1]⟩
theorem test_peers :
    (peered.fromPeer ⟨9, 0, 0, 0x10020, false, .amo 0 1 5 0⟩).peerOut = [⟨9, 0, 0, toBytes 7 8, []⟩]
    ∧ rdBytes (peered.fromPeer ⟨9, 0, 0, 0x10020, false, .amo 0 1 5 0⟩).mem 0x10020 1 = [12]
    ∧ (peered.fromPeer ⟨9, 0, 0, 2 ^ 48 + 0x40, false, .deliver [3] []⟩).mem = [(0x10020, 7), (2 ^ 48 + 0x40, 3)]
    ∧ (peered.fromPeer ⟨9, 0, 0, 2 ^ 48 + 0x40, false, .arrive⟩).arrivals = [⟨0, 2 ^ 48 + 0x40, 655369⟩]
    ∧ (peered.fromPeer ⟨9, 0, 0, 3 * 2 ^ 48, false, .read 8⟩).peerOut = [⟨9, 0, dw causeProt, [], []⟩]
    ∧ bits ((peered.fromPeer ⟨8, 0, 0, 0x10020, false, .hold 0 [1]⟩).devLog.entry 0).1.toNat 55 48 = 8 := by decide +kernel

/-- A peer's scatter writes nothing before its commit, and then in ascending lane order at one owner (R170). -/
theorem test_peer_scatter :
    let s := scattering peered
    let c := s.fromPeer ⟨9, 3, 0, 0, false, .commit⟩
    s.mem = peered.mem ∧ (s.performPeer 0).mem = peered.mem ∧ c.peerHeld.map (·.lane) = [0, 1] ∧ (c.performPeer 1).mem = peered.mem
    ∧ ((c.performPeer 0).performPeer 0).mem = [(0x10020, 7), (0x10028, 2)]
    ∧ (s.fromPeer ⟨9, 3, 0, 0, false, .cancel⟩).peerHeld = [] := by decide +kernel

/-- A peer's copy through a handle of this device is checked here (R90, R316), and its source read completes with the poisoned
bytes marked (R85). -/
theorem test_peer_copies :
    let s : State := { region0 3 with peers := [8], admission := [(8, [0])], poison := [2 ^ 48 + 0x48] }
    let ask (h : Dword) (o n : Nat) : BulkAsk := ⟨8, 5, 0, false, h, o, n, [], []⟩
    (s.fromAsk (ask (bulkHandle + 1) 0 4)).peerOut ++ (s.fromAsk (ask (bulkHandle + 1) 0 4)).bulkOut = [⟨8, 5, -5, [], []⟩]
    ∧ (s.fromAsk (ask bulkHandle 77 4)).bulkOut = [⟨8, 5, -4, [], []⟩]
    ∧ (s.fromAsk (ask bulkHandle 0 4)).bulks.map (·.len) = [4]
    ∧ (s.fromPeer ⟨8, 5, 0, 2 ^ 48 + 0x46, false, .copyRead 4⟩).peerOut.map (·.bad) = [[2, 3]] := by decide +kernel

theorem witness_ManagementAndImages :
    ([1] ∈ (region0 3).operators ∧ [2] ∉ (region0 3).operators ∧ (region0 3).session = true ∧ base.session = false
      ∧ (region0 3).power = .up ∧ { base with power := .refused }.power = .refused ∧ (region0 3).latent = [])
    ∧ ((0x0003000000000008 : Dword).toNat % 8 = 0 ∧ base.creg (0x0003000000000008 : Dword).toNat = some .xstat)
    ∧ ((region0 3).hbmRange 0x10000 16 = true ∧ (region0 3).hbmRange 0x10000 [1].length = true)
    ∧ ((List.replicate 32 (0 : Byte)).length = 32 ∧ (base.ctx 7).st = .free ∧ ([] : List Byte).length ≠ 1952)
    ∧ (((mapped.setCtx 0 { mapped.ctx 0 with st := .switchedOut }).ctx 0).st ≠ .running
        ∧ (mapped.setCtx 0 { mapped.ctx 0 with st := .switchedOut }).loadPlaceOf 0 0x50004 = some ⟨0x500004, none⟩
        ∧ 0x50004 % 64 + [1, 2].length ≤ 64) := by decide +kernel

/-- An image's launches to a bound queue and to one that is not. -/
def twoLaunches : Image := ⟨[], [], [(63, [7, 1, 2]), (2, [8])]⟩

theorem test_image_launches :
    next? (exec (.imageLoad 5 twoLaunches) (queue63 true 0 [] [])) fun t =>
      t.msgs.map (fun p => (p.held.msg.hdr, p.dest)) == [(7, .queue 63)] && t.unsent.map (fun x => (x.1, x.2.hdr)) == [(2, 8)] := by
  decide +kernel

theorem test_management :
    (next? (exec (.mgmtControlAccess false 0x0003000000000008 0) (region0 3)) fun t => t.mgmtOut == [(0x0003000000000008, List.replicate 8 0)])
    ∧ (next? (exec (.mgmtHbmAccess true 0x10000 0 [7]) (region0 3)) fun t => memGet t.mem 0x10000 == 7)
    ∧ (next? (exec (.svnRaise 200) { base with session := true, svn := 201 }) fun t => t.svn == 201)
    ∧ (next? (exec (.registerWrite 0x0003000100000880 4) base) fun t => (t.facet 0).idle == 4) := by decide +kernel

/-! ## The machine -/

/-- The word of add s3, s1, s2 placed, and the registers. -/
def placed : State :=
  let s := State.reset.withFetchWord 32 0x04611000
  s.setSlot 0 (regs [(1, 40), (2, 2)] (s.slot 0))

/-- S0 and S1 both hold a task, S0 issued last, and the next turn is that of slot `u`. -/
def pair (u : Nat) : State :=
  let s := placed.setSlot 1 { placed.slot 0 with bank := 0 }
  { (s.tookTurn 0) with schedule := [.issue u] }

theorem witness_StepRunsDecodedInstruction :
    let s0 : State := { placed with cur := 0 }
    let q : State := { pair 0 with schedule := [], tick := (pair 0).tick + 1, cur := 0 }
    let stuck : State := q.setSlot 1 { q.slot 1 with busy := false }
    placed.schedule = [.issue 0] ∧ 0 < numSlots ∧ s0.mayIssue 0 = true ∧ s0.takeDue 0 = none ∧ (placed.slot 0).conv = false
    ∧ (placed.slot 0).pc.toNat % 4 = 0 ∧ s0.look .fetch true (placed.slot 0).pc.toNat = .ok ⟨0x10000, none⟩ ∧ 0x10000 % 4 = 0
    ∧ (placed.slot 0).watched 2 (placed.slot 0).pc.toNat 4 = false ∧ placed.asleep 0x10000 = false
    ∧ placed.poisoned 0x10000 4 = false ∧ (∀ l ∈ s0.blocks ⟨0x10000, none⟩, l = placed.rd ⟨0x10000 / 32 * 32, none⟩ 32)
    ∧ decode (placed.rd ⟨0x10000, none⟩ 4) = .ok (.add 3 1 2, [])
    ∧ decode (base.rd ⟨0x10000, none⟩ 4) ≠ .ok (.add 3 1 2, []) ∧ base.rd ⟨0x10000, none⟩ 4 = wordBytes 0
    ∧ (Instr.kill 0).wf = true ∧ isEvent (.kill 0) = true ∧ placed.runs (.kill 0) = true ∧ State.reset.runs (.kill 0) = false
    ∧ { s0 with power := .reset }.mayIssue 0 = false
    ∧ (s0.setSlot 0 { s0.slot 0 with conv := true }).takeDue 0 = none
    ∧ ((s0.setSlot 0 { s0.slot 0 with duePreempt := true }).takeDue 0).isSome = true
    ∧ (q.mayIssue 0 = true ∧ q.lowBefore 0 = [1, 2] ∧ q.issuable 1 = true ∧ q.issuable 2 = false
        ∧ (next? (q.attempt 0) fun t => (q.slot 0).moved (t.slot 0)))
    ∧ (stuck.mayIssue 0 = true ∧ (∀ v ∈ stuck.lowBefore 0, stuck.issuable v = false)
        ∧ (next? (stuck.attempt 0) fun t => (stuck.slot 0).moved (t.slot 0))) := by decide +kernel

theorem witness_StepRunsDecodedInstruction_sound : placed.sound := by unfold State.sound; decide +kernel

/-- What the word's sources stand for is dropped before it runs (R87). -/
theorem test_step_acquires :
    let s := placed.setSlot 0 { placed.slot 0 with early := [⟨0, ⟨0x20000, none⟩, [0], [], false, 0, [2]⟩, ⟨0, ⟨0x20001, none⟩, [0], [], false, 0, [9]⟩] }
    next? (step s) fun t => t.here.early.map (·.behind) == [[9]] && t.here.s 3 == 42 := by decide +kernel

theorem test_step : next? (step placed) fun t => t.here.s 3 == 42 && t.here.pc == 0x10004 && t.tick == 1 := by decide +kernel

/-- S0 issued last: S1 comes first while it is ready, also where it has had a turn in which it waited; S3 holds both back
(R280). -/
theorem test_rotation :
    let waits (s : State) : State := s.setSlot 1 { s.slot 1 with pend := [1] }
    (next? (step (pair 0)) fun t => t.slot 0 == (pair 0).slot 0)
    ∧ (next? (step (pair 1)) fun t => (t.slot 1).pc == 0x10004 && Tbl.get 2 t.issued 0 == 1)
    ∧ (next? (step (waits (pair 0))) fun t => (t.slot 0).pc == 0x10004)
    ∧ (next? (step (waits (pair 1))) fun t => Tbl.get 2 t.issued 0 == 0)
    ∧ ((pair 1).setSlot 3 { (pair 1).slot 3 with busy := true }).mayIssue 1 = false := by decide +kernel

/-- A branch to itself issues (R280); E has no effect on a leaf into local memory (R104); a delivery through a key slot that a later
byte has passed performs before the slot is erased, and one that none has passed stays, to end with −4 (R325, R333). -/
theorem test_self_branch_and_keys :
    let through : Cmd := { second2 with out := [⟨0x10020, 0, ⟨0x10020, some 0⟩, [1, 2], [], 0⟩] }
    (next? (exec (.beq 0 0 0) base) fun t => base.here.pc == t.here.pc && base.here.moved t.here)
    ∧ base.checkLeaf 0 0 .load true false (2 ^ 48 + 0xF2) 0x20010 = some ⟨2 ^ 48 + 0x10, none⟩
    ∧ (next? (exec (.free 0) (twoEntries killedCtx through)) fun t => t.here.cpq.map (·.out.length) == [1, 0] && (t.ctx 0).st == .free)
    ∧ (next? (exec (.free 0) (twoEntries killedCtx { through with pos := 2 })) fun t => t.here.cpq.map (·.out.length) == [1, 1]
        && (t.ctx 0).st == .free && t.keySlot 0 == none)
    ∧ (next? (exec (.delivery 0 1 0 false) (twoEntries base { through with pos := 2 })) fun t => t.here.cpq.map (·.status) == [2, -4]) := by
  decide +kernel

/-- A load that has performed early gives what it read then, though memory has changed since (R225). -/
theorem test_early_load :
    let s : State := { with0 [(4, 0x10028)] with schedule := [.early 0 0x10028 8] }
    next? (step s) fun t => (next? (exec (.ldD 9 4 0) (stored t 0x10028 [5])) fun r => r.here.s 9 == 0)
      && (next? (exec (.ldD 9 4 0) (stored s 0x10028 [5])) fun r => r.here.s 9 == 5) := by decide +kernel

theorem test_first_word : decodeTableWord 32 0x04611000 = some (.add 3 1 2) ∧ decodeTableWord 32 0 = none := by decide +kernel

theorem witness_DecodeOfEncode : (Instr.vperm 1 2 11 7 .i8).isWord = true ∧ (Instr.vperm 1 2 11 7 .i8).wf = true := by decide

theorem witness_EncodeOfDecode : decodeWord 0xFFFF0000 ≠ .ok .nop ∧ decodeWord 0x4C000000 = .ok .nop := by decide

theorem witness_EveryStepKeepsCanonicalMemory : placed.Inv ∧ (next? (step placed) fun _ => true) := by
  unfold State.Inv; decide +kernel

theorem witness_TaskLevelKeepsSupervisorRegisters :
    isEvent (.add 3 1 2) = false ∧ placed.here.sup = false ∧ (next? (exec (.add 3 1 2) placed) fun t => !t.here.sup && t.here.busy) := by decide +kernel

theorem witness_ResetState : placed.Inv := by unfold State.Inv; decide +kernel

end Sys2Proof.Tests
end

section
/-!
SUPPORT. The scalar instructions of chapter 7: what the operations that they share do in each case of the scoreboard, the
arithmetic of products and quotients (R121, R122), the targets of branches and jumps (R126 to R128), and from these the
statements ProductsAndQuotients and BranchesAndJumps.
-/

namespace Sys2Proof.Machine

/-! ## Operations that scalar instructions share -/

section

variable {s : State} {a b d : Reg}

/-- A ready scalar instruction writes its result and goes on to the next word (R119, R120). -/
theorem State.scalar_of_ready {src : List Reg} (h : s.ready src d) (r : Slot → Dword) :
    s.scalar src d r = .next (s.wrote d (r s.here) s.nextPc) := by
  obtain ⟨hsrc, hd⟩ := h
  simp only [State.scalar, hsrc, hd, Bool.false_eq_true, if_false, Slot.advance, Slot.setS_pc]
  rfl

/-- An instruction that is a two-source operation writes the operation's value, once its registers are ready. -/
theorem exec_alu_of_ready {i : Instr} {f : Dword → Dword → Dword} {v : Dword} (hi : exec i s = s.alu d a b f)
    (h : s.ready [a, b] d) (hf : f (s.here.s a.toNat) (s.here.s b.toNat) = v) :
    exec i s = .next (s.wrote d v s.nextPc) := by
  rw [hi, State.alu, State.scalar_of_ready h, hf]

/-- A trap of the running instruction where its core has a handler is the entry of R284. -/
theorem State.trap_of_handles (h : s.handles) (code : Nat) (tval : Dword) : s.trap code tval = s.entered code tval := by
  obtain ⟨hsup, htvec⟩ := h
  have hsup' : (s.slot s.cur).sup = false := hsup
  have htvec' : (s.core (s.cur / 4)).tvec ≠ 0 := htvec
  simp only [State.trap, State.trapAt, hsup', htvec', Bool.false_eq_true, if_false]
  rfl

theorem exec_branch_of_srcPend {i : Instr} {o : BitVec 16} {c : Dword → Dword → Bool}
    (hi : exec i s = s.branch a b o c) (h : s.here.srcPend [a, b] = true) : exec i s = .next s := by
  rw [hi, State.branch, if_pos h]
  rfl

end

/-! ## Which operation each instruction is -/

section

variable (d a b : Reg) (o : BitVec 16) (s : State)

theorem exec_mul : exec (.mul d a b) s = s.alu d a b fun x y => x * y := rfl
theorem exec_mulh : exec (.mulh d a b) s = s.alu d a b fun x y => BitVec.ofInt 64 (x.toInt * y.toInt / 2 ^ 64) := rfl
theorem exec_mulhZ : exec (.mulhZ d a b) s = s.alu d a b fun x y => dw (x.toNat * y.toNat / 2 ^ 64) := rfl
theorem exec_div : exec (.div d a b) s = s.alu d a b divS := rfl
theorem exec_divZ : exec (.divZ d a b) s = s.alu d a b divU := rfl
theorem exec_rem : exec (.rem d a b) s = s.alu d a b remS := rfl
theorem exec_remZ : exec (.remZ d a b) s = s.alu d a b remU := rfl

theorem exec_beq : exec (.beq a b o) s = s.branch a b o fun x y => x == y := rfl
theorem exec_bne : exec (.bne a b o) s = s.branch a b o fun x y => x != y := rfl
theorem exec_blt : exec (.blt a b o) s = s.branch a b o fun x y => x.slt y := rfl
theorem exec_bge : exec (.bge a b o) s = s.branch a b o fun x y => !x.slt y := rfl
theorem exec_bltZ : exec (.bltZ a b o) s = s.branch a b o fun x y => x.ult y := rfl
theorem exec_bgeZ : exec (.bgeZ a b o) s = s.branch a b o fun x y => !x.ult y := rfl

end

/-! ## Products and quotients (R121, R122) -/

theorem mul_eq_ofInt (x y : Dword) : x * y = BitVec.ofInt 64 (x.toInt * y.toInt) := by
  rw [BitVec.ofInt_mul, BitVec.ofInt_toInt, BitVec.ofInt_toInt]

theorem mul_eq_ofNat (x y : Dword) : x * y = BitVec.ofNat 64 (x.toNat * y.toNat) := by
  rw [BitVec.ofNat_mul, BitVec.ofNat_toNat, BitVec.ofNat_toNat, BitVec.setWidth_eq, BitVec.setWidth_eq]

theorem divS_eq_ofInt (x y : Dword) : divS x y = BitVec.ofInt 64 (if y = 0 then -1 else x.toInt.tdiv y.toInt) := by
  by_cases hy : y = 0
  · rw [divS, if_pos hy, if_pos hy]
    rfl
  · rw [divS, if_neg hy, if_neg hy]

theorem divU_eq_ofNat (x y : Dword) : divU x y = BitVec.ofNat 64 (if y = 0 then 2 ^ 64 - 1 else x.toNat / y.toNat) := by
  by_cases hy : y = 0
  · rw [divU, if_pos hy, if_pos hy]
    rfl
  · rw [divU, if_neg hy, if_neg hy, dw]

/-- The signed remainder is what the truncated quotient leaves of the dividend. -/
theorem remS_eq_sub_mul_quotient (x y : Dword) :
    remS x y = if y = 0 then x
      else BitVec.ofInt 64 (x.toInt - y.toInt * (if y = 0 then -1 else x.toInt.tdiv y.toInt)) := by
  by_cases hy : y = 0
  · rw [remS, if_pos hy, if_pos hy]
  · rw [remS, if_neg hy, if_neg hy, if_neg hy, Int.tmod_def]

/-- The unsigned remainder is what the quotient leaves of the dividend. -/
theorem remU_eq_sub_mul_quotient (x y : Dword) :
    remU x y = if y = 0 then x
      else BitVec.ofNat 64 (x.toNat - y.toNat * (if y = 0 then 2 ^ 64 - 1 else x.toNat / y.toNat)) := by
  by_cases hy : y = 0
  · rw [remU, if_pos hy, if_pos hy]
  · rw [remU, if_neg hy, if_neg hy, if_neg hy, dw, Nat.mod_eq_sub]

section

variable {x y : Dword}

theorem ne_zero_of_toInt_eq_neg_one (hy : y.toInt = -1) : y ≠ 0 := by
  rintro rfl
  simp at hy

/-- The quotient 2^63 of the least number by -1 does not fit and wraps to the dividend (R122). -/
theorem divS_overflow (hx : x.toInt = -(2 ^ 63)) (hy : y.toInt = -1) : divS x y = BitVec.ofInt 64 (-(2 ^ 63)) := by
  rw [divS, if_neg (ne_zero_of_toInt_eq_neg_one hy), hx, hy]
  decide

theorem remS_overflow (hx : x.toInt = -(2 ^ 63)) (hy : y.toInt = -1) : remS x y = 0 := by
  rw [remS, if_neg (ne_zero_of_toInt_eq_neg_one hy), hx, hy]
  decide

end

/-- Settles O3: each instruction is one operation on the two source registers, and the operation's value is the product,
quotient or remainder of the statement. -/
theorem productsAndQuotients : Obligations.ProductsAndQuotients := by
  intro s d a b h
  refine ⟨?mul, ?mulUnsigned, ?mulh, ?mulhZ, ?div, ?divZ, ?rem, ?remZ, fun hx hy => ⟨?divOverflow, ?remOverflow⟩⟩
  case mul => exact exec_alu_of_ready (exec_mul d a b s) h (mul_eq_ofInt _ _)
  case mulUnsigned => exact exec_alu_of_ready (exec_mul d a b s) h (mul_eq_ofNat _ _)
  case mulh => exact exec_alu_of_ready (exec_mulh d a b s) h rfl
  case mulhZ => exact exec_alu_of_ready (exec_mulhZ d a b s) h rfl
  case div => exact exec_alu_of_ready (exec_div d a b s) h (divS_eq_ofInt _ _)
  case divZ => exact exec_alu_of_ready (exec_divZ d a b s) h (divU_eq_ofNat _ _)
  case rem => exact exec_alu_of_ready (exec_rem d a b s) h (remS_eq_sub_mul_quotient _ _)
  case remZ => exact exec_alu_of_ready (exec_remZ d a b s) h (remU_eq_sub_mul_quotient _ _)
  case divOverflow => exact exec_alu_of_ready (exec_div d a b s) h (divS_overflow hx hy)
  case remOverflow => exact exec_alu_of_ready (exec_rem d a b s) h (remS_overflow hx hy)

/-! ## Targets of branches and jumps (R126 to R128) -/

theorem imm16_eq_ofInt (i : BitVec 16) : imm16 i = BitVec.ofInt 64 i.toInt := rfl

/-- A doubleword shifted left by 2 is four times it, kept to 64 bits. -/
theorem ofInt_shiftLeft_two (n : Int) : BitVec.ofInt 64 n <<< 2 = BitVec.ofInt 64 (4 * n) := by
  rw [BitVec.shiftLeft_eq_mul_twoPow, BitVec.ofInt_mul, BitVec.mul_comm]
  rfl

theorem off16_eq_ofInt (o : BitVec 16) : off16 o = BitVec.ofInt 64 (4 * o.toInt) := ofInt_shiftLeft_two _

theorem off21_eq_ofInt (o : BitVec 21) : off21 o = BitVec.ofInt 64 (4 * o.toInt) := ofInt_shiftLeft_two _

theorem add_ofInt (x : Dword) (n : Int) : x + BitVec.ofInt 64 n = BitVec.ofInt 64 (x.toNat + n) := by
  rw [BitVec.ofInt_add, BitVec.ofInt_natCast, BitVec.ofNat_toNat, BitVec.setWidth_eq]

/-! ## Branches and jumps, case by case -/

section

variable {s : State} {a b d : Reg}

/-- A branch whose sources are not pending only moves the counter (R126). -/
theorem exec_branch_of_not_srcPend {i : Instr} {o : BitVec 16} {c : Dword → Dword → Bool} {taken : Prop}
    [Decidable taken] (hi : exec i s = s.branch a b o c) (h : s.here.srcPend [a, b] = false)
    (hc : c (s.here.s a.toNat) (s.here.s b.toNat) = true ↔ taken) :
    exec i s = .next (s.setHere (s.here.goto
      (if taken then BitVec.ofInt 64 (s.here.pc.toNat + 4 * o.toInt) else s.nextPc))) := by
  rw [hi, State.branch, if_neg (by simp [h])]
  by_cases ht : taken
  · rw [if_pos (hc.mpr ht), if_pos ht, off16_eq_ofInt, add_ofInt]
  · rw [if_neg (ht ∘ hc.mp), if_neg ht]
    rfl

/-- The target of JALR (R128). -/
def State.jalrTarget (s : State) (a : Reg) (i : BitVec 16) : Dword := BitVec.ofInt 64 ((s.here.s a.toNat).toNat + i.toInt)

/-- JALR with its target named: first the source's stall, then the misaligned target, then the pending link, then the
write (R128). -/
theorem exec_jalr (d a : Reg) (i : BitVec 16) (s : State) :
    exec (.jalr d a i) s =
      if s.here.srcPend [a] then .next s
      else if (s.jalrTarget a i).toNat % 4 ≠ 0 then .next (s.trap causeAlign (s.jalrTarget a i))
      else if s.here.isPend d.toNat then .next (s.clobber d.toNat)
      else .next (s.wrote d s.nextPc (s.jalrTarget a i)) := by
  rw [State.jalrTarget, ← add_ofInt, ← imm16_eq_ofInt]
  rfl

theorem exec_jalr_of_srcPend (h : s.here.srcPend [a] = true) (i : BitVec 16) : exec (.jalr d a i) s = .next s := by
  rw [exec_jalr, if_pos h]

section

variable {i : BitVec 16} (h : s.here.srcPend [a] = false)
include h

theorem exec_jalr_of_misaligned (hx : (s.jalrTarget a i).toNat % 4 ≠ 0) (hs : s.handles) :
    exec (.jalr d a i) s = .next (s.entered causeAlign (s.jalrTarget a i)) := by
  rw [exec_jalr, if_neg (by simp [h]), if_pos hx, State.trap_of_handles hs]

theorem exec_jalr_of_isPend (hx : (s.jalrTarget a i).toNat % 4 = 0) (hd : s.here.isPend d.toNat = true)
    (hs : s.handles) : exec (.jalr d a i) s = .next (s.entered causeClobber (BitVec.ofNat 64 d.toNat)) := by
  rw [exec_jalr, if_neg (by simp [h]), if_neg (not_not.mpr hx), if_pos hd, State.clobber, State.trap_of_handles hs, dw]

theorem exec_jalr_of_not_isPend (hx : (s.jalrTarget a i).toNat % 4 = 0) (hd : s.here.isPend d.toNat = false) :
    exec (.jalr d a i) s = .next (s.wrote d s.nextPc (s.jalrTarget a i)) := by
  rw [exec_jalr, if_neg (by simp [h]), if_neg (not_not.mpr hx), if_neg (by simp [hd])]

end

/-- JAL with its target as a number: first the pending link, then the write (R127). -/
theorem exec_jal (d : Reg) (o : BitVec 21) (s : State) :
    exec (.jal d o) s =
      if s.here.isPend d.toNat then .next (s.clobber d.toNat)
      else .next (s.wrote d s.nextPc (BitVec.ofInt 64 (s.here.pc.toNat + 4 * o.toInt))) := by
  rw [← add_ofInt, ← off21_eq_ofInt]
  rfl

theorem exec_jal_of_not_isPend (hd : s.here.isPend d.toNat = false) (o : BitVec 21) :
    exec (.jal d o) s = .next (s.wrote d s.nextPc (BitVec.ofInt 64 (s.here.pc.toNat + 4 * o.toInt))) := by
  rw [exec_jal, if_neg (by simp [hd])]

theorem exec_jal_of_isPend (hd : s.here.isPend d.toNat = true) (hs : s.handles) (o : BitVec 21) :
    exec (.jal d o) s = .next (s.entered causeClobber (BitVec.ofNat 64 d.toNat)) := by
  rw [exec_jal, if_pos hd, State.clobber, State.trap_of_handles hs, dw]

end

/-- Settles O5: the six branches are one operation, each with its own condition; the clauses of JAL and JALR are the cases
of those two instructions. -/
theorem branchesAndJumps : Obligations.BranchesAndJumps := by
  refine ⟨?branches, ?stalls, ?jumps⟩
  case branches =>
    intro s a b o h
    refine ⟨?beq, ?bne, ?blt, ?bge, ?bltZ, ?bgeZ⟩
    case beq => exact exec_branch_of_not_srcPend (exec_beq a b o s) h beq_iff_eq
    case bne => exact exec_branch_of_not_srcPend (exec_bne a b o s) h bne_iff_ne
    case blt => exact exec_branch_of_not_srcPend (exec_blt a b o s) h BitVec.slt_iff_toInt_lt
    case bge => exact exec_branch_of_not_srcPend (exec_bge a b o s) h (by simp [BitVec.slt])
    case bltZ => exact exec_branch_of_not_srcPend (exec_bltZ a b o s) h BitVec.ult_iff_lt
    case bgeZ => exact exec_branch_of_not_srcPend (exec_bgeZ a b o s) h (by simp [BitVec.ult])
  case stalls =>
    intro s a b o h
    exact ⟨exec_branch_of_srcPend (exec_beq a b o s) h, exec_branch_of_srcPend (exec_bne a b o s) h,
      exec_branch_of_srcPend (exec_blt a b o s) h, exec_branch_of_srcPend (exec_bge a b o s) h,
      exec_branch_of_srcPend (exec_bltZ a b o s) h, exec_branch_of_srcPend (exec_bgeZ a b o s) h⟩
  case jumps =>
    intro s d a o i
    refine ⟨?jal, ?jalr, ?misaligned, ?stall, ?clobber⟩
    case jal => exact fun hd => exec_jal_of_not_isPend hd o
    case jalr => exact fun ⟨ha, hd⟩ hx => exec_jalr_of_not_isPend ha hx hd
    case misaligned => exact fun ha hx hs => exec_jalr_of_misaligned ha hx hs
    case stall => exact fun ha => exec_jalr_of_srcPend ha i
    case clobber =>
      exact fun hd hs => ⟨exec_jal_of_isPend hd hs o, fun ha hx => exec_jalr_of_isPend ha hx hd hs⟩

end Sys2Proof.Machine
end

section
/-!
SUPPORT. The lanes of vector registers: what reading a lane gives after a register is built from lanes (R24), what the lanes
of an instruction under a mask are (R153), the flags of lanes that can raise NV alone (R154).
-/

namespace Sys2Proof.Machine

/-! ## Fields and lanes as numbers (R8, R24) -/

/-- A field of `n` bits from bit `lo` on. -/
theorem bits_eq_div_mod {n : Nat} (hn : 0 < n) (x lo : Nat) : bits x (lo + n - 1) lo = x / 2 ^ lo % 2 ^ n := by
  rw [bits, Nat.sub_add_cancel (by omega), Nat.add_sub_cancel_left]

theorem lane_eq_div_mod {w : Nat} (hw : 0 < w) (x : Vec) (k : Nat) : lane x k w = x.toNat / 2 ^ (k * w) % 2 ^ w :=
  bits_eq_div_mod hw x.toNat (k * w)

theorem lane_lt {w : Nat} (hw : 0 < w) (x : Vec) (k : Nat) : lane x k w < 2 ^ w := by
  rw [lane_eq_div_mod hw]
  exact Nat.mod_lt _ (Nat.two_pow_pos w)

theorem lanesNat_lt (w : Nat) (f : Nat → Nat) (n : Nat) : lanesNat w f n < 2 ^ (n * w) := by
  induction n with
  | zero => simp [lanesNat]
  | succ n ih =>
    rw [lanesNat, Nat.succ_mul, Nat.pow_add]
    have hlane : f n % 2 ^ w + 1 ≤ 2 ^ w := Nat.mod_lt _ (Nat.two_pow_pos w)
    calc lanesNat w f n + f n % 2 ^ w * 2 ^ (n * w) < (f n % 2 ^ w + 1) * 2 ^ (n * w) := by rw [Nat.succ_mul]; omega
      _ ≤ 2 ^ w * 2 ^ (n * w) := Nat.mul_le_mul_right _ hlane
      _ = 2 ^ (n * w) * 2 ^ w := Nat.mul_comm _ _

/-- Lane `k` of the number that a function's lanes make: the lanes above it vanish in the remainder, those below in the
quotient. -/
theorem lanesNat_div_mod (w : Nat) (f : Nat → Nat) {n k : Nat} (hk : k < n) :
    lanesNat w f n / 2 ^ (k * w) % 2 ^ w = f k % 2 ^ w := by
  induction n with
  | zero => omega
  | succ n ih =>
    rw [lanesNat]
    rcases Nat.lt_succ_iff_lt_or_eq.mp hk with hlt | rfl
    · obtain ⟨m, rfl⟩ := Nat.exists_eq_add_of_lt hlt
      have hsplit : 2 ^ ((k + m + 1) * w) = 2 ^ (k * w) * (2 ^ w * 2 ^ (m * w)) := by ring
      rw [hsplit, Nat.mul_left_comm, Nat.add_mul_div_left _ _ (Nat.two_pow_pos _), Nat.mul_left_comm,
        Nat.add_mul_mod_self_left, ih hlt]
    · rw [Nat.add_mul_div_right _ _ (Nat.two_pow_pos _), Nat.div_eq_of_lt (lanesNat_lt w f k), Nat.zero_add, Nat.mod_mod]

theorem lane_ofLanes {w n : Nat} (hw : 0 < w) (hn : n * w ≤ 256) (f : Nat → Nat) {k : Nat} (hk : k < n) :
    lane (ofLanes w n f) k w = f k % 2 ^ w := by
  have hfits : lanesNat w f n < 2 ^ 256 := Nat.lt_of_lt_of_le (lanesNat_lt w f n) (Nat.pow_le_pow_right (by omega) hn)
  rw [lane_eq_div_mod hw, ofLanes, BitVec.toNat_ofNat, Nat.mod_eq_of_lt hfits, lanesNat_div_mod w f hk]

theorem Fmt.width_pos (f : Fmt) : 0 < f.width := by cases f <;> decide
theorem Fmt.lanes_mul_width (f : Fmt) : f.lanes * f.width = 256 := by cases f <;> rfl
theorem Fmt.lanes_le_two_pow_width (f : Fmt) : f.lanes ≤ 2 ^ f.width := by cases f <;> decide

/-- A register built for a format has the lanes it was built from. -/
theorem Fmt.lane_ofLanes (f : Fmt) (g : Nat → Nat) {k : Nat} (hk : k < f.lanes) (hg : g k < 2 ^ f.width) :
    lane (ofLanes f.width f.lanes g) k f.width = g k := by
  rw [Machine.lane_ofLanes (Fmt.width_pos f) (Nat.le_of_eq (Fmt.lanes_mul_width f)) g hk, Nat.mod_eq_of_lt hg]

theorem Fmt.lane_lt (f : Fmt) (x : Vec) (k : Nat) : lane x k f.width < 2 ^ f.width := Machine.lane_lt (Fmt.width_pos f) x k

/-- SInt of R8 is the two's complement reading of the bits. -/
theorem sint_eq_toInt {n : Nat} (hn : 0 < n) (x : Nat) : sint x n = (BitVec.ofNat n x).toInt := by
  have hhalf : 2 ^ (n - 1) * 2 = 2 ^ n := Nat.two_pow_pred_mul_two hn
  rw [BitVec.toInt_eq_toNat_cond, BitVec.toNat_ofNat]
  by_cases h : x % 2 ^ n < 2 ^ (n - 1)
  · rw [sint, if_pos h, if_pos (by omega)]
  · rw [sint, if_neg h, if_neg (by omega), Nat.cast_pow]
    rfl

theorem Fmt.sint_lane (f : Fmt) (x : Vec) (k : Nat) : sint (lane x k f.width) f.width = laneInt x k f.width :=
  sint_eq_toInt (Fmt.width_pos f) _

/-! ## Completion of a vector instruction -/

theorem State.vecDone_eq_wroteV (s : State) (d : Reg) (r : Vec × Fl) :
    s.vecDone d r = .next (s.wroteV d r.1 r.2.mask) := rfl

theorem Fl.none_mask : Fl.none.mask = 0 := rfl

theorem State.vecDone_eq_wroteV_of_quiet (s : State) (d : Reg) {r : Vec × Fl} (h : r.2 = Fl.none) :
    s.vecDone d r = .next (s.wroteV d r.1 0) := by
  rw [State.vecDone_eq_wroteV, h, Fl.none_mask]

theorem sigFl_or (x y : Bool) : (sigFl x).or (sigFl y) = sigFl (x || y) := by cases x <;> cases y <;> rfl

theorem sigFl_mask (x : Bool) : (sigFl x).mask = if x then 0x100 else 0 := by cases x <;> rfl

/-- Where the lanes can raise NV alone, the flags of the active ones are NV of any of them. -/
theorem laneFlags_eq_sigFl {p : BitVec 32} {w : Nat} {g : Nat → Nat × Fl} {bad : Nat → Bool}
    (h : ∀ k, (g k).2 = sigFl (bad k)) (n : Nat) :
    laneFlags p w g n = sigFl ((List.range n).any fun k => active p k w && bad k) := by
  induction n with
  | zero => rfl
  | succ n ih =>
    rw [laneFlags, List.range_succ, List.any_append, ih, h, sigFl_or]
    by_cases hn : active p n w = true <;> simp [hn]

theorem vmap_quiet (old : Vec) (p : BitVec 32) (w n : Nat) (val : Nat → Nat) :
    (vmap old p w n fun k => (val k, Fl.none)).2 = Fl.none := by
  rw [vmap, laneFlags_eq_sigFl (bad := fun _ => false) fun _ => rfl]
  simp [sigFl]

/-- The lanes of `vmap`: an active one gets its value, another keeps what it held (R153). -/
theorem lane_vmap (f : Fmt) (old : Vec) (p : BitVec 32) (g : Nat → Nat × Fl) {k : Nat} (hk : k < f.lanes)
    (hg : (g k).1 < 2 ^ f.width) :
    lane (vmap old p f.width f.lanes g).1 k f.width = if active p k f.width then (g k).1 else lane old k f.width := by
  refine Fmt.lane_ofLanes f _ hk ?_
  split
  · exact hg
  · exact Fmt.lane_lt f old k

/-- An instruction whose active lanes receive bits without a flag completes lane by lane: `val'` is what the model computes,
`val` what the statement says of the lanes there are. -/
theorem State.laneWise_of_vmap {s : State} {i : Instr} {d : Reg} {q : PReg} {f : Fmt} {val val' : Nat → Nat}
    (hi : exec i s = s.vecDone d
      (vmap (s.here.vreg d.toNat) (s.here.preg q.toNat) f.width f.lanes fun k => (val' k, Fl.none)))
    (hlt : ∀ k, val' k < 2 ^ f.width) (hval : ∀ k, k < f.lanes → val' k = val k) : s.laneWise i d q f val := by
  refine ⟨_, hi.trans (s.vecDone_eq_wroteV_of_quiet d (vmap_quiet _ _ _ _ _)), fun k hk => ?_⟩
  rw [← hval k hk]
  exact lane_vmap f _ _ (fun k => (val' k, Fl.none)) hk (hlt k)

end Sys2Proof.Machine
end

section
/-!
SUPPORT. The order of float patterns (R135 to R138): the value of a pattern by its fields, and that patterns which are no NaNs
compare as their keys, so that a float comparison is one of integers (R160).
-/

namespace Sys2Proof.Machine

/-! ## The order of float patterns (R135, R137, R160) -/

theorem BinFmt.signBit_eq_mul (F : BinFmt) : F.signBit = 2 ^ F.fb * 2 ^ F.eb := by
  rw [BinFmt.signBit, Nat.pow_add, Nat.mul_comm]

theorem BinFmt.signBit_pos (F : BinFmt) : 0 < F.signBit := Nat.two_pow_pos _

theorem BinFmt.infBits_false (F : BinFmt) : F.infBits false = (2 ^ F.eb - 1) * 2 ^ F.fb := rfl

/-- The exponent and the fraction of a pattern are those of the bits below its sign. -/
theorem BinFmt.mod_signBit_div (F : BinFmt) (x : Nat) : x % F.signBit / 2 ^ F.fb = x / 2 ^ F.fb % 2 ^ F.eb := by
  rw [BinFmt.signBit_eq_mul, Nat.mod_mul_right_div_self]

theorem BinFmt.mod_signBit_mod (F : BinFmt) (x : Nat) : x % F.signBit % 2 ^ F.fb = x % 2 ^ F.fb := by
  rw [BinFmt.signBit_eq_mul, Nat.mod_mul_right_mod]

/-- A pattern is finite exactly where its exponent is not the last one. -/
theorem BinFmt.lt_infBits_iff (F : BinFmt) (x : Nat) :
    x % F.signBit < F.infBits false ↔ x / 2 ^ F.fb % 2 ^ F.eb ≠ 2 ^ F.eb - 1 := by
  have hex : x / 2 ^ F.fb % 2 ^ F.eb < 2 ^ F.eb := Nat.mod_lt _ (Nat.two_pow_pos _)
  rw [BinFmt.infBits_false, ← Nat.div_lt_iff_lt_mul (Nat.two_pow_pos _), BinFmt.mod_signBit_div]
  omega

/-- With the last exponent, the bits below the sign are those of infinity and the fraction. -/
theorem BinFmt.mod_signBit_of_last {F : BinFmt} {x : Nat} (h : x / 2 ^ F.fb % 2 ^ F.eb = 2 ^ F.eb - 1) :
    x % F.signBit = F.infBits false + x % 2 ^ F.fb := by
  rw [← Nat.div_add_mod (x % F.signBit) (2 ^ F.fb), BinFmt.mod_signBit_div, BinFmt.mod_signBit_mod, h,
    BinFmt.infBits_false, Nat.mul_comm]

theorem BinFmt.exponent_of_infBits_le {F : BinFmt} {x : Nat} (h : F.infBits false ≤ x % F.signBit) :
    x / 2 ^ F.fb % 2 ^ F.eb = 2 ^ F.eb - 1 :=
  not_not.mp fun hne => Nat.not_lt.mpr h ((F.lt_infBits_iff x).mpr hne)

/-- The magnitude of a finite pattern by the bits below its sign, in units of the least subnormal. -/
def BinFmt.units (F : BinFmt) (u : Nat) : Nat :=
  if u / 2 ^ F.fb = 0 then u % 2 ^ F.fb else (2 ^ F.fb + u % 2 ^ F.fb) * 2 ^ (u / 2 ^ F.fb - 1)

theorem BinFmt.units_mul_add (F : BinFmt) (q : Nat) {r : Nat} (hr : r < 2 ^ F.fb) :
    F.units (2 ^ F.fb * q + r) = if q = 0 then r else (2 ^ F.fb + r) * 2 ^ (q - 1) := by
  rw [BinFmt.units, Nat.mul_add_div (Nat.two_pow_pos _), Nat.div_eq_of_lt hr, Nat.add_zero, Nat.mul_add_mod,
    Nat.mod_eq_of_lt hr]

/-- The next pattern is greater: within an exponent by its fraction, else as the first of the next exponent. -/
theorem BinFmt.units_strictMono (F : BinFmt) : StrictMono F.units := by
  refine strictMono_nat_of_lt_succ fun u => ?_
  have hr : u % 2 ^ F.fb < 2 ^ F.fb := Nat.mod_lt _ (Nat.two_pow_pos _)
  rw [← Nat.div_add_mod u (2 ^ F.fb)]
  generalize u / 2 ^ F.fb = q at *
  generalize u % 2 ^ F.fb = r at *
  by_cases hlast : r + 1 < 2 ^ F.fb
  · rw [Nat.add_assoc, F.units_mul_add q hr, F.units_mul_add q hlast]
    split
    · exact Nat.lt_succ_self r
    · exact Nat.mul_lt_mul_of_pos_right (Nat.lt_succ_self _) (Nat.two_pow_pos _)
  · have hnext : 2 ^ F.fb * q + r + 1 = 2 ^ F.fb * (q + 1) + 0 := by rw [Nat.mul_succ]; omega
    rw [hnext, F.units_mul_add q hr, F.units_mul_add (q + 1) (Nat.two_pow_pos _), if_neg (Nat.succ_ne_zero q),
      Nat.add_zero, Nat.add_sub_cancel]
    cases q with
    | zero => simpa using hr
    | succ q =>
      rw [if_neg (Nat.succ_ne_zero q), Nat.add_sub_cancel, Nat.pow_succ', ← Nat.mul_assoc]
      exact Nat.mul_lt_mul_of_pos_right (by omega) (Nat.two_pow_pos _)

section

variable {F : BinFmt} (heb : 0 < F.eb) (hfb : 0 < F.fb)
include heb hfb

/-- The value of a pattern by its sign, exponent and fraction (R135). -/
theorem BinFmt.decode_eq_fields (ftz : Bool) (x : Nat) :
    F.decode ftz x = if x / 2 ^ F.fb % 2 ^ F.eb = 2 ^ F.eb - 1 then
        (if x % 2 ^ F.fb = 0 then .inf (bit x (F.eb + F.fb)) else .nan (!bit x (F.fb - 1)))
      else if x / 2 ^ F.fb % 2 ^ F.eb = 0 then
        .fin (bit x (F.eb + F.fb)) (if ftz then 0 else x % 2 ^ F.fb) (F.emin - F.fb)
      else .fin (bit x (F.eb + F.fb)) (2 ^ F.fb + x % 2 ^ F.fb)
        (((x / 2 ^ F.fb % 2 ^ F.eb : Nat) : Int) - F.bias - F.fb) := by
  have hex : bits x (F.eb + F.fb - 1) F.fb = x / 2 ^ F.fb % 2 ^ F.eb := by
    rw [Nat.add_comm]
    exact bits_eq_div_mod heb x F.fb
  have hfr : bits x (F.fb - 1) 0 = x % 2 ^ F.fb := by
    have := bits_eq_div_mod hfb x 0
    rwa [Nat.zero_add, Nat.pow_zero, Nat.div_one] at this
  rw [BinFmt.decode, hex, hfr]

theorem BinFmt.decode_of_infBits_lt (ftz : Bool) {x : Nat} (h : F.infBits false < x % F.signBit) :
    F.decode ftz x = .nan (!bit x (F.fb - 1)) := by
  have hex := BinFmt.exponent_of_infBits_le (Nat.le_of_lt h)
  have hfr := BinFmt.mod_signBit_of_last hex
  rw [BinFmt.decode_eq_fields heb hfb, if_pos hex, if_neg (by omega)]

theorem BinFmt.decode_of_eq_infBits (ftz : Bool) {x : Nat} (h : x % F.signBit = F.infBits false) :
    F.decode ftz x = .inf (bit x (F.eb + F.fb)) := by
  have hex := BinFmt.exponent_of_infBits_le (Nat.le_of_eq h.symm)
  have hfr := BinFmt.mod_signBit_of_last hex
  rw [BinFmt.decode_eq_fields heb hfb, if_pos hex, if_pos (by omega)]

theorem BinFmt.decode_of_lt_infBits {x : Nat} (h : x % F.signBit < F.infBits false) :
    ∃ m e, F.decode false x = .fin (bit x (F.eb + F.fb)) m e ∧ F.emin - F.fb ≤ e
      ∧ m * 2 ^ (e - (F.emin - F.fb)).toNat = F.units (x % F.signBit) := by
  rw [BinFmt.decode_eq_fields heb hfb, if_neg ((F.lt_infBits_iff x).mp h), BinFmt.units, BinFmt.mod_signBit_div,
    BinFmt.mod_signBit_mod]
  by_cases hex : x / 2 ^ F.fb % 2 ^ F.eb = 0
  · rw [if_pos hex, if_pos hex]
    exact ⟨_, _, rfl, Int.le_refl _, by simp⟩
  · rw [if_neg hex, if_neg hex]
    refine ⟨_, _, rfl, by rw [BinFmt.emin]; omega, ?_⟩
    congr 2
    rw [BinFmt.emin]
    omega

/-- A pattern is a NaN exactly where the bits below its sign lie above those of infinity. -/
theorem BinFmt.isNan_decode (ftz : Bool) (x : Nat) : (F.decode ftz x).isNan = decide (F.infBits false < x % F.signBit) := by
  by_cases h : F.infBits false < x % F.signBit
  · rw [BinFmt.decode_of_infBits_lt heb hfb ftz h, decide_eq_true h, Val.isNan]
  · rw [decide_eq_false h, BinFmt.decode_eq_fields heb hfb]
    split
    · next hex =>
      have hfr := BinFmt.mod_signBit_of_last hex
      rw [if_pos (by omega)]
      rfl
    · split <;> rfl

theorem BinFmt.decode_of_exponent_zero (ftz : Bool) {x : Nat} (h : x / 2 ^ F.fb % 2 ^ F.eb = 0) :
    F.decode ftz x = .fin (bit x (F.eb + F.fb)) (if ftz then 0 else x % 2 ^ F.fb) (F.emin - F.fb) := by
  have htwo : 1 < 2 ^ F.eb := Nat.one_lt_two_pow (by omega)
  rw [BinFmt.decode_eq_fields heb hfb, if_neg (by omega), if_pos h]

/-- FTZ is a change of the pattern before it is read (R137). -/
theorem BinFmt.decode_false_seen (ftz : Bool) (x : Nat) : F.decode false (F.seen ftz x) = F.decode ftz x := by
  by_cases h : ftz = true ∧ x / 2 ^ F.fb % 2 ^ F.eb = 0
  · obtain ⟨rfl, hex⟩ := h
    have hzero : x / F.signBit * F.signBit % F.signBit = 0 := Nat.mul_mod_left _ _
    have hex' : x / F.signBit * F.signBit / 2 ^ F.fb % 2 ^ F.eb = 0 := by
      rw [← BinFmt.mod_signBit_div, hzero, Nat.zero_div]
    have hfr' : x / F.signBit * F.signBit % 2 ^ F.fb = 0 := by rw [← BinFmt.mod_signBit_mod, hzero, Nat.zero_mod]
    have hsign : bit (x / F.signBit * F.signBit) (F.eb + F.fb) = bit x (F.eb + F.fb) := by
      rw [bit, bit, ← BinFmt.signBit, Nat.mul_div_cancel _ F.signBit_pos]
    rw [BinFmt.seen, if_pos ⟨rfl, hex⟩, BinFmt.decode_of_exponent_zero heb hfb _ hex',
      BinFmt.decode_of_exponent_zero heb hfb _ hex, hsign, hfr']
    rfl
  · rw [BinFmt.seen, if_neg h]
    cases ftz with
    | false => rfl
    | true =>
      have hex : x / 2 ^ F.fb % 2 ^ F.eb ≠ 0 := fun hex => h ⟨rfl, hex⟩
      rw [BinFmt.decode_eq_fields heb hfb, BinFmt.decode_eq_fields heb hfb, if_neg hex, if_neg hex]

end

/-! ## Comparison of float lanes (R160) -/

/-- A magnitude with a sign. -/
def withSign (neg : Bool) (mag : Nat) : Int := if neg then -(mag : Int) else mag

@[simp] theorem withSign_false (mag : Nat) : withSign false mag = mag := rfl
@[simp] theorem withSign_true (mag : Nat) : withSign true mag = -(mag : Int) := rfl

theorem scaled_eq_withSign (neg : Bool) (mag : Nat) (e q : Int) :
    scaled neg mag e q = withSign neg (mag * 2 ^ (e - q).toNat) := rfl

theorem withSign_mul (neg : Bool) (mag c : Nat) : withSign neg (mag * c) = withSign neg mag * c := by
  cases neg <;> simp

theorem compare_congr {a b c d : Int} (hlt : a < b ↔ c < d) (heq : a = b ↔ c = d) : compare a b = compare c d := by
  simp only [compare, compareOfLessAndEq, hlt, heq]

theorem compare_mul_pos (a b : Int) {c : Nat} (hc : 0 < c) : compare (a * c) (b * c) = compare a b := by
  have hc' : (0 : Int) < c := by omega
  exact compare_congr (Int.mul_lt_mul_right hc') (Int.mul_eq_mul_right_iff (by omega))

/-- Two numbers with a sign compare as their images with the sign, under a strictly increasing map that fixes 0. -/
theorem compare_withSign_map {f : Nat → Nat} (hf : StrictMono f) (h0 : f 0 = 0) (m n : Bool) (u v : Nat) :
    compare (withSign m (f u)) (withSign n (f v)) = compare (withSign m u) (withSign n v) := by
  have huv := hf.lt_iff_lt (a := u) (b := v)
  have hvu := hf.lt_iff_lt (a := v) (b := u)
  have hu := hf.lt_iff_lt (a := 0) (b := u)
  have hv := hf.lt_iff_lt (a := 0) (b := v)
  rw [h0] at hu hv
  refine compare_congr ?_ ?_
  all_goals cases m <;> cases n <;> simp only [withSign_true, withSign_false] <;> omega

/-- Against a smaller magnitude the sign decides. -/
theorem compare_withSign_of_gt {u v : Nat} (h : v < u) (m n : Bool) :
    compare (withSign m u) (withSign n v) = if m then .lt else .gt := by
  cases m <;> cases n <;> simp only [withSign_true, withSign_false, if_true, if_false, Bool.false_eq_true]
  · exact compare_gt_iff_gt.mpr (by omega)
  · exact compare_gt_iff_gt.mpr (by omega)
  · exact compare_lt_iff_lt.mpr (by omega)
  · exact compare_lt_iff_lt.mpr (by omega)

theorem compare_withSign_of_lt {u v : Nat} (h : u < v) (m n : Bool) :
    compare (withSign m u) (withSign n v) = if n then .gt else .lt := by
  rw [← Int.compare_swap, compare_withSign_of_gt h]
  cases n <;> rfl

theorem compare_withSign_same {u : Nat} (h : 0 < u) (m n : Bool) :
    compare (withSign m u) (withSign n u) = if m = n then .eq else if m then .lt else .gt := by
  cases m <;> cases n <;> simp only [withSign_true, withSign_false, if_true, if_false, Bool.false_eq_true, reduceCtorEq]
  · exact compare_eq_iff_eq.mpr rfl
  · exact compare_gt_iff_gt.mpr (by omega)
  · exact compare_lt_iff_lt.mpr (by omega)
  · exact compare_eq_iff_eq.mpr rfl

/-- Finite values compare as their integers in units of any power of two not above their exponents. -/
theorem cmpVal_fin {l e₁ e₂ : Int} (h₁ : l ≤ e₁) (h₂ : l ≤ e₂) (n₁ n₂ : Bool) (m₁ m₂ : Nat) :
    cmpVal (.fin n₁ m₁ e₁) (.fin n₂ m₂ e₂)
      = compare (withSign n₁ (m₁ * 2 ^ (e₁ - l).toNat)) (withSign n₂ (m₂ * 2 ^ (e₂ - l).toNat)) := by
  obtain ⟨hle, hle₁, hle₂⟩ : l ≤ minInt e₁ e₂ ∧ minInt e₁ e₂ ≤ e₁ ∧ minInt e₁ e₂ ≤ e₂ := by
    unfold minInt
    split <;> omega
  have hsplit (m : Nat) {e : Int} (he : minInt e₁ e₂ ≤ e) :
      m * 2 ^ (e - l).toNat = m * 2 ^ (e - minInt e₁ e₂).toNat * 2 ^ (minInt e₁ e₂ - l).toNat := by
    rw [Nat.mul_assoc, ← Nat.pow_add]
    congr 2
    omega
  rw [hsplit m₁ hle₁, hsplit m₂ hle₂, withSign_mul _ (_ * _), withSign_mul _ (_ * _),
    compare_mul_pos _ _ (Nat.two_pow_pos _), cmpVal, scaled_eq_withSign, scaled_eq_withSign]

section

variable {F : BinFmt} (heb : 0 < F.eb) (hfb : 0 < F.fb)
include heb hfb

/-- Patterns that are no NaNs compare as the bits below their signs with the signs. -/
theorem BinFmt.cmpVal_decode_false {x y : Nat} (hx : x % F.signBit ≤ F.infBits false)
    (hy : y % F.signBit ≤ F.infBits false) :
    cmpVal (F.decode false x) (F.decode false y)
      = compare (withSign (bit x (F.eb + F.fb)) (x % F.signBit)) (withSign (bit y (F.eb + F.fb)) (y % F.signBit)) := by
  rcases Nat.lt_or_eq_of_le hx with hx | hx <;> rcases Nat.lt_or_eq_of_le hy with hy | hy
  · obtain ⟨m₁, e₁, h₁, hl₁, hu₁⟩ := BinFmt.decode_of_lt_infBits heb hfb hx
    obtain ⟨m₂, e₂, h₂, hl₂, hu₂⟩ := BinFmt.decode_of_lt_infBits heb hfb hy
    rw [h₁, h₂, cmpVal_fin hl₁ hl₂, hu₁, hu₂, compare_withSign_map F.units_strictMono (by simp [BinFmt.units])]
  · obtain ⟨m, e, h, -, -⟩ := BinFmt.decode_of_lt_infBits heb hfb hx
    rw [h, BinFmt.decode_of_eq_infBits heb hfb false hy, hy, compare_withSign_of_lt hx]
    rfl
  · obtain ⟨m, e, h, -, -⟩ := BinFmt.decode_of_lt_infBits heb hfb hy
    rw [h, BinFmt.decode_of_eq_infBits heb hfb false hx, hx, compare_withSign_of_gt hy]
    rfl
  · have hinf : 0 < F.infBits false := by
      have : 1 < 2 ^ F.eb := Nat.one_lt_two_pow (by omega)
      exact Nat.mul_pos (by omega) (Nat.two_pow_pos _)
    rw [BinFmt.decode_of_eq_infBits heb hfb false hx, BinFmt.decode_of_eq_infBits heb hfb false hy, hx, hy,
      compare_withSign_same hinf]
    rfl

end

section

variable {F : BinFmt} {x y : Nat}

theorem BinFmt.key_eq_withSign (hx : x < 2 * F.signBit) :
    F.key x = withSign (bit x (F.eb + F.fb)) (x % F.signBit) := by
  have hdiv := Nat.div_add_mod x F.signBit
  rw [BinFmt.key, bit, ← BinFmt.signBit]
  by_cases h : x < F.signBit
  · rw [if_pos h, Nat.div_eq_of_lt h, Nat.mod_eq_of_lt h]
    rfl
  · have hone : x / F.signBit = 1 := Nat.div_eq_of_lt_le (by omega) (by omega)
    rw [hone, Nat.mul_one] at hdiv
    rw [if_neg h, hone, withSign, if_pos (by rfl)]
    omega

theorem BinFmt.seen_lt (hx : x < 2 * F.signBit) (ftz : Bool) : F.seen ftz x < 2 * F.signBit := by
  rw [BinFmt.seen]
  split
  · exact Nat.lt_of_le_of_lt (Nat.div_mul_le_self x F.signBit) hx
  · exact hx

/-- Patterns that are no NaNs compare as their keys (R137, R160). -/
theorem BinFmt.cmpVal_decode (heb : 0 < F.eb) (hfb : 0 < F.fb) (ftz : Bool) (hx : x < 2 * F.signBit)
    (hy : y < 2 * F.signBit) (hnx : (F.decode ftz x).isNan = false) (hny : (F.decode ftz y).isNan = false) :
    cmpVal (F.decode ftz x) (F.decode ftz y) = compare (F.key (F.seen ftz x)) (F.key (F.seen ftz y)) := by
  rw [← BinFmt.decode_false_seen heb hfb ftz, BinFmt.isNan_decode heb hfb, decide_eq_false_iff_not, Nat.not_lt] at hnx hny
  rw [← BinFmt.decode_false_seen heb hfb ftz x, ← BinFmt.decode_false_seen heb hfb ftz y,
    BinFmt.cmpVal_decode_false heb hfb hnx hny, BinFmt.key_eq_withSign (BinFmt.seen_lt hx ftz),
    BinFmt.key_eq_withSign (BinFmt.seen_lt hy ftz)]

end

/-- A condition on numbers in order; those of unsigned integers and of NaNs never hold. -/
def orderHolds (c : Cond) (x y : Int) : Bool :=
  match c with
  | .eq => x == y
  | .ne => x != y
  | .lt => x < y
  | .le => x ≤ y
  | .gt => x > y
  | .ge => x ≥ y
  | .ltz | .lez | .gtz | .gez | .un => false

/-- A comparison of NaNs is invalid where one signals, and where the condition is one of order (R160). -/
def compareInvalid (c : Cond) (v w : Val) : Bool :=
  (v.isNan || w.isNan) && (v.isSig || w.isSig || !(c == .eq || c == .ne || c == .un))

theorem cmpFloat_of_nan {v w : Val} (h : (v.isNan || w.isNan) = true) (c : Cond) :
    cmpFloat c v w = (c == .ne || c == .un, sigFl (compareInvalid c v w)) := by
  unfold cmpFloat
  rw [if_pos h, compareInvalid, h, Bool.true_and]
  cases c
  all_goals cases v.isSig || w.isSig <;> rfl

theorem cmpFloat_of_not_nan {v w : Val} (h : (v.isNan || w.isNan) = false) {x y : Int} (hxy : cmpVal v w = compare x y)
    (c : Cond) : cmpFloat c v w = (orderHolds c x y, sigFl (compareInvalid c v w)) := by
  unfold cmpFloat
  rw [if_neg (by simp [h]), compareInvalid, h, Bool.false_and, hxy]
  rcases lt_trichotomy x y with hlt | rfl | hgt
  · rw [compare_lt_iff_lt.mpr hlt]
    cases c <;> simp [orderHolds, sigFl] <;> omega
  · rw [compare_eq_iff_eq.mpr rfl]
    cases c <;> simp [orderHolds, sigFl]
  · rw [compare_gt_iff_gt.mpr hgt]
    cases c <;> simp [orderHolds, sigFl] <;> omega

end Sys2Proof.Machine
end

section
/-!
SUPPORT. The bit moves, compares and the list of non-zero lanes (R156, R159, R160, R165 to R167): each instruction by its
lanes, and from these the statement LaneMovesAndCompares.
-/

namespace Sys2Proof.Machine

/-! ## Bit moves (R156, R159, R165, R166) -/

section

variable (s : State) (d a b n : Reg) (q : PReg) (f : Fmt)

theorem exec_vsel_lanes :
    ∃ r : Vec, exec (.vsel d a b q f) s = .next (s.wroteV d r 0) ∧ ∀ k, k < f.lanes →
      lane r k f.width = if active (s.here.preg q.toNat) k f.width then lane (s.here.vreg a.toNat) k f.width
        else lane (s.here.vreg b.toNat) k f.width := by
  refine ⟨_, s.vecDone_eq_wroteV_of_quiet d rfl, fun k hk => Fmt.lane_ofLanes f _ hk ?_⟩
  split
  · exact Fmt.lane_lt f _ k
  · exact Fmt.lane_lt f _ k

theorem exec_vbc_laneWise (h : s.here.srcPend [a] = false) :
    s.laneWise (.vbc d a q f) d q f fun _ => (s.here.s a.toNat).toNat % 2 ^ f.width :=
  State.laneWise_of_vmap (if_neg (by simp [h])) (fun _ => Nat.mod_lt _ (Nat.two_pow_pos _)) fun _ _ => rfl

theorem exec_vxl_laneWise :
    s.laneWise (.vxl d a b q f) d q f fun k =>
      if lane (s.here.vreg b.toNat) k f.width < f.lanes
      then lane (s.here.vreg a.toNat) (lane (s.here.vreg b.toNat) k f.width) f.width else 0 := by
  refine State.laneWise_of_vmap rfl (fun k => ?_) fun _ _ => rfl
  split
  · exact Fmt.lane_lt f _ _
  · exact Nat.two_pow_pos _

/-- VPERM moves the lanes that a pattern's formula names, where the formula is what the table of R166 says and stays below
the number of lanes. -/
theorem exec_vperm_laneWise {source : Nat → Nat}
    (h : ∀ k, k < f.lanes → permLane n.toNat f.lanes k = source k ∧ source k < f.lanes) :
    s.laneWise (.vperm d a n q f) d q f (fun k => lane (s.here.vreg a.toNat) (source k) f.width)
      ∧ ∀ k, k < f.lanes → source k < f.lanes :=
  ⟨State.laneWise_of_vmap rfl (fun _ => Fmt.lane_lt f _ _) fun k hk => by rw [(h k hk).1], fun k hk => (h k hk).2⟩

end

/-- An exchange of lanes at a power of two stays among the lanes, whose number is a power of two. -/
theorem Fmt.xor_two_pow_lt_lanes (f : Fmt) {k m : Nat} (hk : k < f.lanes) (hm : 2 ^ m < f.lanes) : k ^^^ 2 ^ m < f.lanes := by
  obtain ⟨e, he⟩ : ∃ e, f.lanes = 2 ^ e := by
    cases f
    exacts [⟨5, rfl⟩, ⟨3, rfl⟩, ⟨4, rfl⟩, ⟨3, rfl⟩]
  rw [he] at hk hm ⊢
  exact Nat.xor_lt_two_pow hk hm

/-- The exchanges are the rows of R166's table between the reversal and the rotations. -/
theorem permLane_of_exchange {n : Nat} (h2 : 2 ≤ n) (h6 : n ≤ 6) (l k : Nat) : permLane n l k = k ^^^ 2 ^ (n - 2) := by
  obtain rfl | rfl | rfl | rfl | rfl : n = 2 ∨ n = 3 ∨ n = 4 ∨ n = 5 ∨ n = 6 := by omega
  all_goals rfl

/-- The rotation downward by one lane, of integers in R166's table, with a natural dividend. -/
theorem toNat_pred_emod {l : Nat} (hl : 0 < l) (k : Nat) : (((k : Int) - 1).emod l).toNat = (k + l - 1) % l := by
  have hdividend : ((k + l - 1 : Nat) : Int) = (k : Int) - 1 + l := by omega
  have hmod : ((k : Int) - 1).emod l = ((k + l - 1) % l : Nat) := by
    rw [Int.natCast_mod, hdividend, Int.add_emod_right]
    rfl
  rw [hmod, Int.toNat_natCast]

theorem Fmt.two_mul_half_lanes (f : Fmt) : 2 * (f.lanes / 2) = f.lanes := by cases f <;> rfl

theorem permAssigned_iff (n : Nat) (f : Fmt) :
    permAssigned n f = true ↔ n < 2 ∨ 2 ≤ n ∧ n ≤ 6 ∧ 2 ^ (n - 2) < f.lanes ∨ 7 ≤ n ∧ n ≤ 11 := by
  simp only [permAssigned, Bool.and_eq_true, Bool.or_eq_true, decide_eq_true_eq]
  by_cases hx : 2 ^ (n - 2) < f.lanes
  · simp only [hx, and_true, or_true]
    omega
  · simp only [hx, and_false, or_false, false_or]
    omega

/-! ## Predicates of compares (R160) -/

theorem predOf_succ (w : Nat) (g : Nat → Bool) (n : Nat) :
    predOf w g (n + 1) = 2 ^ (n * (w / 8)) * (if g n then 2 ^ (w / 8) - 1 else 0) + predOf w g n := by
  rw [predOf, Nat.add_comm, Nat.mul_comm (2 ^ _)]
  split
  · rfl
  · rw [Nat.zero_mul]

theorem predOf_lt (w : Nat) (g : Nat → Bool) (n : Nat) : predOf w g n < 2 ^ (n * (w / 8)) := by
  induction n with
  | zero => simp [predOf]
  | succ n ih =>
    have hgroup : (if g n then 2 ^ (w / 8) - 1 else 0) + 1 ≤ 2 ^ (w / 8) := by
      have := Nat.two_pow_pos (w / 8)
      split <;> omega
    rw [predOf_succ, Nat.succ_mul, Nat.pow_add]
    calc 2 ^ (n * (w / 8)) * (if g n then 2 ^ (w / 8) - 1 else 0) + predOf w g n
        < 2 ^ (n * (w / 8)) * ((if g n then 2 ^ (w / 8) - 1 else 0) + 1) := by rw [Nat.mul_succ]; omega
      _ ≤ 2 ^ (n * (w / 8)) * 2 ^ (w / 8) := Nat.mul_le_mul_left _ hgroup

/-- Every bit of a lane's byte group is the lane's result. -/
theorem testBit_predOf (w : Nat) (g : Nat → Bool) {n k j : Nat} (hk : k < n) (hj : j < w / 8) :
    (predOf w g n).testBit (k * (w / 8) + j) = g k := by
  induction n with
  | zero => omega
  | succ n ih =>
    rw [predOf_succ, Nat.testBit_two_pow_mul_add _ (predOf_lt w g n)]
    rcases Nat.lt_succ_iff_lt_or_eq.mp hk with hlt | rfl
    · have hbelow : (k + 1) * (w / 8) ≤ n * (w / 8) := Nat.mul_le_mul_right _ hlt
      rw [Nat.succ_mul] at hbelow
      rw [if_pos (by omega), ih hlt]
    · rw [if_neg (by omega), Nat.add_sub_cancel_left]
      cases g k <;> simp [Nat.testBit_two_pow_sub_one, hj]

theorem Fmt.group_lt (f : Fmt) {k j : Nat} (hk : k < f.lanes) (hj : j < f.width / 8) : k * (f.width / 8) + j < 32 := by
  cases f <;> simp only [Fmt.lanes, Fmt.width] at hk hj ⊢ <;> omega

/-- What VCMP finds of lane `k`: its condition and the flags of the comparison. -/
def State.compareLane (s : State) (a b : Reg) (f : Fmt) (c : Cond) (k : Nat) : Bool × Fl :=
  let x := lane (s.here.vreg a.toNat) k f.width
  let y := lane (s.here.vreg b.toNat) k f.width
  if f.isFloat then
    cmpFloat c ((Fmt.bin f).decode (fpFtz s.here.fpctl) x) ((Fmt.bin f).decode (fpFtz s.here.fpctl) y)
  else (cmpInt c f.width x y, Fl.none)

/-- The predicate that VCMP writes. -/
def State.comparePred (s : State) (a b : Reg) (q : PReg) (f : Fmt) (c : Cond) : BitVec 32 :=
  BitVec.ofNat 32 (predOf f.width
    (fun k => active (s.here.preg q.toNat) k f.width && (s.compareLane a b f c k).1) f.lanes)

theorem getLsbD_comparePred (s : State) (a b : Reg) (q : PReg) (f : Fmt) (c : Cond) {k j : Nat} (hk : k < f.lanes)
    (hj : j < f.width / 8) :
    (s.comparePred a b q f c).getLsbD (k * (f.width / 8) + j)
      = (active (s.here.preg q.toNat) k f.width && (s.compareLane a b f c k).1) := by
  rw [State.comparePred, BitVec.getLsbD_ofNat, testBit_predOf _ _ hk hj, decide_eq_true (Fmt.group_lt f hk hj),
    Bool.true_and]

theorem exec_vcmp (s : State) (d a b : Reg) (q : PReg) (f : Fmt) (c : Cond) :
    exec (.vcmp d a b q f c) s
      = .next (s.setHere (((s.here.setP d.toNat (s.comparePred a b q f c)).raise
        (laneFlags (s.here.preg q.toNat) f.width (fun k => (0, (s.compareLane a b f c k).2)) f.lanes)).advance)) := rfl

/-- VCMP from what it finds of each lane, where a comparison raises NV alone. -/
theorem exec_vcmp_of_compareLane {s : State} {a b : Reg} {f : Fmt} {c : Cond} {holds invalid : Nat → Bool}
    (h : ∀ k, s.compareLane a b f c k = (holds k, sigFl (invalid k))) (d : Reg) (q : PReg) :
    ∃ r : BitVec 32, exec (.vcmp d a b q f c) s
        = .next (s.setHere (({ s.here.setP d.toNat r with
            fpctl := s.here.fpctl ||| (if (List.range f.lanes).any fun k =>
              active (s.here.preg q.toNat) k f.width && invalid k then 0x100 else 0) } : Slot).goto s.nextPc))
      ∧ ∀ k j, k < f.lanes → j < f.width / 8 →
          r.getLsbD (k * (f.width / 8) + j) = (active (s.here.preg q.toNat) k f.width && holds k) := by
  refine ⟨s.comparePred a b q f c, ?_, fun k j hk hj => by rw [getLsbD_comparePred s a b q f c hk hj, h k]⟩
  rw [exec_vcmp, laneFlags_eq_sigFl (bad := invalid) fun k => by rw [h k], Slot.raise, sigFl_mask, Slot.advance,
    Slot.setP_pc, Slot.setP_fpctl]
  rfl

/-! ## What VCMP and VNZS find of a lane (R160, R167) -/

theorem Fmt.bin_eb_pos (f : Fmt) : 0 < (Fmt.bin f).eb := by cases f <;> decide
theorem Fmt.bin_fb_pos (f : Fmt) : 0 < (Fmt.bin f).fb := by cases f <;> decide

theorem Fmt.bin_eq_ite (f : Fmt) : Fmt.bin f = if f = .f16 then b16 else b32 := by cases f <;> rfl

theorem Fmt.two_pow_width_of_isFloat {f : Fmt} (hf : f.isFloat = true) : 2 ^ f.width = 2 * (Fmt.bin f).signBit := by
  cases f
  case i8 | i32 => exact absurd hf (by decide)
  case f16 | f32 => rfl

theorem Fmt.lane_lt_of_isFloat {f : Fmt} (hf : f.isFloat = true) (x : Vec) (k : Nat) :
    lane x k f.width < 2 * (Fmt.bin f).signBit := by
  rw [← Fmt.two_pow_width_of_isFloat hf]
  exact Fmt.lane_lt f x k

section

variable {s : State} {a b : Reg} {f : Fmt}

theorem State.compareLane_of_int (hf : f.isFloat = false) (c : Cond) (k : Nat) :
    s.compareLane a b f c k
      = (cmpInt c f.width (lane (s.here.vreg a.toNat) k f.width) (lane (s.here.vreg b.toNat) k f.width), sigFl false) := by
  rw [State.compareLane, hf]
  rfl

/-- A float comparison is one of keys, but for NaNs (R138, R160). -/
theorem State.compareLane_of_float {F : BinFmt} (hF : Fmt.bin f = F) (hf : f.isFloat = true) (c : Cond) (k : Nat) :
    let ftz := fpFtz s.here.fpctl
    let x := lane (s.here.vreg a.toNat) k f.width
    let y := lane (s.here.vreg b.toNat) k f.width
    s.compareLane a b f c k
      = (if F.infBits false < x % F.signBit ∨ F.infBits false < y % F.signBit then c == .ne || c == .un
          else orderHolds c (F.key (F.seen ftz x)) (F.key (F.seen ftz y)),
        sigFl (compareInvalid c (F.decode ftz x) (F.decode ftz y))) := by
  intro ftz x y
  subst hF
  let F := Fmt.bin f
  have heb : 0 < F.eb := Fmt.bin_eb_pos f
  have hfb : 0 < F.fb := Fmt.bin_fb_pos f
  have hnan : ((F.decode ftz x).isNan || (F.decode ftz y).isNan) = true
      ↔ F.infBits false < x % F.signBit ∨ F.infBits false < y % F.signBit := by
    rw [BinFmt.isNan_decode heb hfb, BinFmt.isNan_decode heb hfb, Bool.or_eq_true, decide_eq_true_eq, decide_eq_true_eq]
  rw [State.compareLane, if_pos hf]
  by_cases h : F.infBits false < x % F.signBit ∨ F.infBits false < y % F.signBit
  · rw [if_pos h]
    exact cmpFloat_of_nan (hnan.mpr h) c
  · have hno : ((F.decode ftz x).isNan || (F.decode ftz y).isNan) = false := Bool.eq_false_iff.mpr (h ∘ hnan.mp)
    obtain ⟨hnx, hny⟩ := Bool.or_eq_false_iff.mp hno
    rw [if_neg h]
    exact cmpFloat_of_not_nan hno (BinFmt.cmpVal_decode heb hfb ftz (Fmt.lane_lt_of_isFloat hf _ k)
      (Fmt.lane_lt_of_isFloat hf _ k) hnx hny) c

end

theorem Val.isNan_eq_beq (v : Val) : v.isNan = (v == .nan false || v == .nan true) := by
  rcases v with _ | _ | (_ | _) <;> rfl

theorem Val.isSig_eq_beq (v : Val) : v.isSig = (v == .nan true) := by
  rcases v with _ | _ | (_ | _) <;> rfl

/-- The two readings of a pattern under FTZ, of the model and of the statements, agree within the format. -/
theorem BinFmt.asRead_eq_seen {F : BinFmt} (heb : 0 < F.eb) (ftz : Bool) {x : Nat} (hx : x < 2 * F.signBit) :
    F.asRead ftz x = F.seen ftz x := by
  have hsign : x / F.signBit < 2 := Nat.div_lt_of_lt_mul (by omega)
  have hall : 2 ^ (F.eb + F.fb + 1) = 2 * F.signBit := Nat.pow_succ'
  rw [BinFmt.asRead, BinFmt.seen, Nat.add_comm F.eb F.fb, bits_eq_div_mod heb, Nat.add_comm F.fb F.eb, hall,
    Nat.mod_eq_of_lt hx, ← BinFmt.signBit, Nat.mod_eq_of_lt hsign]
  simp only [Bool.and_eq_true, decide_eq_true_eq]

theorem withSign_eq_zero (neg : Bool) (mag : Nat) : withSign neg mag = 0 ↔ mag = 0 := by
  cases neg <;> simp

/-- A lane counts for VNZS where its integer, or its key as read, is not 0. -/
theorem nonZero_lane (f : Fmt) (ftz : Bool) (x : Vec) (k : Nat) :
    nonZero f ftz (lane x k f.width)
      = decide ((if f.isFloat then (Fmt.bin f).key ((Fmt.bin f).seen ftz (lane x k f.width))
          else lane x k f.width) ≠ 0) := by
  cases hf : f.isFloat with
  | false => simp [nonZero, hf]
  | true =>
    have hx := Fmt.lane_lt_of_isFloat hf x k
    rw [nonZero, if_pos hf, if_pos rfl, BinFmt.asRead_eq_seen (Fmt.bin_eb_pos f) ftz hx,
      BinFmt.key_eq_withSign (BinFmt.seen_lt hx ftz)]
    exact decide_eq_decide.mpr (not_congr (withSign_eq_zero _ _).symm)

/-- The numbers of lanes fit in lanes. -/
theorem Fmt.getD_filter_range_lt (f : Fmt) (p : Nat → Bool) (k : Nat) :
    ((List.range f.lanes).filter p).getD k 0 < 2 ^ f.width := by
  rw [List.getD_eq_getElem?_getD]
  cases h : ((List.range f.lanes).filter p)[k]? with
  | none => exact Nat.two_pow_pos _
  | some i =>
    have hi : i < f.lanes := List.mem_range.mp (List.mem_of_mem_filter (List.mem_of_getElem? h))
    exact Nat.lt_of_lt_of_le hi (Fmt.lanes_le_two_pow_width f)

/-- VNZS from the condition that counts a lane. -/
theorem exec_vnzs_of_hits {s : State} {a b : Reg} {f : Fmt} {q : PReg} {hit : Nat → Bool}
    (hb : s.here.isPend b.toNat = false)
    (hhit : ∀ k, (active (s.here.preg q.toNat) k f.width
      && nonZero f (fpFtz s.here.fpctl) (lane (s.here.vreg a.toNat) k f.width)) = hit k) (d : Reg) :
    ∃ r : Vec, exec (.vnzs d a b q f) s
        = .next (s.setHere (((s.here.setV d.toNat r).setS b.toNat
            (BitVec.ofNat 64 ((List.range f.lanes).filter hit).length)).goto s.nextPc))
      ∧ ∀ k, k < f.lanes → lane r k f.width = ((List.range f.lanes).filter hit).getD k 0 := by
  obtain rfl := funext hhit
  refine ⟨_, ?_, fun k hk => Fmt.lane_ofLanes f _ hk (Fmt.getD_filter_range_lt f _ k)⟩
  refine (if_neg (by simp [hb])).trans ?_
  rw [Slot.advance, Slot.setS_pc, Slot.setV_pc]
  rfl

/-- Settles O25: the bit moves are one completion lane by lane, each with its own source of a lane; VCMP follows from what it
finds of one lane, by the order of integers or of keys; VNZS from which lanes count. -/
theorem laneMovesAndCompares : Obligations.LaneMovesAndCompares := by
  refine ⟨?moves, ?compares⟩
  case moves =>
    intro s d a b n q f w x y
    refine ⟨exec_vsel_lanes s d a b q f, exec_vbc_laneWise s d a q f, exec_vxl_laneWise s d a b q f, ?vperm⟩
    intro L moves
    have hhalf : 2 * (L / 2) = L := Fmt.two_mul_half_lanes f
    refine ⟨?same, ?reversed, ?exchanged, ?up, ?down, ?interleaved, ?parted, ?first, permAssigned_iff n.toNat f⟩
    case same => exact fun hn => exec_vperm_laneWise s d a n q f fun k hk => ⟨by rw [hn]; rfl, hk⟩
    case reversed => exact fun hn => exec_vperm_laneWise s d a n q f fun k hk => ⟨by rw [hn]; rfl, by omega⟩
    case exchanged =>
      exact fun h2 h6 hL => exec_vperm_laneWise s d a n q f fun k hk =>
        ⟨permLane_of_exchange h2 h6 _ k, Fmt.xor_two_pow_lt_lanes f hk hL⟩
    case up => exact fun hn => exec_vperm_laneWise s d a n q f fun k hk => ⟨by rw [hn]; rfl, Nat.mod_lt _ (by omega)⟩
    case down =>
      exact fun hn => exec_vperm_laneWise s d a n q f fun k hk => by
        rw [hn, toNat_pred_emod (Nat.zero_lt_of_lt hk)]
        exact ⟨rfl, Nat.mod_lt _ (Nat.zero_lt_of_lt hk)⟩
    case interleaved =>
      exact fun hn => exec_vperm_laneWise s d a n q f fun k hk => ⟨by rw [hn]; rfl, by split <;> omega⟩
    case parted =>
      exact fun hn => exec_vperm_laneWise s d a n q f fun k hk => ⟨by rw [hn]; rfl, by split <;> omega⟩
    case first => exact fun hn => exec_vperm_laneWise s d a n q f fun k hk => ⟨by rw [hn]; rfl, by omega⟩
  case compares =>
    intro s d a b q f c w x y X Y on F ftz holds V nan invalid
    refine ⟨exec_vcmp_of_compareLane (fun k => ?vcmp) d q, fun hb => ?vnzs⟩
    case vcmp =>
      cases hf : f.isFloat with
      | false =>
        have hholds : holds k = cmpInt c w (x k) (y k) := by
          simp only [holds, hf, cmpInt, Fmt.sint_lane, x, y, w]
          cases c <;> rfl
        have hinvalid : invalid k = false := by simp only [invalid, hf, Bool.false_and]
        rw [State.compareLane_of_int hf, hholds, hinvalid]
      | true =>
        have hholds : holds k =
            if F.infBits false < x k % F.signBit ∨ F.infBits false < y k % F.signBit then c == .ne || c == .un
            else orderHolds c (F.key (F.seen ftz (x k))) (F.key (F.seen ftz (y k))) := by
          simp only [holds, hf]
          cases c <;> rfl
        have hinvalid : invalid k = compareInvalid c (V (x k)) (V (y k)) := by
          simp only [invalid, nan, hf, compareInvalid, Val.isNan_eq_beq, Val.isSig_eq_beq, Bool.true_and]
        rw [State.compareLane_of_float (Fmt.bin_eq_ite f) hf, hholds, hinvalid]
    case vnzs =>
      exact exec_vnzs_of_hits hb (fun k => by rw [nonZero_lane, Fmt.bin_eq_ite]) d

end Sys2Proof.Machine
end
